-- ==== Sys2Proof/Word.lean ====
section
/-! DEFINITION. The word types of the device and the plainest containers built on them. -/

namespace Sys2Proof

/-- A 64-bit register or memory word (R8, R11). -/
abbrev Word := BitVec 64

/-- One byte. -/
abbrev Byte := BitVec 8

/-- A capability of R15: 128 bits and one tag held out of band. -/
structure Cap where
  /-- bits [127:0] of R15 -/
  bits : BitVec 128
  /-- the tag -/
  tag  : Bool
  deriving DecidableEq, Repr, Inhabited

/-- The null capability (R16): 128 zero bits, tag clear. -/
def Cap.null : Cap := { bits := 0, tag := false }

/-- Sparse data by key: (key, value) pairs with keys strictly rising and no value equal to the
default of its key. The operations are in Machine/Bits.lean. -/
abbrev SMap (α : Type) := List (Nat × α)

end Sys2Proof
end

