-- ==== Sys2Proof/Syntax.lean ====
section
/-! DEFINITION. The commands of the block: one constructor of `Instr` for each row of
spec/opcode_table.json. A row of the instruction set is one issue of that instruction by the context
`cx`; every other row is one event of the part (spec/95_what_each_step_holds.md). The table gives its
rows no operands; the operands here are the ones the rule of the row needs. -/

namespace Sys2Proof

/-- Device-wide context number of R109: cluster × 256 + core × 16 + context. -/
abbrev CtxId := BitVec 11
/-- Core number: cluster × 16 + core. -/
abbrev CoreId := BitVec 7
/-- Five-bit register number of R69 (or an FP register of R121). -/
abbrev Reg := BitVec 5
/-- Initiator class of R192 of a register access. -/
abbrev InitClass := BitVec 4

/-- The offset operand of R84: an immediate (LD, ST) or a register (LDX, STX). -/
inductive MemOff where
  | imm (i : BitVec 11)
  | reg (r : Reg)
  deriving DecidableEq, Repr

/-- The five engines, numbered as R204 and R243 number them. -/
inductive Eng where
  | chk | idx | cdn | cph | cdr
  deriving DecidableEq, Repr

/-- The ports of the device, in the order of the PORT detail of R147. -/
inductive Port where
  | host (h : BitVec 1)
  | med (m : BitVec 2)
  | peer (p : BitVec 1)
  deriving DecidableEq, Repr

/-- A TLB of R164. -/
inductive TlbId where
  | l1i (core : CoreId)
  | l1d (core : CoreId)
  | l2 (cluster : BitVec 3)
  | mover
  deriving DecidableEq, Repr

/-- What a fabric transaction does at its target (R11, R192). `tags` and `poison` name one bit for
each granule touched, in address order; a missing one is 0. -/
inductive TxnOp where
  | read
  | exec
  | write (data : List Byte) (tags : List Bool) (poison : List Bool)
  | atomicAdd (v : Word)
  | atomicSwap (v : Word)
  | atomicCap (c : Cap)
  deriving DecidableEq, Repr

/-- A fabric transaction (R11, R192): `n` bytes from `pa`, inside one 64-byte line. -/
structure Txn where
  pa     : Nat
  n      : Nat
  op     : TxnOp
  cls    : InitClass
  colour : BitVec 4
  src    : BitVec 16
  deriving DecidableEq, Repr

/-- A memory request that arrives at a port from outside (R361, R365, R372). -/
structure PortReq where
  write : Bool
  addr  : Nat
  n     : Nat
  data  : List Byte
  ep    : Bool
  reqid : BitVec 16
  deriving DecidableEq, Repr

/-- What a posted request of the host carries, with the requester ID of the request. -/
structure Requested (α : Type) where
  val   : α
  reqid : BitVec 16
  deriving DecidableEq, Repr

/-- What a PCIe port receives with a bad LCRC (R431): a TLP, or a DLLP. -/
structure BadRx where
  port : Port
  dllp : Bool
  deriving DecidableEq, Repr

/-- A private write of the I3C controller up to ADDR (R376): its CMD, its length in bytes, and ADDR. -/
structure I3cReq where
  cmd  : Byte
  n    : Nat
  addr : BitVec 24
  deriving DecidableEq, Repr

/-- The fields of a stroke of R383 beside its TYPE; `pad` holds bytes 0x92, 0x93 and 0x98 to 0x9B. -/
structure Stroke where
  vl      : BitVec 8
  seq     : BitVec 16
  rtag    : BitVec 16
  wmask   : BitVec 16
  arg     : Word
  payload : List Byte
  ack     : BitVec 16
  pad     : BitVec 48
  cred    : BitVec 32
  crc     : BitVec 32
  deriving DecidableEq, Repr

/-- How a completion for an outbound PCIe read ends (R369, R370). -/
inductive CplStatus where
  | sc | ur | ca | ep | rrs
  deriving DecidableEq, Repr

/-- The walks of TRANSLATION_WALK: the data side or the fetch side of a context. -/
inductive WalkFor where
  | data (cx : CtxId)
  | fetch (cx : CtxId)
  deriving DecidableEq, Repr

/-- A wake source of R401. -/
inductive WakeSrc where
  | tba | perst | i3c
  deriving DecidableEq, Repr

/-- What the memory field's initialisation found (R407): for a training, the temperature of each stack (R182). -/
inductive MemInit where
  | warm | calibrated | trained (temps : List (BitVec 8)) | untrainable
  deriving DecidableEq, Repr

/-- A source of images under R408: the bytes that the NOR gives for the reads of its two slots, and the fastest quad read
that its SFDP table lists, as opcode and LINES, none without a valid table (R379). The host source holds its images in
scratchpad. -/
inductive BootSrc where
  | norPrimary (sfdp : Option (Byte × BitVec 2)) (cust op : List Byte)
  | norBackup (sfdp : Option (Byte × BitVec 2)) (cust op : List Byte)
  | host
  deriving DecidableEq, Repr

/-- A condition code of R81. -/
abbrev Cond := BitVec 4

inductive Instr where
  -- Integer operations (R74 to R80)
  | add (cx : CtxId) (sf : Bool) (rd rs1 rs2 : Reg)
  | addc (cx : CtxId) (sf : Bool) (rd rs1 rs2 : Reg)
  | sub (cx : CtxId) (sf : Bool) (rd rs1 rs2 : Reg)
  | subc (cx : CtxId) (sf : Bool) (rd rs1 rs2 : Reg)
  | and (cx : CtxId) (sf : Bool) (rd rs1 rs2 : Reg)
  | or (cx : CtxId) (sf : Bool) (rd rs1 rs2 : Reg)
  | xor (cx : CtxId) (sf : Bool) (rd rs1 rs2 : Reg)
  | andn (cx : CtxId) (sf : Bool) (rd rs1 rs2 : Reg)
  | shl (cx : CtxId) (sf : Bool) (rd rs1 rs2 : Reg)
  | shr (cx : CtxId) (sf : Bool) (rd rs1 rs2 : Reg)
  | sar (cx : CtxId) (sf : Bool) (rd rs1 rs2 : Reg)
  | ror (cx : CtxId) (sf : Bool) (rd rs1 rs2 : Reg)
  | min (cx : CtxId) (sf : Bool) (rd rs1 rs2 : Reg)
  | max (cx : CtxId) (sf : Bool) (rd rs1 rs2 : Reg)
  | minu (cx : CtxId) (sf : Bool) (rd rs1 rs2 : Reg)
  | maxu (cx : CtxId) (sf : Bool) (rd rs1 rs2 : Reg)
  | clz (cx : CtxId) (sf : Bool) (rd rs1 : Reg)
  | ctz (cx : CtxId) (sf : Bool) (rd rs1 : Reg)
  | popc (cx : CtxId) (sf : Bool) (rd rs1 : Reg)
  | bswap (cx : CtxId) (sf : Bool) (rd rs1 : Reg)
  | sextb (cx : CtxId) (sf : Bool) (rd rs1 : Reg)
  | sexth (cx : CtxId) (sf : Bool) (rd rs1 : Reg)
  | sextw (cx : CtxId) (sf : Bool) (rd rs1 : Reg)
  | zexth (cx : CtxId) (sf : Bool) (rd rs1 : Reg)
  | zextw (cx : CtxId) (sf : Bool) (rd rs1 : Reg)
  | slt (cx : CtxId) (sf : Bool) (rd rs1 rs2 : Reg)
  | sltu (cx : CtxId) (sf : Bool) (rd rs1 rs2 : Reg)
  | addi (cx : CtxId) (sf : Bool) (rd rs1 : Reg) (imm : BitVec 11)
  | subi (cx : CtxId) (sf : Bool) (rd rs1 : Reg) (imm : BitVec 11)
  | andi (cx : CtxId) (sf : Bool) (rd rs1 : Reg) (imm : BitVec 11)
  | ori (cx : CtxId) (sf : Bool) (rd rs1 : Reg) (imm : BitVec 11)
  | xori (cx : CtxId) (sf : Bool) (rd rs1 : Reg) (imm : BitVec 11)
  | shli (cx : CtxId) (sf : Bool) (rd rs1 : Reg) (imm : BitVec 11)
  | shri (cx : CtxId) (sf : Bool) (rd rs1 : Reg) (imm : BitVec 11)
  | sari (cx : CtxId) (sf : Bool) (rd rs1 : Reg) (imm : BitVec 11)
  | rori (cx : CtxId) (sf : Bool) (rd rs1 : Reg) (imm : BitVec 11)
  | slti (cx : CtxId) (sf : Bool) (rd rs1 : Reg) (imm : BitVec 11)
  | sltiu (cx : CtxId) (sf : Bool) (rd rs1 : Reg) (imm : BitVec 11)
  | movi (cx : CtxId) (rd : Reg) (imm : BitVec 21)
  | movsh (cx : CtxId) (rd : Reg) (imm : BitVec 21)
  | mul (cx : CtxId) (rd rs1 rs2 : Reg)
  | mulhu (cx : CtxId) (rd rs1 rs2 : Reg)
  | mulhs (cx : CtxId) (rd rs1 rs2 : Reg)
  | divu (cx : CtxId) (rd rs1 rs2 : Reg)
  | div (cx : CtxId) (rd rs1 rs2 : Reg)
  | remu (cx : CtxId) (rd rs1 rs2 : Reg)
  | rem (cx : CtxId) (rd rs1 rs2 : Reg)
  /-- the divider of the context delivers (R78) -/
  | divideResult (cx : CtxId)
  | dstep (cx : CtxId) (rd rs2 : Reg)
  -- Branches (R81 to R83)
  | b (cx : CtxId) (imm : BitVec 26)
  | bcc (cx : CtxId) (cond : Cond) (imm : BitVec 22)
  | cbcc (cx : CtxId) (cond : Cond) (rs1 rs2 : Reg) (imm : BitVec 11)
  | jmp (cx : CtxId) (rs1 : Reg)
  | jmpl (cx : CtxId) (rd rs1 : Reg)
  -- Loads and stores (R84 to R86)
  | ldb (cx : CtxId) (rd rs1 : Reg) (off : MemOff)
  | ldh (cx : CtxId) (rd rs1 : Reg) (off : MemOff)
  | ldw (cx : CtxId) (rd rs1 : Reg) (off : MemOff)
  | ldd (cx : CtxId) (rd rs1 : Reg) (off : MemOff)
  | ldbs (cx : CtxId) (rd rs1 : Reg) (off : MemOff)
  | ldhs (cx : CtxId) (rd rs1 : Reg) (off : MemOff)
  | ldws (cx : CtxId) (rd rs1 : Reg) (off : MemOff)
  | ldc (cx : CtxId) (rd rs1 : Reg) (off : MemOff)
  | stb (cx : CtxId) (data rs1 : Reg) (off : MemOff)
  | sth (cx : CtxId) (data rs1 : Reg) (off : MemOff)
  | stw (cx : CtxId) (data rs1 : Reg) (off : MemOff)
  | std (cx : CtxId) (data rs1 : Reg) (off : MemOff)
  | stc (cx : CtxId) (data rs1 : Reg) (off : MemOff)
  /-- outstanding load number `idx` of the context, oldest 0, returns (R51) -/
  | loadReturn (cx : CtxId) (idx : Nat)
  | storeBufferDrain (cx : CtxId)
  -- Atomics and fences (R87, R88)
  | aadd (cx : CtxId) (rd rs1 rs2 : Reg)
  | aswap (cx : CtxId) (rd rs1 rs2 : Reg)
  | cswap (cx : CtxId) (rd rs1 rs2 : Reg)
  | fence (cx : CtxId)
  | fencew (cx : CtxId)
  -- Cache and TLB maintenance (R91, R92)
  | cclean (cx : CtxId) (rs1 : Reg) (imm : BitVec 11)
  | cflush (cx : CtxId) (rs1 : Reg) (imm : BitVec 11)
  | cinval (cx : CtxId) (rs1 : Reg) (imm : BitVec 11)
  | iinval (cx : CtxId) (rs1 : Reg) (imm : BitVec 11)
  | tlbiva (cx : CtxId) (w : Bool) (rs1 rs2 : Reg)
  | tlbiasid (cx : CtxId) (w : Bool) (rs2 : Reg)
  | tlbiw (cx : CtxId) (w : Bool)
  | tlbipa (cx : CtxId) (w : Bool) (rs1 : Reg)
  | tlbis2 (cx : CtxId) (w : Bool)
  | tlbsync (cx : CtxId) (w : Bool)
  /-- the oldest invalidation pending at a TLB completes there (R167) -/
  | invalidationComplete (tlb : TlbId)
  -- Capability instructions (R89, R90)
  | amov (cx : CtxId) (rd rs1 : Reg)
  | astep (cx : CtxId) (rd rs1 rs2 : Reg)
  | astepi (cx : CtxId) (rd rs1 : Reg) (imm : BitVec 11)
  | aplace (cx : CtxId) (rd rs1 rs2 : Reg)
  | amask (cx : CtxId) (rd rs1 rs2 : Reg)
  | amaski (cx : CtxId) (rd rs1 : Reg) (imm : BitVec 11)
  | anarrow (cx : CtxId) (rd rs1 rs2 : Reg)
  | afit (cx : CtxId) (rd rs1 rs2 : Reg)
  | auntag (cx : CtxId) (rd rs1 : Reg)
  | ahere (cx : CtxId) (rd : Reg)
  | ainfoCursor (cx : CtxId) (rd rs1 : Reg)
  | ainfoBase (cx : CtxId) (rd rs1 : Reg)
  | ainfoLength (cx : CtxId) (rd rs1 : Reg)
  | ainfoRights (cx : CtxId) (rd rs1 : Reg)
  | ainfoTag (cx : CtxId) (rd rs1 : Reg)
  | ainfoType (cx : CtxId) (rd rs1 : Reg)
  | ainfoColour (cx : CtxId) (rd rs1 : Reg)
  | awithin (cx : CtxId) (rd rs1 rs2 : Reg)
  | cxevict (cx : CtxId) (rs1 rs2 : Reg)
  | cxload (cx : CtxId) (rd rs1 rs2 : Reg)
  | mrs (cx : CtxId) (rd : Reg) (num : BitVec 11)
  | msr (cx : CtxId) (rs1 : Reg) (num : BitVec 11)
  -- Calls, repeats, bells, alerts, ports (R99 to R119)
  | callw (cx : CtxId) (imm : BitVec 26)
  | callwr (cx : CtxId) (rs1 : Reg)
  | retw (cx : CtxId)
  | reta (cx : CtxId)
  | callm (cx : CtxId) (rd : Reg) (mask : BitVec 16)
  | retm (cx : CtxId) (mask : BitVec 16)
  | repi (cx : CtxId) (rs1 : Reg) (imm : BitVec 11)
  | repu (cx : CtxId) (rs1 : Reg) (imm : BitVec 11)
  | ring (cx : CtxId) (rs1 : Reg) (imm : BitVec 11)
  | waitb (cx : CtxId) (rs1 : Reg) (imm : BitVec 11)
  | btake (cx : CtxId) (rd rs1 : Reg) (imm : BitVec 11)
  | yield (cx : CtxId)
  | alset (cx : CtxId) (rs1 : Reg) (imm : BitVec 11)
  | almask (cx : CtxId) (rs1 : Reg)
  | waitt (cx : CtxId) (rs1 : Reg)
  | waitbt (cx : CtxId) (rd rs1 rs2 : Reg)
  /-- TB has reached the deadline of a waiting context (R112) -/
  | waitDeadline (cx : CtxId)
  | alertDiversion (cx : CtxId)
  | movpw (cx : CtxId) (rs1 rs2 : Reg)
  | movpr (cx : CtxId) (rd rs1 : Reg)
  | schedulerAgeing (core : CoreId)
  | fetchReturn (cx : CtxId)
  | detModeEntry (core : CoreId)
  -- Floating point (R121 to R138): `p` is 1 for binary64, `rm` the rounding field
  | fadd (cx : CtxId) (p : Bool) (rm : BitVec 3) (rd rs1 rs2 : Reg)
  | fsub (cx : CtxId) (p : Bool) (rm : BitVec 3) (rd rs1 rs2 : Reg)
  | fmul (cx : CtxId) (p : Bool) (rm : BitVec 3) (rd rs1 rs2 : Reg)
  | fdiv (cx : CtxId) (p : Bool) (rm : BitVec 3) (rd rs1 rs2 : Reg)
  | fsqrt (cx : CtxId) (p : Bool) (rm : BitVec 3) (rd rs1 : Reg)
  | fmin (cx : CtxId) (p : Bool) (rd rs1 rs2 : Reg)
  | fmax (cx : CtxId) (p : Bool) (rd rs1 rs2 : Reg)
  | fcmp (cx : CtxId) (p : Bool) (rs1 rs2 : Reg)
  | fcmps (cx : CtxId) (p : Bool) (rs1 rs2 : Reg)
  | fmadd (cx : CtxId) (p : Bool) (rm : BitVec 3) (rd rs1 rs2 rs3 : Reg)
  | fmsub (cx : CtxId) (p : Bool) (rm : BitVec 3) (rd rs1 rs2 rs3 : Reg)
  | fnmadd (cx : CtxId) (p : Bool) (rm : BitVec 3) (rd rs1 rs2 rs3 : Reg)
  | fnmsub (cx : CtxId) (p : Bool) (rm : BitVec 3) (rd rs1 rs2 rs3 : Reg)
  | fcvtsd (cx : CtxId) (rm : BitVec 3) (rd rs1 : Reg)
  | fcvtds (cx : CtxId) (rd rs1 : Reg)
  | fcvtld (cx : CtxId) (rm : BitVec 3) (rd rs1 : Reg)
  | fcvtlud (cx : CtxId) (rm : BitVec 3) (rd rs1 : Reg)
  | fcvtdl (cx : CtxId) (rm : BitVec 3) (rd rs1 : Reg)
  | fcvtdlu (cx : CtxId) (rm : BitVec 3) (rd rs1 : Reg)
  | fcvtls (cx : CtxId) (rm : BitVec 3) (rd rs1 : Reg)
  | fcvtlus (cx : CtxId) (rm : BitVec 3) (rd rs1 : Reg)
  | fcvtsl (cx : CtxId) (rm : BitVec 3) (rd rs1 : Reg)
  | fcvtslu (cx : CtxId) (rm : BitVec 3) (rd rs1 : Reg)
  | fmvif (cx : CtxId) (rd rs1 : Reg)
  | fmvfi (cx : CtxId) (rd rs1 : Reg)
  | frcsr (cx : CtxId) (rd : Reg)
  | fwcsr (cx : CtxId) (rs1 : Reg)
  | fbar (cx : CtxId)
  | flw (cx : CtxId) (rd rs1 : Reg) (imm : BitVec 11)
  | fld (cx : CtxId) (rd rs1 : Reg) (imm : BitVec 11)
  | fsw (cx : CtxId) (rd rs1 : Reg) (imm : BitVec 11)
  | fsd (cx : CtxId) (rd rs1 : Reg) (imm : BitVec 11)
  /-- outstanding FP operation number `idx`, oldest 0, completes (R135, R136) -/
  | fpResult (cx : CtxId) (idx : Nat)
  | fpBankSwap (core : CoreId)
  -- Service entry and context control (R139 to R153)
  | sysc (cx : CtxId) (n : BitVec 16)
  | sysr (cx : CtxId) (k : BitVec 3)
  | accept (cx : CtxId)
  | takef (cx : CtxId)
  | resume (cx : CtxId) (rs1 : Reg)
  | restart (cx : CtxId) (rs1 rs2 : Reg)
  | kill (cx : CtxId) (rs1 : Reg)
  | park (cx : CtxId) (rs1 : Reg)
  | cxstart (cx : CtxId) (level world : Bool) (target : BitVec 4) (rs1 rs2 : Reg)
  -- Translation, caches, gates, memory
  | translationWalk (who : WalkFor)
  /-- The `idx`-th of the cluster's lost write-backs that are still to be recorded is recorded. -/
  | writebackError (cluster : BitVec 3) (idx : Nat)
  | cleanAll (cluster : BitVec 3) (ic : InitClass)
  | flushAll (cluster : BitVec 3) (ic : InitClass)
  | invalidateAll (cluster : BitVec 3) (ic : InitClass)
  | cmaintDone (cluster : BitVec 3)
  | wayenWrite (cluster : BitVec 3) (v : Word) (ic : InitClass)
  | fabricTransaction (t : Txn)
  | swap (g : BitVec 4) (ic : InitClass)
  | swapDone (g : BitVec 4)
  | dramRefresh (m : Fin 5)
  | recentre (m : Fin 5)
  | retrain (m : Fin 5) (ic : InitClass)
  /-- one step of R183 on controller `m`; `found` says whether an eye was found -/
  | retrainStep (m : Fin 5) (found : Bool)
  | retrainRetry (m : Fin 5) (found : Bool)
  | scrubPair (m : Fin 5)
  | bankSelfScrub (bank : BitVec 8)
  | bankreqWrite (n : BitVec 3) (v : Word) (ic : InitClass)
  | bankTransitionDone (bank : BitVec 8)
  -- The Mover
  | kickBell (ch : BitVec 6)
  | movchStart (ch : BitVec 6) (ic : InitClass)
  | movchStep (ch : BitVec 6) (ic : InitClass)
  | movchKick (ch : BitVec 6) (ic : InitClass)
  | arm (ch : BitVec 6) (ic : InitClass)
  | disable (ch : BitVec 6) (ic : InitClass)
  | enable (ch : BitVec 6) (ic : InitClass)
  | gctrlClear (ic : InitClass)
  | moverAnchorRead (ch : BitVec 6)
  | moverDescriptorFetch (ch : BitVec 6)
  | unitSelect (u : BitVec 2)
  | copy (ch : BitVec 6)
  | fill (ch : BitVec 6)
  | compare (ch : BitVec 6)
  | sweep (ch : BitVec 6)
  | moverDescriptorComplete (ch : BitVec 6)
  | moverHalt
  -- Engine rings
  | rcmdStart (e : Eng) (r : BitVec 4) (ic : InitClass)
  | rewind (e : Eng) (r : BitVec 4) (ic : InitClass)
  | stop (e : Eng) (r : BitVec 4) (ic : InitClass)
  | rcmdKick (e : Eng) (r : BitVec 4) (ic : InitClass)
  | ringKickBell (e : Eng) (r : BitVec 4)
  | engineAnchorRead (e : Eng) (r : BitVec 4)
  | engineDescriptorFetch (e : Eng) (r : BitVec 4)
  | engineDescriptorComplete (e : Eng) (r : BitVec 4)
  | engineBusError (e : Eng) (r : BitVec 4)
  -- Engine operations: `i` is the position in the ring's accepted descriptors, oldest 0
  | chunk (r : BitVec 4) (i : Nat)
  | fprint (r : BitVec 4) (i : Nat)
  | openBatch (r : BitVec 4) (i : Nat)
  | openProceed (r : BitVec 4) (i : Nat)
  | lookup (r : BitVec 4) (i : Nat)
  | insert (r : BitVec 4) (i : Nat)
  | remove (r : BitVec 4) (i : Nat)
  | commit (r : BitVec 4) (i : Nat)
  | abort (r : BitVec 4) (i : Nat)
  | idxCmdAbort (ic : InitClass)
  | pcomp (r : BitVec 4) (i : Nat)
  | pdec (r : BitVec 4) (i : Nat)
  | dload (r : BitVec 4) (i : Nat)
  | dfree (r : BitVec 4) (i : Nat)
  | dictOpProceed (r : BitVec 4) (i : Nat)
  | denc (r : BitVec 4) (i : Nat)
  | ddec (r : BitVec 4) (i : Nat)
  | run (r : BitVec 4) (i : Nat)
  | pload (r : BitVec 4) (i : Nat)
  | ploadProceed (r : BitVec 4) (i : Nat)
  | cauchy (r : BitVec 4) (i : Nat)
  | encrypt (r : BitVec 4) (i : Nat)
  | decrypt (r : BitVec 4) (i : Nat)
  -- The Custodian island: the operation at the head of its unit's queue
  | seal
  | unseal
  | recolour
  | wcheck
  | wmake
  | epoch
  | tenant
  | tread
  | imageKeyReady
  | derive
  | unwrap
  | clearKey
  | attr
  | extend
  | fold
  | readm
  | adv (target : BitVec 3) (confirm : BitVec 16) (ic : InitClass)
  | transitionComplete
  | tamperPin
  | refclkOutOfRange
  | coldTamper
  | wipeComplete
  -- Host and media ports
  | perstNAssert (h : BitVec 1)
  | perstNRise (h : BitVec 1)
  | cfgready (h : BitVec 1) (ic : InitClass)
  /-- a configuration read (`none`) or write of the dword at `off` -/
  | configRequest (h : BitVec 1) (off : BitVec 12) (write : Option (BitVec 32))
  | functionLevelReset (h : BitVec 1)
  | hotReset (h : BitVec 1)
  | d3hotEntry (h : BitVec 1)
  | pcieLinkUp (p : Port) (speed : BitVec 3) (width : BitVec 5) (flit : Bool)
  | pcieLinkDown (p : Port)
  | bar0Request (h : BitVec 1) (q : PortReq)
  /-- a write to BAR2 at offset `off`, poisoned with `ep`: the doorbells are offsets 0 to 0x1FF -/
  | doorbellWrite (h : BitVec 1) (off : Requested Nat) (data : List Byte) (ep : Bool)
  /-- a read of BAR2, `q.addr` its offset -/
  | doorbellRead (h : BitVec 1) (q : PortReq)
  | bellWindowWrite (h : BitVec 1) (j : BitVec 11) (reqid : BitVec 16)
  | msix (h : BitVec 1) (v : BitVec 11) (ic : InitClass)
  /-- ACMD LOAD of slot `a`, whose WRIT field the host has written with these 256 bits -/
  | apertureLoad (h : BitVec 1) (a : BitVec 6) (writ : Requested (BitVec 256))
  | apertureClose (h : BitVec 1) (a : Requested (BitVec 6))
  | apclose (h : BitVec 1) (mask : Word) (ic : InitClass)
  | bar4Request (h : BitVec 1) (q : PortReq)
  | outboundWindowRequest (t : Txn)
  | pcieCompletion (p : Port) (tag : Nat) (st : CplStatus) (data : List Byte)
  | completionTimeout (p : Port) (tag : Nat)
  | mediaConfigRequest (t : Txn)
  | configRetry (m : BitVec 2) (tag : Nat) (expired : Bool)
  /-- `req.val` is the EP bit of the write -/
  | mediaDoorbellWrite (m : BitVec 2) (off : BitVec 16) (req : Requested Bool)
  | mediaInboundRequest (m : BitVec 2) (q : PortReq)
  | ianchorEnable (p : Port) (ic : InitClass)
  | ianchorDisable (p : Port) (ic : InitClass)
  -- Management port
  | entdaa (da : BitVec 7)
  | setdasa (da : BitVec 7)
  | setnewda (da : BitVec 7)
  | rstdaa
  | enec (events : Byte)
  | disec (events : Byte)
  | getpid
  | getbcr
  | getdcr
  | getstatus
  | getmwl
  | getmrl
  /-- private writes with CMD 0x01 to 0x04 (R376); an unknown CMD comes as one of them -/
  | i3cReadRegister (q : I3cReq)
  | i3cWriteRegister (q : I3cReq) (data : Word)
  | i3cReadKeep (q : I3cReq)
  | i3cWriteKeep (q : I3cReq) (data : Word)
  /-- a private write with CMD 0x10 (R401) -/
  | i3cWake
  | i3cPrivateRead
  | utx (data : Byte) (ic : InitClass)
  | urx (ic : InitClass)
  | uartRxByte (data : Byte)
  | uartTxByte
  | testLogicReset
  | bypass
  | idcode
  | samplePreload
  | extest
  /-- DEBUG selected and, unless `acc` is none, one access: keep?, offset, write data -/
  | jtagDebug (acc : Option (Bool × BitVec 24 × Option Word))
  | go (v : Word) (ic : InitClass)
  | spidata (write : Option Word) (ic : InitClass)
  | spiCommandDone (data : List Byte)
  -- The Tambour link
  | peerCtrlEn (p : BitVec 1) (v : Word) (ic : InitClass)
  | elecDone (p : BitVec 1)
  | bringupTimeout (p : BitVec 1)
  | idleStroke (p : BitVec 1) (k : Stroke)
  | nak (p : BitVec 1) (k : Stroke)
  | initStroke (p : BitVec 1) (k : Stroke)
  /-- an ALIGN stroke, and whether it arrived deskewed -/
  | alignStroke (p : BitVec 1) (k : Stroke × Bool)
  | mwr (p : BitVec 1) (k : Stroke)
  | mrd (p : BitVec 1) (k : Stroke)
  | mcpl (p : BitVec 1) (k : Stroke)
  | bellStroke (p : BitVec 1) (k : Stroke)
  /-- a TSYNC stroke whose first symbol arrives `part` units of 10/256 ns after the last count of TB -/
  | tsync (p : BitVec 1) (k : Stroke) (part : BitVec 8)
  | gossip (p : BitVec 1) (k : Stroke)
  | strokeBad (p : BitVec 1)
  | replayTimeout (p : BitVec 1)
  | peerWindowRequest (t : Txn)
  | tambourLinkDown (p : BitVec 1)
  | tsyncSend (p : BitVec 1)
  | timeLockTimeout (p : BitVec 1)
  | gossipSend (p : BitVec 1)
  -- Power, clocks, supplies, start-up
  | tbSet (v : Word) (ic : InitClass)
  | tbAlarm
  | dreq (v : Word) (ic : InitClass)
  | domainTransitionDone
  | nadir (ic : InitClass) (cx : CtxId)
  | reset (ic : InitClass)
  | nadirWake (src : WakeSrc)
  /-- rail number of SUP.LOG, and its level in mV below the set-point -/
  | supplyWarning (rail : Fin 5) (depth : BitVec 16)
  | holdExit
  | orderlyStop
  | supplyReset (rail : Fin 5)
  | powerOnReset
  | sysRstN
  | memoryFieldInit (path : MemInit)
  | bootImageCheck (src : BootSrc)
  | recal (ic : InitClass)
  /-- the measured set of R411, without its trailer -/
  | recalComplete (set : List Byte)
  -- Orrery and Meridian
  /-- sensor `n` gives a signed reading in 0.25 °C; `ok` is its self-check -/
  | sensorSample (n : BitVec 6) (t : BitVec 12) (ok : Bool)
  /-- monitor `d`: current in 0.1 A, and the present voltage of its rail in mV -/
  | currentSample (d : Fin 24) (current volt : BitVec 16)
  /-- `below`: a monitor is below its lower threshold; `above`: every monitor has been above its upper one for 1 ms -/
  | avsStep (below above : Bool)
  | capEvaluation
  | thermalEvaluation
  | plannerRun
  | dack (v : Word) (ic : InitClass)
  | reqAWrite (i : BitVec 6) (v : Word) (ic : InitClass)
  -- RAS
  | swdWrite (w : Bool) (v : Word) (ic : InitClass)
  | swdkick (v : Word) (ic : InitClass)
  | watchdogExpiry (w : Bool)
  | lossOfLock
  | logRecordWrite
  | inject (off : BitVec 24) (v : Word) (ic : InitClass)
  -- Register pages
  | phase (v : Word) (ic : InitClass)
  | pend (n : BitVec 6) (v : Word) (ic : InitClass)
  | registerWrite (off : BitVec 24) (v : Word) (ic : InitClass)
  | registerReadClear (off : BitVec 24) (ic : InitClass)
  | illegalInstruction (cx : CtxId) (word : BitVec 32)
  | fetchGroup (core : CoreId)
  | supplyRecovery (rail : Fin 5)
  | vddSettled
  | badTlp (p : BadRx)
  | downstreamErrorMessage (m : BitVec 2)
  /-- a host write of vector `v`'s 16-byte MSI-X table entry -/
  | msixTableWrite (h : BitVec 1) (v : BitVec 11) (entry : Requested (BitVec 128))
  deriving DecidableEq, Repr

end Sys2Proof
end

