-- ==== Sys2Proof/Config.lean ====
section
/-! DEFINITION. What one device fixes and the spec leaves open: fused values, the boot ROM, and the
free values. Each is a constant with no body, so no proof can rest on a value of it (assumption
log 5). -/

namespace Sys2Proof.Config
open Sys2Proof

/-- The device serial number fused by Neorval (SYS.SERIAL, R451). -/
opaque serial : Word

/-- Byte `i` of the boot ROM (R191, R405). -/
opaque bootRom : Nat → Byte

/-- The line or entry a cache or TLB fill replaces: R55 and R164 leave it open. The first argument
numbers the use, the second is the number of candidates. -/
opaque victim : Nat → Nat → Nat

/-- A word the spec leaves without a value, by the number of its use. -/
opaque freeWord : Nat → Word

/-- Offset in configuration space of the MSI-X capability of a host port, which R358 leaves open. -/
opaque msixCap : Nat

/-- Offset in configuration space of the AER capability of a host port, which R358 leaves open. -/
opaque aerCap : Nat

/-- Value at reset of a dword of a host port's configuration space that the spec does not give. -/
opaque cfgDword : Nat → BitVec 32

/-- Base value in mV of the VDD target for a CCLK divisor (R417): the fuse default, and that of the AVS table in a
calibration set, from its bytes before the trailer. The spec does not lay the table out. -/
opaque avsFuse : Nat → Nat
opaque avsBase : List Byte → Nat → Nat

/-- The training temperature that a calibration set holds (R410), from its bytes before the trailer: the spec does not
lay the set out. -/
opaque calTemp : List Byte → BitVec 8

/-- The order of image sources that BOOTSRC 3 names, which R408 does not give. -/
opaque bootSrc3 : Nat

/-- Offset in configuration space of the PCI Express capability of a host port, which R358 leaves open. -/
opaque pcieCap : Nat

/-- Offset in configuration space of the power-management capability of a host port, which R358 leaves open. -/
opaque pmCap : Nat

/-- The I3C provisional ID where R376 gives no bits of it. -/
opaque pid : BitVec 48

/-- What GETMWL (2 bytes) and GETMRL (3 bytes) answer, which R376 leaves open. -/
opaque i3cMwl : BitVec 16
opaque i3cMrl : BitVec 24

/-- The fused bits [11:1] of IDCODE (R378). -/
opaque idcodeFuse : BitVec 11

/-- The two fused roots of the key ladder (R332), and whether OTK is fused (R341). -/
opaque rootDr : BitVec 256
opaque rootOtk : BitVec 256
opaque otkFused : Bool

/-- The image key that the seal unit draws from its entropy source, by the number of the drawing (R337). -/
opaque imageKey : Nat → BitVec 256

/-- Fused key hash `i`, whether it is marked revoked, the hash of the manufacturing key that the boot ROM holds, and
the fused minimum SVN of a TYPE (R339). -/
opaque keyHash : Nat → BitVec 384
opaque keyRevoked : Nat → Bool
opaque manufHash : BitVec 384
opaque minSvn : Nat → Nat

/-- The encoding of block `k` that the match search of a device level gives (R282, R283): level, FLAGS with the dictionary
slot's ID, the dictionary's bytes, the input of the frame, and k. -/
opaque zstdBlock : Nat → Nat → List Byte → List Byte → Nat → List Byte

end Sys2Proof.Config
end

