-- ==== Sys2Proof/Machine/Bits.lean ====
section
/-! DEFINITION. Bit fields, byte order, sign extension, and the operations of the sparse maps: the
helpers that the whole machine is written over. -/

namespace Sys2Proof.Machine
open Sys2Proof

/-- Field [hi:lo] of `v`, as a number. -/
def fld (v : Word) (hi lo : Nat) : Nat := v.toNat / 2 ^ lo % 2 ^ (hi + 1 - lo)

/-- Bit `i` of `v`. -/
def bitAt (v : Word) (i : Nat) : Bool := v.toNat.testBit i

/-- The word with ones in [hi:lo]. -/
def fldMask (hi lo : Nat) : Word := BitVec.ofNat 64 ((2 ^ (hi + 1 - lo) - 1) * 2 ^ lo)

/-- `v` with field [hi:lo] replaced by the low bits of `x`. -/
def setFld (v : Word) (hi lo x : Nat) : Word :=
  (v &&& ~~~ fldMask hi lo) ||| BitVec.ofNat 64 (x % 2 ^ (hi + 1 - lo) * 2 ^ lo)

/-- `v` with bit `i` set to `b`. -/
def setBit (v : Word) (i : Nat) (b : Bool) : Word := setFld v i i (if b then 1 else 0)

/-- A word from a number, modulo 2^64. -/
abbrev wd (n : Nat) : Word := BitVec.ofNat 64 n

/-- Bits [hi:lo] of a number. -/
def nfld (v hi lo : Nat) : Nat := v / 2 ^ lo % 2 ^ (hi + 1 - lo)

/-- The number `x` read as a signed value of `w` bits. -/
def signed (w x : Nat) : Int :=
  if 2 ^ (w - 1) ≤ x % 2 ^ w then (x % 2 ^ w : Nat) - (2 ^ w : Nat) else (x % 2 ^ w : Nat)

/-- The low `w` bits of an integer, as a number. -/
def wrapInt (w : Nat) (x : Int) : Nat := (x % (2 ^ w : Nat)).toNat

/-- `n` bytes of `v`, least significant first (the byte order of the notation table). -/
def leBytes : Nat → Nat → List Byte
  | 0, _ => []
  | n + 1, v => BitVec.ofNat 8 v :: leBytes n (v / 256)

/-- The number whose little-endian bytes are `bs`. -/
def leNat : List Byte → Nat
  | [] => 0
  | b :: bs => b.toNat + 256 * leNat bs

/-- The number whose big-endian bytes are `bs`. -/
def beNat (bs : List Byte) : Nat := bs.foldl (fun a b => a * 256 + b.toNat) 0

/-- `n` bytes of `v`, most significant first. -/
def beBytes (n v : Nat) : List Byte := (leBytes n v).reverse

/-- `n` bytes of a list from `off`, zero past its end. -/
def sliceZ (bs : List Byte) (off n : Nat) : List Byte :=
  let t := (bs.drop off).take n
  t ++ List.replicate (n - t.length) 0

/-- The little-endian number of `n` bytes at `off`. -/
def leAt (bs : List Byte) (off n : Nat) : Nat := leNat (sliceZ bs off n)

/-- `bs` with the bytes at `off` replaced by `new`. -/
def patch (bs : List Byte) (off : Nat) (new : List Byte) : List Byte :=
  bs.take off ++ new ++ bs.drop (off + new.length)

/-- Ceiling division. -/
def ceilDiv (a b : Nat) : Nat := (a + b - 1) / b

/-- `x` rounded down to a multiple of `a`. -/
def alignDown (x a : Nat) : Nat := x / a * a

/-- The number of ones in the low `n` bits of `v`. -/
def popcount : Nat → Nat → Nat
  | 0, _ => 0
  | n + 1, v => v % 2 + popcount n (v / 2)

/-- The position of the most significant 1 of `v` plus one; 0 for 0. -/
def bitLen (v : Nat) : Nat := if v = 0 then 0 else Nat.log2 v + 1

/-- The position of the least significant 1 within `n` bits; `n` if there is none. -/
def ctzN : Nat → Nat → Nat
  | 0, _ => 0
  | n + 1, v => if v % 2 = 1 then 0 else 1 + ctzN n (v / 2)

/-- Element `i` of a list, or the default. -/
def nth {α : Type} [Inhabited α] (l : List α) (i : Nat) : α := l.getD i default

/-- A list of bits, least significant first, as a number. -/
def bitsNat : List Bool → Nat
  | [] => 0
  | b :: bs => (if b then 1 else 0) + 2 * bitsNat bs

/-- The low `n` bits of a number, least significant first. -/
def natBits : Nat → Nat → List Bool
  | 0, _ => []
  | n + 1, v => decide (v % 2 = 1) :: natBits n (v / 2)

/-- 1 for true. -/
def b2n (b : Bool) : Nat := if b then 1 else 0

/-! ### Sparse maps -/

/-- The value of key `k`, or `d`. -/
def smGet {α : Type} (d : α) : SMap α → Nat → α
  | [], _ => d
  | (k', v) :: t, k => if k = k' then v else smGet d t k

/-- The value of key `k`, if it is listed. -/
def smFind {α : Type} : SMap α → Nat → Option α
  | [], _ => none
  | (k', v) :: t, k => if k = k' then some v else smFind t k

/-- `m` with key `k` not listed. -/
def smErase {α : Type} (k : Nat) : SMap α → SMap α
  | [] => []
  | (k', v) :: t => if k = k' then smErase k t else (k', v) :: smErase k t

/-- `m` with key `k` listed as `v`. -/
def smPut {α : Type} (k : Nat) (v : α) : SMap α → SMap α
  | [] => [(k, v)]
  | (k', v') :: t =>
    if k = k' then (k, v) :: t
    else if k < k' then (k, v) :: (k', v') :: t
    else (k', v') :: smPut k v t

/-- `m` with key `k` holding `v`, where `d` is the value of an unlisted key: a value equal to `d`
is not listed, so equal maps are equal lists. -/
def smSet {α : Type} [DecidableEq α] (d : α) (m : SMap α) (k : Nat) (v : α) : SMap α :=
  if v = d then smErase k m else smPut k v m

/-- Keys strictly rising from `lo` on. -/
def smSorted {α : Type} : Nat → SMap α → Bool
  | _, [] => true
  | lo, (k, _) :: t => decide (lo ≤ k) && smSorted (k + 1) t

/-- The canonical form: keys strictly rising, and no listed value equal to its key's default. -/
def smWf {α : Type} [DecidableEq α] (d : Nat → α) (m : SMap α) : Bool :=
  smSorted 0 m && m.all (fun p => decide (p.2 ≠ d p.1))

/-- Insertion of a number into a strictly rising list. -/
def setIns (k : Nat) : List Nat → List Nat
  | [] => [k]
  | a :: t => if k = a then a :: t else if k < a then k :: a :: t else a :: setIns k t

/-- Removal of a number from a strictly rising list. -/
def setDel (k : Nat) : List Nat → List Nat
  | [] => []
  | a :: t => if k = a then setDel k t else a :: setDel k t

/-- `k` in or out of a strictly rising list. -/
def setPut (k : Nat) (b : Bool) (l : List Nat) : List Nat := if b then setIns k l else setDel k l

/-- Membership in a list of numbers. -/
def setHas (k : Nat) (l : List Nat) : Bool := l.contains k

end Sys2Proof.Machine
end

