-- ==== Sys2Proof/Machine/RegDefs.lean ====
section
/-! DEFINITION. The register tables of the spec: the page directory of R440, the header of R443 and every
block register, field by field, with the access codes of R4, R194 (RWA), R230 (RWI) and R244 (RWR),
the Reset column and the class codes of R5. Bits no field covers are RES0 (R6). -/

namespace Sys2Proof.Machine
open Sys2Proof

/-- Access codes. -/
inductive Acc where
  | rw | ro | wo | w1c | w1s | rc | rwl | rwa | rwi | rwr
  deriving DecidableEq, Repr

/-- Class codes of R5: configuration, status, action. -/
inductive Cls where
  | c | s | a
  deriving DecidableEq, Repr

/-- One field of a register. -/
structure FieldDef where
  hi    : Nat
  lo    : Nat
  acc   : Acc
  reset : Nat
  cls   : Cls
  deriving DecidableEq, Repr

/-- One register at an offset of its page. -/
structure RegDef where
  off    : Nat
  fields : List FieldDef
  deriving DecidableEq, Repr

/-- The page types of R440. -/
inductive PageKind where
  | sys | pwr | clk | sup | orr | mer | keep | lct | ras | tb | clu | core | car | gate | mc | spad
  | mov | movch | chk | idx | cdn | cdr | cph | seal | host | med | peer | mgmt
  deriving DecidableEq, Repr

/-- A register. -/
def reg (off : Nat) (fs : List FieldDef) : List RegDef := [{ off := off, fields := fs }]

/-- `n` registers of one layout, `stride` apart. -/
def arr (off stride n : Nat) (fs : List FieldDef) : List RegDef :=
  (List.range n).map fun i => { off := off + stride * i, fields := fs }

/-- Block registers of the SYS page. -/
def sysRegs : List RegDef :=
  /- IDENT (R2) -/ reg 0x100 [.mk 63 48 .ro 0x1D7E .s /- VENDOR -/, .mk 47 32 .ro 0x7200 .s /- DEVICE -/, .mk 31 24 .ro 0xB1 .s /- STEP -/, .mk 23 16 .ro 8 .s /- CLUSTERS -/, .mk 15 8 .ro 0x10 .s /- CORES -/, .mk 7 0 .ro 5 .s /- STACKS -/] ++
  /- PHASE (R451) -/ reg 0x108 [.mk 8 8 .ro 0 .s /- SVCSEEN -/, .mk 1 0 .rw 0 .s /- PHASE -/] ++
  /- FMT_LEVEL (R451) -/ reg 0x110 [.mk 7 0 .ro 1 .c /- LEVEL -/] ++
  /- SERIAL (R451) -/ reg 0x118 [.mk 63 0 .ro 0 .s /- SERIAL -/] ++
  /- S1DIR (R156) -/ arr 0x180 8 2 [.mk 47 19 .rwl 0 .c /- BASE -/, .mk 0 0 .rwl 0 .c /- EN -/] ++
  /- S2ROOT (R157) -/ arr 0x190 8 2 [.mk 47 12 .rwl 0 .c /- ROOT -/, .mk 0 0 .rwl 0 .c /- EN -/]

/-- Block registers of the PWR page. -/
def pwrRegs : List RegDef :=
  /- DREQ (R412) -/ reg 0x100 [.mk 33 32 .rw 3 .s /- MEM -/, .mk 23 16 .rw 0xFF .s /- DOM_HI -/, .mk 10 2 .rw 0x1FF .s /- DOM_LO -/] ++
  /- DSTAT (R412) -/ reg 0x108 [.mk 47 40 .ro 0 .s /- REASON -/, .mk 35 35 .w1c 0 .s /- REFUSED -/, .mk 34 34 .ro 0 .s /- BUSY -/, .mk 33 32 .ro 3 .s /- MEM -/, .mk 23 0 .ro 0xFFFFFF .s /- ON -/] ++
  /- STATE (R412) -/ reg 0x110 [.mk 2 0 .ro 0 .s /- STATE -/] ++
  /- CMD (R412) -/ reg 0x118 [.mk 1 1 .wo 0 .a /- NADIR -/, .mk 0 0 .wo 0 .a /- RESET -/] ++
  /- WAKE (R412) -/ reg 0x120 [.mk 2 2 .rw 1 .c /- I3C -/, .mk 1 1 .rw 1 .c /- PERST -/, .mk 0 0 .rw 0 .c /- TBA -/] ++
  /- BOOTSTAT (R412) -/ reg 0x128 [.mk 17 16 .ro 0 .s /- SOURCE -/, .mk 15 8 .ro 0 .s /- CODE -/, .mk 7 0 .ro 0 .s /- STEP -/]

/-- Block registers of the CLK page. -/
def clkRegs : List RegDef :=
  /- STAT (R397) -/ reg 0x100 [.mk 11 8 .ro 3 .s /- CDIV -/, .mk 1 1 .ro 0 .s /- HOLD -/, .mk 0 0 .ro 0 .s /- LOCK -/]

/-- Block registers of the SUP page. -/
def supRegs : List RegDef :=
  /- LOG (R404) -/ reg 0x100 [.mk 63 48 .rc 0 .s /- COUNT -/, .mk 35 32 .ro 0 .s /- RAIL -/, .mk 31 16 .ro 0 .s /- DEPTH -/, .mk 15 0 .ro 0 .s /- DURATION -/] ++
  /- STAT (R404) -/ reg 0x108 [.mk 9 9 .ro 0 .s /- STOPPED -/, .mk 8 8 .ro 0 .s /- HOLD -/, .mk 4 0 .ro 0 .s /- WARN -/]

/-- Block registers of the ORR page. -/
def orrRegs : List RegDef :=
  /- PCAP (R427) -/ reg 0x100 [.mk 9 0 .rw 0x2BC .s /- CAP -/] ++
  /- PKG (R427) -/ reg 0x108 [.mk 47 32 .ro 0 .s /- AVG -/, .mk 15 0 .ro 0 .s /- INST -/] ++
  /- THR (R427) -/ reg 0x110 [.mk 31 31 .ro 0 .s /- CAPON -/, .mk 30 30 .ro 0 .s /- THON -/, .mk 27 24 .ro 3 .s /- CDCAP -/, .mk 19 16 .ro 3 .s /- CDTH -/, .mk 3 0 .ro 0 .s /- STEP -/] ++
  /- TCFG (R427) -/ reg 0x118 [.mk 15 8 .rw 5 .c /- HYST -/, .mk 7 0 .rw 0x64 .c /- TLIM -/] ++
  /- AVS (R427) -/ reg 0x120 [.mk 16 16 .ro 0 .s /- FUSE -/, .mk 9 0 .ro 0x2EE .s /- TARGET -/] ++
  /- PWC (R427) -/ reg 0x140 [.mk 63 0 .rw 0x40000800010000 .c /- CW3–CW0 -/] ++
  /- PWX (R427) -/ reg 0x148 [.mk 47 32 .rw 1 .c /- WA -/, .mk 31 16 .rw 0x100 .c /- WL -/, .mk 15 0 .rw 0x10 .c /- WD -/] ++
  /- FAC (R427) -/ reg 0x150 [.mk 31 16 .rw 0 .s /- BUDGET -/, .mk 15 0 .rw 0 .s /- AWAKE -/] ++
  /- PCFG (R427) -/ reg 0x158 [.mk 63 63 .w1c 0 .s /- REFUSED -/, .mk 15 0 .rw 0x64 .c /- PERIOD -/, .mk 16 16 .rw 0 .c /- EN -/] ++
  /- DECISION (R427) -/ reg 0x160 [.mk 63 63 .ro 0 .s /- VALID -/, .mk 55 48 .ro 0 .s /- SEQ -/, .mk 37 32 .ro 0 .s /- REQ -/, .mk 31 16 .ro 0 .s /- SHELF -/, .mk 9 0 .ro 0 .s /- WATTS -/] ++
  /- DACK (R427) -/ reg 0x168 [.mk 8 8 .wo 0 .a /- GRANT -/, .mk 7 0 .wo 0 .a /- SEQ -/] ++
  /- IMON[d] (R427) -/ arr 0x180 8 24 [.mk 31 16 .ro 0 .s /- POWER -/, .mk 15 0 .ro 0 .s /- CURRENT -/] ++
  /- TEMP[n] (R427) -/ arr 0x300 8 64 [.mk 15 15 .ro 0 .s /- FAULT -/, .mk 11 0 .ro 0 .s /- T -/] ++
  /- REQ_A[i] (R427) -/ arr 0x800 16 64 [.mk 63 63 .rw 0 .s /- VALID -/, .mk 62 62 .ro 0 .s /- POSTED -/, .mk 61 60 .rw 0 .s /- CLASS -/, .mk 59 59 .ro 0 .s /- DENIED -/, .mk 57 48 .rw 0 .s /- WATTS -/, .mk 47 32 .rw 0 .s /- SHELF -/, .mk 31 16 .rw 0 .s /- LOST -/, .mk 15 0 .rw 0 .s /- DUE -/] ++
  /- REQ_T[i] (R427) -/ arr 0x808 16 64 [.mk 63 0 .rw 0 .s /- TSUB -/]

/-- Block registers of the MER page. -/
def merRegs : List RegDef :=
  /- DDIG[k] (R428) -/ arr 0x100 8 4 [.mk 63 0 .ro 0 .s /- DIGEST -/] ++
  /- EPOCH (R428) -/ reg 0x120 [.mk 63 0 .ro 0 .s /- EPOCH -/] ++
  /- FSTAT (R428) -/ reg 0x128 [.mk 0 0 .ro 0 .s /- BUSY -/]

/-- Block registers of the KEEP page. -/
def keepRegs : List RegDef :=
  /- CALCMD (R411) -/ reg 0x100 [.mk 0 0 .wo 0 .a /- RECAL -/] ++
  /- CALSTAT (R411) -/ reg 0x108 [.mk 63 24 .ro 0 .s /- SEQ -/, .mk 9 8 .ro 0 .s /- ORIGIN -/, .mk 1 1 .ro 0 .s /- INVALID -/, .mk 0 0 .ro 0 .s /- BUSY -/]

/-- Block registers of the LCT page. -/
def lctRegs : List RegDef :=
  /- STATE (R343) -/ reg 0x100 [.mk 9 9 .w1c 0 .s /- REFUSED -/, .mk 8 8 .ro 0 .s /- BUSY -/, .mk 6 4 .ro 0 .s /- TARGET -/, .mk 2 0 .ro 0 .s /- STATE -/] ++
  /- ADV (R343) -/ reg 0x108 [.mk 63 48 .wo 0 .a /- CONFIRM -/, .mk 2 0 .wo 0 .a /- TARGET -/] ++
  /- TCFG (R343) -/ reg 0x110 [.mk 1 1 .rwl 0 .c /- RESET -/, .mk 0 0 .rwl 1 .c /- COLD -/] ++
  /- TSTAT (R343) -/ reg 0x118 [.mk 8 8 .ro 0 .s /- WIPING -/, .mk 3 3 .w1c 0 .s /- INJECT -/, .mk 2 2 .w1c 0 .s /- COLD -/, .mk 1 1 .w1c 0 .s /- CLOCK -/, .mk 0 0 .w1c 0 .s /- PIN -/] ++
  /- TCOUNT (R343) -/ reg 0x120 [.mk 31 0 .ro 0 .s /- COUNT -/]

/-- Block registers of the RAS page. -/
def rasRegs : List RegDef :=
  /- CNT (R433) -/ reg 0x100 [.mk 63 48 .rc 0 .s /- FATAL -/, .mk 47 32 .rc 0 .s /- DEGRADED -/, .mk 31 16 .rc 0 .s /- CONTAINED -/, .mk 15 0 .rc 0 .s /- CORRECTED -/] ++
  /- LAST (R433) -/ reg 0x108 [.mk 57 56 .ro 0 .s /- CLASS -/, .mk 43 32 .ro 0 .s /- PAGE -/] ++
  /- SWD[w] (R433) -/ arr 0x140 8 2 [.mk 63 63 .rw 0 .c /- EN -/, .mk 62 62 .ro 0 .s /- STAGE -/, .mk 47 0 .rw 0x5F5E100 .c /- PERIOD -/] ++
  /- SWDKICK (R433) -/ reg 0x150 [.mk 1 0 .wo 0 .a /- KICK -/] ++
  /- PLOG (R433) -/ reg 0x160 [.mk 63 32 .ro 0 .s /- SEQ -/, .mk 11 0 .ro 0 .s /- NEXT -/] ++
  /- PLOGSUP (R433) -/ reg 0x168 [.mk 15 0 .rc 0 .s /- SUPPRESSED -/]

/-- Block registers of the TB page. -/
def tbRegs : List RegDef :=
  /- VALUE (R397) -/ reg 0x100 [.mk 63 0 .ro 0 .s /- TB -/] ++
  /- ALARM (R397) -/ reg 0x108 [.mk 63 0 .rw 0xFFFFFFFFFFFFFFFF .s /- ALARM -/] ++
  /- SET (R397) -/ reg 0x110 [.mk 63 0 .wo 0 .a /- VALUE -/]

/-- Block registers of the CLU page. -/
def cluRegs : List RegDef :=
  /- CMAINT (R68) -/ reg 0x100 [.mk 1 0 .wo 0 .a /- OP -/] ++
  /- CMSTAT (R68) -/ reg 0x108 [.mk 2 2 .w1c 0 .s /- REFUSED -/, .mk 1 1 .w1c 0 .s /- DONE -/, .mk 0 0 .ro 0 .s /- BUSY -/] ++
  /- WAYEN (R452) -/ reg 0x110 [.mk 15 0 .rw 0xFFFF .s /- EN -/] ++
  /- ECNT (R452) -/ reg 0x118 [.mk 63 32 .rc 0 .s /- UE -/, .mk 31 0 .rc 0 .s /- CE -/]

/-- Block registers of the CORE page. -/
def coreRegs : List RegDef :=
  /- CTRL (R67) -/ reg 0x100 [.mk 1 1 .ro 0 .s /- DET_ACTIVE -/, .mk 0 0 .rw 0 .c /- DET -/] ++
  /- CXPRI (R67) -/ reg 0x108 [.mk 31 0 .rw 0 .c /- PRI[15..0] -/] ++
  /- CXSTATE (R67) -/ reg 0x110 [.mk 63 0 .ro 0 .s /- STATE[15..0] -/] ++
  /- SVCCX (R141) -/ reg 0x118 [.mk 28 28 .rw 0 .c /- CENT_V -/, .mk 27 24 .rw 0 .c /- CENT -/, .mk 20 20 .rw 0 .c /- CFLT_V -/, .mk 19 16 .rw 0 .c /- CFLT -/, .mk 12 12 .rw 0 .c /- OENT_V -/, .mk 11 8 .rw 0 .c /- OENT -/, .mk 4 4 .rw 0 .c /- OFLT_V -/, .mk 3 0 .rw 0 .c /- OFLT -/] ++
  /- LOST (R144) -/ reg 0x120 [.mk 31 31 .w1c 0 .s /- VALID -/, .mk 30 30 .w1c 0 .s /- MORE -/, .mk 12 12 .ro 0 .s /- WORLD -/, .mk 11 8 .ro 0 .s /- CONTEXT -/, .mk 7 0 .ro 0 .s /- KIND -/] ++
  /- FPHOLD (R453) -/ reg 0x128 [.mk 4 4 .ro 0 .s /- VALID -/, .mk 3 0 .ro 0 .s /- HOLDER -/] ++
  /- ICOUNT (R453) -/ reg 0x130 [.mk 63 0 .ro 0 .s /- COUNT -/] ++
  /- CCOUNT (R453) -/ reg 0x138 [.mk 63 0 .ro 0 .s /- COUNT -/]

/-- Block registers of the CAR page. -/
def carRegs : List RegDef :=
  /- BELL_WORLD (R120) -/ arr 0x100 8 64 [.mk 63 0 .rwl 0xFFFFFFFFFFFFFFFF .c /- WORLD -/] ++
  /- BELL_USER (R120) -/ arr 0x300 8 64 [.mk 63 0 .rwl 0 .c /- USER -/] ++
  /- BELL_PEND (R120) -/ arr 0x500 8 64 [.mk 63 0 .w1s 0 .s /- PEND -/]

/-- Block registers of the GATE page. -/
def gateRegs : List RegDef :=
  /- GCTRL (R202) -/ reg 0x100 [.mk 0 0 .wo 0 .a /- SWAP -/] ++
  /- GSTAT (R202) -/ reg 0x108 [.mk 9 9 .ro 1 .s /- VALID_B -/, .mk 8 8 .ro 1 .s /- VALID_A -/, .mk 7 7 .w1c 0 .s /- REFUSED -/, .mk 3 1 .ro 0 .s /- SWST -/, .mk 0 0 .ro 0 .s /- ACTIVE -/] ++
  /- RGN_ADDR[0] (R194) -/ arr 0x200 16 16 [.mk 47 12 .rwa 0 .c /- BASE -/, .mk 5 0 .rwa 0 .c /- SIZE -/] ++
  /- RGN_ATTR[0] (R194) -/ arr 0x208 16 16 [.mk 31 16 .rwa 0 .c /- INIT -/, .mk 8 8 .rwa 0 .c /- ANYC -/, .mk 7 4 .rwa 0 .c /- KEY -/, .mk 2 2 .rwa 0 .c /- X -/, .mk 1 1 .rwa 0 .c /- W -/, .mk 0 0 .rwa 0 .c /- R -/] ++
  /- RGN_ADDR[1] (R194) -/ arr 0x300 16 16 [.mk 47 12 .rwa 0 .c /- BASE -/, .mk 5 0 .rwa 0 .c /- SIZE -/] ++
  /- RGN_ATTR[1] (R194) -/ arr 0x308 16 16 [.mk 31 16 .rwa 0 .c /- INIT -/, .mk 8 8 .rwa 0 .c /- ANYC -/, .mk 7 4 .rwa 0 .c /- KEY -/, .mk 2 2 .rwa 0 .c /- X -/, .mk 1 1 .rwa 0 .c /- W -/, .mk 0 0 .rwa 0 .c /- R -/]

/-- Block registers of the MC page. -/
def mcRegs : List RegDef :=
  /- SCRUB (R185) -/ reg 0x100 [.mk 32 32 .rw 1 .c /- EN -/, .mk 31 0 .rw 0x7080 .c /- PERIOD -/] ++
  /- SCRUBPOS (R185) -/ reg 0x108 [.mk 63 32 .ro 0 .s /- PASSES -/, .mk 28 0 .ro 0 .s /- UNIT -/] ++
  /- ECNT (R185) -/ reg 0x110 [.mk 63 32 .rc 0 .s /- UE -/, .mk 31 0 .rc 0 .s /- CE -/] ++
  /- TRAIN (R185) -/ reg 0x118 [.mk 39 32 .ro 0 .s /- TTEMP -/, .mk 31 24 .ro 0 .s /- NTEMP -/, .mk 23 16 .ro 0 .s /- FAILS -/, .mk 7 4 .ro 0 .s /- CHAN -/, .mk 2 2 .ro 0 .s /- HELD -/, .mk 1 1 .ro 0 .s /- DUE -/, .mk 0 0 .ro 0 .s /- BUSY -/] ++
  /- TCMD (R185) -/ reg 0x120 [.mk 0 0 .wo 0 .a /- RETRAIN -/]

/-- Block registers of the SPAD page. -/
def spadRegs : List RegDef :=
  /- BANKREQ (R188) -/ arr 0x100 8 8 [.mk 63 0 .rw 0xFFFFFFFFFFFFFFFF .s /- REQ[31..0] -/] ++
  /- BANKSTAT (R188) -/ arr 0x140 8 8 [.mk 63 0 .ro 0xFFFFFFFFFFFFFFFF .s /- STATE[31..0] -/] ++
  /- ECNT (R454) -/ reg 0x180 [.mk 63 32 .rc 0 .s /- UE -/, .mk 31 0 .rc 0 .s /- CE -/]

/-- Block registers of the MOV page. -/
def movRegs : List RegDef :=
  /- ANCHOR (R231) -/ reg 0x100 [.mk 25 11 .rwl 0 .c /- BASE -/] ++
  /- GCTRL (R231) -/ reg 0x108 [.mk 0 0 .wo 0 .a /- CLEAR -/] ++
  /- GSTAT (R231) -/ reg 0x110 [.mk 0 0 .ro 0 .s /- HALTED -/] ++
  /- SCALE (R231) -/ reg 0x118 [.mk 8 0 .rw 0x100 .s /- SCALE -/]

/-- Block registers of the MOVCH page. -/
def movchRegs : List RegDef :=
  /- CMD (R232) -/ reg 0x100 [.mk 5 5 .wo 0 .a /- ENABLE -/, .mk 4 4 .wo 0 .a /- DISABLE -/, .mk 3 3 .wo 0 .a /- STEP -/, .mk 2 2 .wo 0 .a /- KICK -/, .mk 1 1 .wo 0 .a /- ARM -/, .mk 0 0 .wo 0 .a /- START -/] ++
  /- STAT (R232) -/ reg 0x108 [.mk 47 40 .ro 0 .s /- STOPKIND -/, .mk 39 32 .ro 0 .s /- STOPCODE -/, .mk 29 28 .ro 0 .s /- WHERE -/, .mk 11 9 .ro 0 .s /- PRIOR -/, .mk 8 8 .ro 0 .s /- KPEND -/, .mk 7 7 .ro 0 .s /- ARMED -/, .mk 6 6 .ro 0 .s /- ABANK -/, .mk 2 0 .ro 1 .s /- STATE -/] ++
  /- CUR (R232) -/ reg 0x110 [.mk 63 0 .ro 0 .s /- ADDR -/] ++
  /- PROG (R232) -/ reg 0x118 [.mk 63 0 .ro 0 .s /- BYTES -/] ++
  /- CFG (R232) -/ arr 0x120 8 2 [.mk 31 16 .rwi 0 .c /- ASID -/, .mk 15 15 .rwi 0 .c /- XLAT -/, .mk 14 14 .rwi 0 .c /- WORLD -/, .mk 11 9 .rwi 0 .c /- PRI -/, .mk 8 0 .rwi 0 .c /- SHARE -/]

/-- Block registers of the CHK page. -/
def chkRegs : List RegDef :=
  /- SEED (R274) -/ reg 0x100 [.mk 63 0 .rw 0 .c /- SEED -/] ++
  /- LANEEN (R274) -/ reg 0x108 [.mk 7 0 .rw 0xFF .s /- EN -/]

/-- Block registers of the IDX page. -/
def idxRegs : List RegDef :=
  /- CFG (R275) -/ reg 0x100 [.mk 0 0 .rw 0 .c /- HOOKS -/] ++
  /- HSEED (R275) -/ reg 0x108 [.mk 63 0 .rw 0 .c /- HSEED -/] ++
  /- EPOCH (R275) -/ reg 0x110 [.mk 63 0 .rw 0 .s /- EPOCH -/] ++
  /- BATCH (R275) -/ reg 0x118 [.mk 63 63 .ro 0 .s /- OPEN -/, .mk 62 62 .w1c 0 .s /- DAMAGED -/, .mk 51 48 .ro 0 .s /- RING -/, .mk 40 24 .ro 0 .s /- CHANGES -/, .mk 16 0 .ro 0 .s /- LOOKUPS -/] ++
  /- OEPOCH (R275) -/ reg 0x120 [.mk 63 0 .ro 0 .s /- OEPOCH -/] ++
  /- CMD (R275) -/ reg 0x128 [.mk 0 0 .wo 0 .a /- ABORT -/]

/-- Block registers of the CDN page. -/
def cdnRegs : List RegDef :=
  /- LANEMODE (R290) -/ reg 0x100 [.mk 63 0 .rw 0 .s /- DEEP -/] ++
  /- LANEEN (R290) -/ reg 0x108 [.mk 63 0 .rw 0xFFFFFFFFFFFFFFFF .s /- EN -/] ++
  /- LANESTAT (R290) -/ reg 0x110 [.mk 63 0 .ro 0 .s /- BUSY -/] ++
  /- DSLOT (R290) -/ arr 0x200 8 16 [.mk 63 63 .ro 0 .s /- VALID -/, .mk 62 62 .ro 0 .s /- RAW -/, .mk 61 61 .ro 0 .s /- HELD -/, .mk 52 32 .ro 0 .s /- LEN -/, .mk 31 0 .ro 0 .s /- ID -/]

/-- Block registers of the CDR page. -/
def cdrRegs : List RegDef :=
  /- LANEEN (R322) -/ reg 0x100 [.mk 15 0 .rw 0xFFFF .s /- EN -/] ++
  /- LANESTAT (R322) -/ reg 0x108 [.mk 15 0 .ro 0 .s /- BUSY -/] ++
  /- PMSTAT (R322) -/ reg 0x110 [.mk 63 63 .ro 0 .s /- HELD -/, .mk 31 0 .ro 0 .s /- LOADS -/]

/-- Block registers of the CPH page. -/
def cphRegs : List RegDef :=
  /- LANEEN (R331) -/ reg 0x100 [.mk 11 0 .rw 0xFFF .s /- EN -/] ++
  /- LANESTAT (R331) -/ reg 0x108 [.mk 11 0 .ro 0 .s /- BUSY -/]

/-- Block registers of the SEAL page. -/
def sealRegs : List RegDef :=
  /- STAT (R337) -/ reg 0x100 [.mk 63 32 .ro 0 .s /- WIPES -/, .mk 0 0 .ro 0 .s /- READY -/]

/-- Block registers of the HOST page. -/
def hostRegs : List RegDef :=
  /- CTRL (R373) -/ reg 0x100 [.mk 1 1 .rw 0 .s /- OPEN -/, .mk 0 0 .w1s 0 .s /- CFGREADY -/] ++
  /- LINK (R373) -/ reg 0x108 [.mk 21 20 .ro 0 .s /- DSTATE -/, .mk 19 19 .ro 0 .s /- FLIT -/, .mk 18 16 .ro 0 .s /- SPEED -/, .mk 12 8 .ro 0 .s /- WIDTH -/, .mk 0 0 .ro 0 .s /- UP -/] ++
  /- OSEG (R373) -/ arr 0x140 8 8 [.mk 63 12 .rw 0 .c /- BASE -/, .mk 1 1 .rw 0 .c /- TYPE -/, .mk 0 0 .rw 0 .c /- EN -/] ++
  /- MSIX (R373) -/ reg 0x180 [.mk 10 0 .wo 0 .a /- VECTOR -/] ++
  /- APCLOSE (R373) -/ reg 0x188 [.mk 63 0 .wo 0 .a /- CLOSE -/] ++
  /- DBVAL (R373) -/ arr 0x200 8 64 [.mk 63 0 .ro 0 .s /- VALUE -/] ++
  /- BWIN (R373) -/ reg 0x400 [.mk 43 32 .rwl 0 .c /- COUNT -/, .mk 11 0 .rwl 0 .c /- BASE -/]

/-- Block registers of the MED page. -/
def medRegs : List RegDef :=
  /- CTRL (R374) -/ reg 0x100 [.mk 1 1 .rw 0 .c /- RRSSV -/, .mk 0 0 .rw 0 .c /- EN -/] ++
  /- LINK (R374) -/ reg 0x108 [.mk 21 20 .ro 0 .s /- DSTATE -/, .mk 19 19 .ro 0 .s /- FLIT -/, .mk 18 16 .ro 0 .s /- SPEED -/, .mk 12 8 .ro 0 .s /- WIDTH -/, .mk 0 0 .ro 0 .s /- UP -/] ++
  /- BUS (R374) -/ reg 0x110 [.mk 15 8 .rw 0 .c /- SUB -/, .mk 7 0 .rw 0 .c /- SEC -/] ++
  /- OSEG (R374) -/ arr 0x140 8 8 [.mk 63 12 .rw 0 .c /- BASE -/, .mk 1 1 .rw 0 .c /- TYPE -/, .mk 0 0 .rw 0 .c /- EN -/] ++
  /- IWIN (R374) -/ reg 0x180 [.mk 63 12 .rw 0 .c /- BASE -/, .mk 5 0 .rw 0 .c /- SIZE -/] ++
  /- IANCHOR (R374) -/ reg 0x188 [.mk 25 4 .rw 0 .c /- SPA -/, .mk 0 0 .rw 0 .c /- EN -/] ++
  /- IDB (R374) -/ reg 0x190 [.mk 63 16 .rw 0 .c /- BASE -/, .mk 0 0 .rw 0 .c /- EN -/] ++
  /- MSTAT (R374) -/ reg 0x198 [.mk 15 8 .ro 0 .s /- KIND -/, .mk 0 0 .ro 0 .s /- OPEN -/] ++
  /- MBWIN (R374) -/ reg 0x400 [.mk 43 32 .rwl 0 .c /- COUNT -/, .mk 11 0 .rwl 0 .c /- BASE -/]

/-- Block registers of the PEER page. -/
def peerRegs : List RegDef :=
  /- CTRL (R395) -/ reg 0x100 [.mk 0 0 .rw 0 .c /- EN -/] ++
  /- LINK (R395) -/ reg 0x108 [.mk 63 48 .ro 0 .s /- TRIES -/, .mk 42 40 .ro 0 .s /- STATE -/, .mk 19 16 .ro 0 .s /- PNODE -/, .mk 0 0 .ro 0 .s /- UP -/] ++
  /- ERRCNT (R395) -/ reg 0x110 [.mk 63 42 .rc 0 .s /- LOST -/, .mk 41 21 .rc 0 .s /- CRC -/, .mk 20 0 .rc 0 .s /- REPLAY -/] ++
  /- NODE (R395) -/ reg 0x118 [.mk 3 0 .rw 0 .s /- NODE -/] ++
  /- IANCHOR (R395) -/ reg 0x188 [.mk 25 4 .rw 0 .c /- SPA -/, .mk 0 0 .rw 0 .c /- EN -/] ++
  /- MSTAT (R395) -/ reg 0x198 [.mk 15 8 .ro 0 .s /- KIND -/, .mk 0 0 .ro 0 .s /- OPEN -/] ++
  /- RBWIN (R395) -/ reg 0x1A0 [.mk 43 32 .rwl 0 .c /- COUNT -/, .mk 11 0 .rwl 0 .c /- BASE -/] ++
  /- TSCFG (R395) -/ reg 0x200 [.mk 31 16 .rw 0 .s /- ASYM -/, .mk 0 0 .rw 0 .s /- SRC -/] ++
  /- TSSTAT (R395) -/ reg 0x208 [.mk 63 32 .ro 0 .s /- OFFSET -/, .mk 31 8 .ro 0 .s /- DELAY -/, .mk 0 0 .ro 0 .s /- LOCK -/] ++
  /- GCFG (R395) -/ reg 0x300 [.mk 15 8 .rw 8 .c /- GRACE -/, .mk 0 0 .rw 0 .c /- EN -/] ++
  /- GMIS (R395) -/ reg 0x308 [.mk 63 63 .w1c 0 .s /- VALID -/, .mk 51 48 .ro 0 .s /- NODE -/, .mk 47 0 .ro 0 .s /- EPOCH -/] ++
  /- GMDIG (R395) -/ reg 0x310 [.mk 63 0 .ro 0 .s /- DIGEST -/]

/-- Block registers of the MGMT page. -/
def mgmtRegs : List RegDef :=
  /- UART (R380) -/ reg 0x100 [.mk 19 0 .rw 0x6C82 .c /- DIV -/] ++
  /- UTX (R380) -/ reg 0x108 [.mk 7 0 .wo 0 .a /- DATA -/] ++
  /- URX (R380) -/ reg 0x110 [.mk 8 8 .ro 0 .s /- VALID -/, .mk 7 0 .rc 0 .s /- DATA -/] ++
  /- I3C (R380) -/ reg 0x118 [.mk 15 8 .ro 0 .s /- DYN -/, .mk 6 0 .ro 0x5A .s /- STATIC -/] ++
  /- ALERTEN (R380) -/ reg 0x120 [.mk 7 4 .rw 0 .c /- EN[7:4] -/, .mk 2 0 .rw 0 .c /- EN[2:0] -/] ++
  /- SPICMD (R380) -/ reg 0x128 [.mk 63 63 .wo 0 .a /- GO -/, .mk 53 52 .rw 0 .s /- LINES -/, .mk 51 50 .rw 0 .s /- ABYTES -/, .mk 49 49 .rw 0 .s /- WRITE -/, .mk 48 40 .rw 0 .s /- LEN -/, .mk 39 8 .rw 0 .s /- ADDR -/, .mk 7 0 .rw 0 .s /- OPCODE -/] ++
  /- SPIDATA (R380) -/ reg 0x130 [.mk 63 0 .rw 0 .s /- DATA -/] ++
  /- SPISTAT (R380) -/ reg 0x138 [.mk 0 0 .ro 0 .s /- BUSY -/]

/-- Block registers of the ring block of an engine page (R244). -/
def engRingRegs : List RegDef :=
  /- RANCHOR (R244) -/ reg 0x800 [.mk 25 8 .rwl 0 .c /- BASE -/] ++
  /- RCFG (R244) -/ arr 0x880 8 16 [.mk 31 16 .rwr 0 .c /- ASID -/, .mk 15 15 .rwr 0 .c /- XLAT -/, .mk 14 14 .rwr 0 .c /- WORLD -/, .mk 11 10 .rwr 0 .c /- PRI -/, .mk 3 0 .rwr 0 .c /- LOG2N -/] ++
  /- RCMD (R244) -/ arr 0x900 8 16 [.mk 3 3 .wo 0 .a /- REWIND -/, .mk 2 2 .wo 0 .a /- STOP -/, .mk 1 1 .wo 0 .a /- KICK -/, .mk 0 0 .wo 0 .a /- START -/] ++
  /- RSTAT (R244) -/ arr 0x980 8 16 [.mk 47 40 .ro 0 .s /- STOPKIND -/, .mk 39 32 .ro 0 .s /- STOPCODE -/, .mk 29 28 .ro 0 .s /- WHERE -/, .mk 27 16 .ro 0 .s /- HEAD -/, .mk 8 8 .ro 0 .s /- KPEND -/, .mk 1 0 .ro 0 .s /- STATE -/]

/-- Block registers of each page. -/
def pageRegs : PageKind → List RegDef
  | .sys => sysRegs
  | .pwr => pwrRegs
  | .clk => clkRegs
  | .sup => supRegs
  | .orr => orrRegs
  | .mer => merRegs
  | .keep => keepRegs
  | .lct => lctRegs
  | .ras => rasRegs
  | .tb => tbRegs
  | .clu => cluRegs
  | .core => coreRegs
  | .car => carRegs
  | .gate => gateRegs
  | .mc => mcRegs
  | .spad => spadRegs
  | .mov => movRegs
  | .movch => movchRegs
  | .chk => chkRegs ++ engRingRegs
  | .idx => idxRegs ++ engRingRegs
  | .cdn => cdnRegs ++ engRingRegs
  | .cdr => cdrRegs ++ engRingRegs
  | .cph => cphRegs ++ engRingRegs
  | .seal => sealRegs
  | .host => hostRegs
  | .med => medRegs
  | .peer => peerRegs
  | .mgmt => mgmtRegs

/-- The INT_RAW bits each page defines (R443, and the chapter of the page). -/
def intMask : PageKind → Nat
  | .sys => 0x1 | .pwr => 0x7 | .clk => 0x1 | .sup => 0x7 | .orr => 0x3F | .mer => 0x1 | .keep => 0
  | .lct => 0x7 | .ras => 0x1F | .tb => 0x1 | .clu => 0x7 | .core => 0x3 | .car => 0 | .gate => 0x7
  | .mc => 0x1F | .spad => 0xF | .mov => 0x1 | .movch => 0 | .chk => 0x3 | .idx => 0x7 | .cdn => 0x3
  | .cdr => 0x3 | .cph => 0x3 | .seal => 0 | .host => 0xFF | .med => 0x3F | .peer => 0xFF
  | .mgmt => 0xF7

/-- The fields [i:i] of the ones of a mask. -/
def maskFields (m : Nat) (a : Acc) (cl : Cls) : List FieldDef :=
  ((List.range 8).filter (fun i => m.testBit i)).reverse.map fun i => ⟨i, i, a, 0, cl⟩

/-- The header of R443. PAGE_ID, PAGE_STAT [1:0] and DIGEST are computed (Machine/PageAccess.lean). -/
def headerRegs (k : PageKind) : List RegDef :=
  /- PAGE_ID (R444) -/ reg 0x000 [⟨63, 0, .ro, 0, .s⟩] ++
  /- PAGE_CTRL (R445) -/ reg 0x008 [⟨0, 0, .w1s, 0, .c⟩] ++
  /- PAGE_STAT (R446): RINGS, LOCKED, INTPEND -/ reg 0x010 [⟨63, 32, .ro, 0, .s⟩, ⟨1, 1, .ro, 0, .s⟩, ⟨0, 0, .ro, 0, .s⟩] ++
  /- INT_RAW (R447) -/ reg 0x018 (maskFields (intMask k) .w1c .s) ++
  /- INT_EN (R447) -/ reg 0x020 (maskFields (intMask k) .rw .c) ++
  /- INT_BELL (R447): EN, BELL -/ reg 0x028 [⟨12, 12, .rw, 0, .c⟩, ⟨8, 0, .rw, 0, .c⟩] ++
  /- ERR_ADDR (R449) -/ reg 0x030 [⟨63, 0, .ro, 0, .s⟩] ++
  /- ERR_INFO (R449) -/ reg 0x038 [⟨63, 0, .ro, 0, .s⟩] ++
  /- INJECT (R437): KEY, POINT, MODE, FIRED, ARMED -/
    reg 0x040 [⟨63, 48, .wo, 0, .a⟩, ⟨15, 8, .rw, 0, .s⟩, ⟨5, 4, .rw, 0, .s⟩, ⟨1, 1, .w1c, 0, .s⟩,
      ⟨0, 0, .ro, 0, .s⟩] ++
  /- DIGEST (R424) -/ reg 0x048 [⟨63, 0, .ro, 0, .s⟩] ++
  /- CFG_WRITES (R450): LASTINIT, COUNT -/ reg 0x050 [⟨39, 36, .ro, 0, .s⟩, ⟨31, 0, .ro, 0, .s⟩]

/-- TYPE of R440. -/
def pageType : PageKind → Nat
  | .sys => 0x1 | .pwr => 0x2 | .clk => 0x3 | .sup => 0x4 | .orr => 0x5 | .mer => 0x6 | .keep => 0x7
  | .lct => 0x8 | .ras => 0x9 | .tb => 0xA | .clu => 0x10 | .core => 0x11 | .car => 0x18
  | .gate => 0x20 | .mc => 0x28 | .spad => 0x29 | .mov => 0x30 | .movch => 0x31 | .chk => 0x40
  | .idx => 0x41 | .cdn => 0x42 | .cdr => 0x43 | .cph => 0x44 | .seal => 0x45 | .host => 0x50
  | .med => 0x51 | .peer => 0x52 | .mgmt => 0x53

/-- Instances of R440. -/
def pageCount : PageKind → Nat
  | .clu => 8 | .core => 128 | .gate => 16 | .mc => 5 | .movch => 64 | .host => 2 | .med => 4
  | .peer => 2
  | _ => 1

/-- Register-space offset of instance 0 of a page (R440). -/
def pageBase0 : PageKind → Nat
  | .sys => 0x000000 | .pwr => 0x001000 | .clk => 0x002000 | .sup => 0x003000 | .orr => 0x004000
  | .mer => 0x005000 | .keep => 0x006000 | .lct => 0x007000 | .ras => 0x008000 | .tb => 0x009000
  | .clu => 0x010000 | .core => 0x100000 | .car => 0x030000 | .gate => 0x040000 | .mc => 0x050000
  | .spad => 0x060000 | .mov => 0x070000 | .movch => 0x080000 | .chk => 0x0C0000
  | .idx => 0x0C1000 | .cdn => 0x0C2000 | .cdr => 0x0C3000 | .cph => 0x0C4000 | .seal => 0x0C5000
  | .host => 0x0D0000 | .med => 0x0D2000 | .peer => 0x0D6000 | .mgmt => 0x0D8000

/-- Register-space offset of page `k`, instance `i`. -/
def pg (k : PageKind) (i : Nat := 0) : Nat := pageBase0 k + 0x1000 * i

/-- Every page type. -/
def allKinds : List PageKind :=
  [.sys, .pwr, .clk, .sup, .orr, .mer, .keep, .lct, .ras, .tb, .clu, .core, .car, .gate, .mc, .spad,
   .mov, .movch, .chk, .idx, .cdn, .cdr, .cph, .seal, .host, .med, .peer, .mgmt]

/-- The page that holds a register-space offset, with its instance (R440). -/
def pageAt (off : Nat) : Option (PageKind × Nat) :=
  (allKinds.find? fun k =>
    decide (pageBase0 k ≤ off) && decide (off < pageBase0 k + 0x1000 * pageCount k)).map
    fun k => (k, (off - pageBase0 k) / 0x1000)

/-- Every register of a page. -/
def regsOf (k : PageKind) : List RegDef := headerRegs k ++ pageRegs k

/-- A register that one of two pages of a layout defines otherwise: NODE is RES0 in PEER[1] (R395),
and OSEG.TYPE is RES0 in host ports (R373). -/
def instFields (k : PageKind) (i off : Nat) (fs : List FieldDef) : List FieldDef :=
  match k with
  | .peer => if i = 1 ∧ off = 0x118 then [] else fs
  | .host => if 0x140 ≤ off ∧ off < 0x180 then fs.filter (fun f => decide (f.lo ≠ 1)) else fs
  | _ => fs

/-- The fields of the register at a register-space offset; none where no register is defined. -/
def fieldsAt (off : Nat) : List FieldDef :=
  match pageAt off with
  | none => []
  | some (k, i) =>
    match (regsOf k).find? (fun r => decide (r.off = off % 0x1000)) with
    | none => []
    | some r => instFields k i r.off r.fields

/-- The bits of the fields that satisfy `p`. -/
def maskOf (fs : List FieldDef) (p : FieldDef → Bool) : Word :=
  fs.foldl (fun m f => if p f then m ||| fldMask f.hi f.lo else m) 0

/-- The Reset column of the register at `off`. The UNIT field of MC[m].SCRUBPOS resets to m (R185). -/
def regReset (off : Nat) : Word :=
  (fieldsAt off).foldl (fun m f => m ||| wd (f.reset * 2 ^ f.lo)) 0 |||
    (if pg .mc ≤ off ∧ off < pg .mc 5 ∧ off % 0x1000 = 0x108 then wd ((off - pg .mc) / 0x1000) else 0)

end Sys2Proof.Machine
end

