-- ==== Sys2Proof/Machine/State.lean ====
section
/-! DEFINITION. The state of the device as plain data, its reset state, and the reasons a step can
stop. INVENTORY.md lists every field with its rule. -/

namespace Sys2Proof.Machine
open Sys2Proof

/-- Why a step stops with a fault. No row of the table stops the device: every error of the spec is
an effect on the state, so the type has no constructor and no step answers a fault. -/
inductive Fault where
  deriving DecidableEq, Repr

/-- Why a step has no meaning. -/
inductive Refusal where
  /-- Raised by Machine/Dispatch.lean alone, for a row without its meaning yet. Safe: it stops where
  the device goes on. -/
  | notModelled (mnemonic : String)
  deriving DecidableEq, Repr

/-! ### Memory -/

/-- Memory of the targets that keep data (DRAM, scratchpad, Keep): byte `a` of `bytes` at physical
address a, zero where unlisted; `metas` lists the word indices (PA / 8) whose metadata bit of R169 is 1
(even word the tag, odd word the poison bit); `err` holds the error pattern of a stored codeword, by
word index: the stored codeword is the encoding of data and metadata exclusive-ored with it. -/
structure Mem where
  bytes : List Host.Cell
  metas : List Nat
  err   : SMap (BitVec 80)
  deriving DecidableEq, Repr

/-- Data as the fabric returns it (R11): the bytes, and the tag and poison bit of each granule touched, in
address order. -/
structure RData where
  bytes  : List Byte
  tags   : List Bool
  poison : List Bool
  deriving DecidableEq, Repr, Inhabited

/-! ### Caches and TLBs -/

/-- A cached line (R55) with the grant of R199: 64 bytes, four tags and four poison bits; `err` is the error pattern of a
codeword of the line (R173), by its number 0 to 7. -/
structure CLine where
  pa     : Nat
  data   : RData
  err    : SMap (BitVec 80)
  dirty  : Bool
  cls    : InitClass
  colour : BitVec 4
  gr     : Bool
  gw     : Bool
  gx     : Bool
  deriving DecidableEq, Repr

/-- A leaf of R160 as a TLB entry keeps it: permissions, level and the UC attribute. -/
structure Leaf where
  lvl : Nat
  r   : Bool
  w   : Bool
  x   : Bool
  u   : Bool
  uc  : Bool
  deriving DecidableEq, Repr

/-- A TLB entry of R164. A combined entry has a stage-1 leaf `s1`; a stage-2 entry has none. -/
structure TlbEnt where
  world : Bool
  asid  : BitVec 16
  s1    : Option Leaf
  s2    : Option Leaf
  va    : Nat
  ipa   : Nat
  pa    : Nat
  log2  : Nat
  deriving DecidableEq, Repr

/-- An invalidation of R92: operation (0 TLBIVA … 4 TLBIS2), world, ASID, address, issuer. -/
structure Inval where
  op     : Fin 5
  world  : Bool
  asid   : BitVec 16
  addr   : Nat
  issuer : CtxId
  deriving DecidableEq, Repr

/-! ### Contexts -/

/-- Integer flags of R95. -/
structure Flags where
  n : Bool
  z : Bool
  c : Bool
  v : Bool
  deriving DecidableEq, Repr

/-- The states of R45, in the order of their codes. -/
inductive RunState where
  | empty | ready | stalled | waiting | parked
  deriving DecidableEq, Repr

/-- MODE of R96. -/
structure Mode where
  asid : BitVec 16
  xlat : Bool
  deriving DecidableEq, Repr

/-- Fields of a fault record that the failing access supplies (R146). -/
structure FaultInfo where
  kind   : Nat
  addr   : Option Word := none
  detail : Nat := 0
  reg    : Nat := 0
  fetch  : Bool := false
  xkind  : Nat := 0
  level  : Nat := 0
  stage  : Nat := 0
  half   : Nat := 0
  split  : Bool := false
  deriving DecidableEq, Repr

/-- A prefetched word (R48): its address and that of the word fetched after it (R49), the instruction word, and the
failed check recorded with it. -/
structure PqWord where
  va   : Nat
  next : Nat
  word : BitVec 32
  bad  : Option FaultInfo
  deriving DecidableEq, Repr

/-- An outstanding load (R51): the register it writes (a bank key; FP registers from 256 on), the value
it delivers, and the TLB entry it was translated with (R167). -/
structure Load where
  dest   : Nat
  val    : Cap
  cached : Bool
  xl     : Option TlbEnt
  /-- the gates that let its parts through, and those of them whose set a pending swap has replaced (R200) -/
  gates  : List Nat
  old    : List Nat
  deriving DecidableEq, Repr

/-- A store-buffer entry (R52): bytes within one line, the tag it sets (STC of a tagged value), the
attributes of its transaction, and whether it goes to the cluster cache. -/
structure StoreEnt where
  pa     : Nat
  data   : List Byte
  tag    : Bool
  cls    : InitClass
  colour : BitVec 4
  cached : Bool
  xl     : Option TlbEnt
  /-- judged under a region set that a pending swap has replaced (R200) -/
  old    : Bool
  deriving DecidableEq, Repr

/-- The operations of an outstanding FP instruction (R130 to R133). -/
inductive FpKind where
  | add | sub | mul | div | sqrt | min | max | cmp | cmps
  | madd | msub | nmadd | nmsub
  | cvtsd | cvtds | cvtl (uns : Bool) | cvtf (uns : Bool) | mvif | mvfi
  deriving DecidableEq, Repr

/-- An outstanding FP operation (R135): operands read at issue, the destination register (an FP number,
or a bank key for an integer destination), the rounding mode and the instruction's address. -/
structure FpOp where
  kind : FpKind
  dbl  : Bool
  rm   : Nat
  a    : Word
  b    : Word
  c    : Word
  dest : Nat
  idst : Bool
  addr : Word
  /-- FCSR.FTZ at issue, and the position in program order -/
  ftz  : Bool
  seq  : Nat
  deriving DecidableEq, Repr

/-- What a WAITING context waits for (R112, R152). -/
inductive Wait where
  | bell (b : Nat)
  | time (t : Word)
  | bellTime (b : Nat) (t : Word) (rd : Nat)
  | accept
  deriving DecidableEq, Repr

/-- What a STALLED context waits for (R45 and the rules named there). -/
inductive Why where
  | load | divider | store | drain | fpSwap | fp | walk | tlbsync | movpr | port | imageKey | fetch | settle
  deriving DecidableEq, Repr

/-- A translation walk in progress for a context (R161, R165), with the record of a fault it ends in. -/
structure WalkReq where
  va    : Word
  mode  : Mode
  need  : Nat
  fetch : Bool
  info  : FaultInfo
  word  : BitVec 32
  deriving DecidableEq, Repr

/-- An uncached fetch outstanding for a context (R48): the address of the first word wanted, the group's
address, and the words that arrive. -/
structure FetchReq where
  va    : Nat
  pa    : Nat
  words : List PqWord
  xl    : Option TlbEnt
  /-- judged under a region set that a pending swap has replaced (R200) -/
  old   : Bool
  deriving DecidableEq, Repr

/-- An entry of a call queue (R151). -/
structure CallEnt where
  cx  : BitVec 4
  ent : List Cap
  deriving DecidableEq, Repr

/-- A context: bank of R62 and control state. `bank` is keyed 1–7 for g1–g7 and 8 + i for W[i]. -/
structure Ctx where
  run     : RunState
  super   : Bool
  cust    : Bool
  pcc     : Cap
  bank    : SMap Cap
  badPar  : List Nat
  flags   : Flags
  ove     : Bool
  dze     : Bool
  em      : Bool
  mode    : Mode
  /-- MODE in force until the shadow of R98 ends, and the instructions left in it -/
  shadow  : Option (Mode × Nat)
  cwp     : Nat
  depth   : Nat
  repAct  : Bool
  repCnt  : BitVec 32
  /-- the repeat runs as REPU (R107, R108) -/
  repU    : Bool
  alh     : Cap
  alb     : BitVec 6
  alm     : Word
  queue   : List PqWord
  fetch   : Option FetchReq
  loads   : List Load
  div     : Option (Nat × Word)
  fp      : List FpOp
  stores  : List StoreEnt
  why     : Option Why
  wait    : Option Wait
  walk    : Option WalkReq
  bySysc  : Bool
  /-- held caller of an entry context; `some none` once that caller was killed or evicted (R153) -/
  held    : Option (Option CallEnt)
  yielded : Bool
  /-- consecutive CCLK cycles for which the context has been READY and not selected (R47) -/
  age     : Nat
  /-- it parks when the REPU in progress on it ends (R64 step 1, R148) -/
  parkDue : Bool
  deriving DecidableEq, Repr

/-- FP state of R122: f0–f31, FCSR, TADDR with the position in program order of its instruction (R136), and
the registers with bad parity (R432). -/
structure FpState where
  regs   : SMap Word
  fcsr   : Word
  taddr  : Word
  tseq   : Nat
  badPar : List Nat
  deriving DecidableEq, Repr

/-- A fault record of R146 with the context that faulted. -/
structure FaultRec where
  cx  : BitVec 4
  fe0 : Word
  fe1 : Word
  fe2 : Cap
  fe3 : Word
  fe4 : Word
  fe5 : Word
  fe6 : Word
  fe7 : Word
  deriving DecidableEq, Repr

/-- A core: the fault and call queues of its two worlds, the FP bank with its holder and side store and the
contexts that want it, earliest first (R122), the aged context to select next (R47), the REPU
hold, the last context selected at each priority, the context of the next slot in deterministic mode (R60), the
cycles it issued in during the present unit of TB, and the level-1 caches. -/
structure Core where
  faultO  : List FaultRec
  faultC  : List FaultRec
  callO   : List CallEnt
  callC   : List CallEnt
  fpBank  : FpState
  holder  : Option (BitVec 4)
  side    : SMap FpState
  want    : List (BitVec 4)
  sel     : Option (BitVec 4)
  hold    : Option (BitVec 4)
  lastSel : SMap Nat
  slot    : BitVec 4
  issued  : Nat
  l1d     : List CLine
  l1i     : List CLine
  deriving DecidableEq, Repr

/-- A cluster: the cluster cache and the whole-cache operation in progress (R59). -/
structure Cluster where
  lines : List CLine
  /-- the operation in progress (R59, R452): its OP (1 clean, 2 flush, 3 invalidate) and the lines it covers -/
  maint : Option (Nat × List Nat)
  /-- write-backs that received an error response and are not recorded yet (R199) -/
  wbErr : List Nat
  deriving DecidableEq, Repr

/-- A record waiting for the persistent log (R435, R436). -/
structure LogEnt where
  tb    : Word
  cls   : Nat
  typ   : Nat
  code  : Nat
  page  : Nat
  eaddr : Word
  einfo : Word
  iraw  : Word
  deriving DecidableEq, Repr

/-! ### Custodian island ports (R118, R119) -/

/-- The port registers one unit keeps for one context: value by port number, and the operations it
triggered there that have not completed. -/
structure PortSet where
  vals : SMap Cap
  busy : Nat
  deriving DecidableEq, Repr

/-- Who triggered an operation of a unit: a context, a killed or evicted context, or an aperture of a
host port (R364). -/
inductive IslSrc where
  | cx (n : Nat)
  | gone
  | aperture (h a : Nat)
  deriving DecidableEq, Repr

/-- A queued operation of a unit: its trigger port and the operands copied at the trigger. -/
structure IslOp where
  src  : IslSrc
  port : Nat
  vals : SMap Cap
  /-- a wipe began while it ran (R336, R342) -/
  wiped : Bool
  /-- the bytes that a FOLD hashes, taken as it starts (R426, R429) -/
  snap  : Option (List Byte)
  deriving DecidableEq, Repr

/-! ### The Mover -/

/-- What a Mover channel does next (R215, R217, R219): nothing, read its anchor, fetch the descriptor that
`head` authorises, wait for its unit, move beats, or finish its descriptor. -/
inductive MovPhase where
  | idle | anchor | fetch | ready | moving | ending
  deriving DecidableEq, Repr

/-- A Mover channel beside its page: the descriptor as fetched, the stream bytes handled, the tags a SWEEP
cleared, the last destination line written, the STATUS and RESULT it ends with, whether it runs under STEP,
and its credit counter (R223). -/
structure MovCh where
  phase  : MovPhase
  head   : Cap
  desc   : RData
  done   : Nat
  count  : Nat
  last   : Option Nat
  /-- the TLB entry that `last` was translated with (R167) -/
  lastXl : Option TlbEnt
  stat   : Word
  result : Word
  step   : Bool
  credit : Nat
  deriving DecidableEq, Repr

/-- A Mover unit: the channel selected, and the last one selected at each priority (R221). -/
structure MovUnit where
  cur  : Option Nat
  last : SMap Nat
  deriving DecidableEq, Repr

/-- A bus error not yet acted on (R225, R241): the transaction's address, TXN, GATE and CAUSE, and the channel,
or the position of the descriptor in its ring (none for an anchor or a fetch), and its SIDE. -/
structure BusErr where
  pa    : Nat
  txn   : Nat
  gate  : Nat
  cause : Nat
  who   : Option Nat
  side  : Nat
  deriving DecidableEq, Repr

/-! ### Engine rings -/

/-- The open batch of the Index (R264 to R268): its ring, the table's capability and bucket count, the change
stream (REMOVE entries marked true), the length of the lookup stream, and the ordinals of its NEW records by
their FP16. -/
structure Batch where
  ring : Nat
  /-- RCFG of the ring when the batch opened: the table's address space -/
  bind : Word
  cap  : Cap
  nb   : Nat
  chg  : List (Bool × List Byte)
  look : Nat
  news : List (List Byte × Nat)
  /-- the physical bytes of the table, as (first, length), and whether software wrote to them meanwhile (R271) -/
  uses : List (Nat × Nat)
  torn : Bool
  deriving DecidableEq, Repr

/-- An accepted descriptor (R240): its slot's address and physical address, its bytes, and, once the engine
has finished it, its STATUS and RESULT with the last output line written, its colour and its SIDE. -/
structure EngDesc where
  va     : Nat
  pa     : Nat
  colour : BitVec 4
  raw    : RData
  fin    : Option (Word × Word)
  last   : Option (Nat × BitVec 4 × Nat)
  /-- the TLB entry that the address of `last` was translated with (R167) -/
  lastXl : Option TlbEnt
  /-- its tests are passed and it waits to proceed (R265, R288, R310) -/
  begun  : Bool
  /-- it has started: its lane (R240, R277, R309), or 64 for an OP that uses none -/
  lane   : Option Nat
  /-- its operation has issued transactions, so that a fault leaves its outputs undefined (R238) -/
  issued : Bool
  /-- a wipe began before it completed (R331) -/
  wiped  : Bool
  /-- the key slot that the Cipher read when it accepted the descriptor, and whether a codeword of it was uncorrectable
  (R250, R331) -/
  aux    : List Byte
  auxBad : Bool
  /-- the Index's batch once the descriptor has completed (R267) -/
  next   : Option Batch
  /-- place in the engine's order of acceptance -/
  seq    : Nat
  /-- the physical bytes that it uses, as (first, length), and whether software wrote to them meanwhile (R246) -/
  uses   : List (Nat × Nat)
  torn   : Bool
  deriving DecidableEq, Repr

/-- What a ring does next: nothing, read its anchor, or fetch the slot at HEAD. -/
inductive RingPhase where
  | idle | anchor | fetch
  deriving DecidableEq, Repr

/-- A ring of an engine beside its page (R239, R240). -/
structure EngRing where
  phase  : RingPhase
  anchor : Cap
  descs  : List EngDesc
  err    : Option BusErr
  deriving DecidableEq, Repr

/-- A dictionary in a slot of the Condenser (R286): its ID, whether it is raw content, its bytes before the content
(magic, ID, entropy tables and repeat offsets), and the capability and length of its extent with the RCFG value that
names the address space. -/
structure Dict where
  id     : Nat
  raw    : Bool
  hdr    : List Byte
  cap    : Cap
  len    : Nat
  bind   : Word
  /-- the physical bytes of its content, as (first, length), and whether software wrote to them meanwhile (R288) -/
  uses   : List (Nat × Nat)
  torn   : Bool
  deriving DecidableEq, Repr

/-- The registers of a Coder lane (R309): accumulators, uses of the walkers, and the loop stack. -/
structure LaneRegs where
  acc   : List (List Byte)
  uses  : List Nat
  stack : List (Nat × Nat)
  deriving DecidableEq, Repr

/-! ### Ports -/

/-- A posted request a PCIe port sent: kind 0 a memory write, 3 an MSI-X message. -/
structure OutReq where
  kind : Nat
  addr : Nat
  data : List Byte
  deriving DecidableEq, Repr

/-- A non-posted request a port has outstanding (R369, R370, R387): kind 0 a memory read, 1 and 2 a configuration read of
Type 0 and Type 1, 3 and 4 a configuration write of Type 0 and Type 1, with its `data`; `addr` is its PCIe address, and
`dev` the segment offset that a configuration request takes its bus, device, function and register from; `src`, `pa` and
`n` name the fabric transaction it serves, no one's once that was given up. -/
structure OutRead where
  tag  : Nat
  kind : Nat
  addr : Nat
  dev  : Nat
  src  : Nat
  pa   : Nat
  n    : Nat
  data : List Byte
  /-- the TLB entry it was translated with (R167) -/
  xl   : Option TlbEnt
  /-- judged under a region set that a pending swap has replaced (R200) -/
  old  : Bool
  deriving DecidableEq, Repr

/-- The answer to a window read, held until its initiator takes it; none is an error response. -/
structure ReadDone where
  src  : Nat
  pa   : Nat
  n    : Nat
  data : Option RData
  deriving DecidableEq, Repr

/-- A completion a port sent for an inbound request. -/
structure Cpl where
  reqid : Nat
  st    : CplStatus
  data  : List Byte
  deriving DecidableEq, Repr

/-- The fabric side of a PCIe port: what it sent, its outstanding non-posted requests, those that wait to be sent, answers
and completions. -/
structure PortIo where
  tx    : List OutReq
  reads : List OutRead
  waitR : List OutRead
  dones : List ReadDone
  cpls  : List Cpl
  deriving DecidableEq, Repr

/-- An aperture slot (R364): WRIT, the copy under check, the IMAGE and TENANT kept, and the fields of ASTAT. -/
structure Aperture where
  writ    : BitVec 256
  copy    : BitVec 256
  cap     : Cap
  tenant  : BitVec 16
  closed  : Nat
  refused : Bool
  verdict : Nat
  state   : Nat
  deriving DecidableEq, Repr

/-- A host port beside its page (R358 to R366): PERST_N, configuration space by dword, apertures, MSI-X table
and pending bits. -/
structure HostPort where
  io    : PortIo
  perst : Bool
  cfg   : SMap (BitVec 32)
  aps   : SMap Aperture
  msix  : SMap (BitVec 128)
  pba   : List Nat
  deriving DecidableEq, Repr

/-- An inbound request that a media port let through and that has not ended (R367, R371, R372): memory with its device
address, colour and the lines still to be written, or the bell of a doorbell write. -/
inductive InReq where
  | mem (q : PortReq) (x : Nat) (colour : BitVec 4) (left : List (Nat × Nat))
  | bell (b : Nat)
  deriving DecidableEq, Repr

/-- A media port beside its page: its anchor (R372), the inbound requests that wait, and the error status it keeps. -/
structure MedPort where
  io     : PortIo
  anchor : Option Cap
  inq    : List InReq
  /-- AER Correctable and Uncorrectable Error Status and Root Error Status (R358, R431) -/
  aer    : BitVec 32
  aerU   : BitVec 32
  root   : BitVec 32
  deriving DecidableEq, Repr

/-- A stroke sent or waiting to be sent, with its TYPE (R383). -/
structure TxStroke where
  typ    : Nat
  stroke : Stroke
  deriving DecidableEq, Repr

/-- A stroke accepted and not handled yet (R388), with its arrival stamp (R390) and, once its first line was issued, what
it was let through with: the anchor, the address of its block, and the lines still to be moved. -/
structure InStroke where
  typ    : Nat
  stroke : Stroke
  stamp  : Word
  auth   : Option (Cap × Nat × List (Nat × Nat))
  deriving DecidableEq, Repr

/-- A Tambour port beside its page (R384 to R391). -/
structure PeerPort where
  /-- consecutive ALIGN strokes received deskewed, INIT strokes sent, and the one received (R384) -/
  aligned  : Nat
  inits    : Nat
  gotInit  : Option Stroke
  nextSeq  : BitVec 16
  expect   : BitVec 16
  nakSent  : Bool
  /-- reads that wait for a completion buffer and a tag -/
  waitR    : List OutRead
  /-- strokes waiting for credit, and strokes sent and not acknowledged -/
  txq      : List TxStroke
  held     : List TxStroke
  /-- strokes put on the link -/
  out      : List TxStroke
  /-- strokes accepted and not handled yet, oldest first -/
  inq      : List InStroke
  /-- resends of the oldest stroke held, TB when ACK last advanced or a resend began, and of the last resend its TB, the
  place of its first stroke in `out`, and their number -/
  resends  : Nat
  ackTb    : Word
  again    : Option (Word × Nat × Nat)
  /-- initial credits of the partner, its CRED bytes held, strokes sent and buffers freed, by lane -/
  credInit : List Nat
  cred     : List Nat
  sent     : List Nat
  freed    : List Nat
  reads    : List OutRead
  dones    : List ReadDone
  anchor   : Option Cap
  /-- no exchange since link up; consecutive good exchanges; TB of the last completed one (R391) -/
  tsFirst  : Bool
  tsGood   : Nat
  tsLast   : Word
  /-- consecutive receptions of a neighbour's own record of another epoch (R393) -/
  grace    : Nat
  deriving DecidableEq, Repr

/-- A digest record of R392. -/
structure GosRec where
  digest : BitVec 256
  epoch  : Word
  hops   : Nat
  stamp  : Word
  deriving DecidableEq, Repr

/-- The management port beside its page (R376 to R380): UART FIFOs and line, the SPI FIFO, the command sent to
the NOR, the I3C response due and what the target sent, the JTAG instruction and what it answered, and the
identification values of the Keep. -/
structure Mgmt where
  rx     : List Byte
  tx     : List Byte
  uart   : List Byte
  spi    : List Byte
  spiCmd : Option (Word × List Byte)
  i3c    : List Byte
  i3cOut : List (List Byte)
  ir     : Nat
  jtag   : List Word
  /-- commands that the boot ROM sent to the NOR, in the layout of SPICMD (R379) -/
  nor    : List Word
  /-- the Subsystem IDs and bits [47:33] of the I3C provisional ID that start-up loaded from the Keep (R3, R376) -/
  ssid   : BitVec 32
  pid    : BitVec 15
  deriving DecidableEq, Repr

/-! ### Power, supplies, lifetimes -/

/-- Power control beside its page: the transition in progress (domains on, memory state), the requests waiting
(R403, R413), a DREQ write or (none) an entry to NADIR, whether the device is in NADIR, and the dip in progress (R403). -/
structure Power where
  cur      : Option (Nat × Nat)
  queue    : List (Option Word)
  nadir    : Bool
  /-- NADIR entry is under way (R401) -/
  entry    : Bool
  /-- tamper causes recorded while D2 was off (R342) -/
  tamper   : Bool
  alarmed  : Bool
  dipRail  : Nat
  dipDepth : Nat
  dipStart : Word
  /-- the divisor waiting for VDD to settle, and the target that VDD has reached, which its warning and reset levels follow
  (R417) -/
  settle   : Option Nat
  level    : Nat
  /-- VDD targets written to the regulator over AVSBus (R459) -/
  avsOut   : List Nat
  /-- REFCLK has stopped in NADIR: TB does not count (R466) -/
  refStop  : Bool
  /-- THERMTRIP_N is held low (R381) -/
  trip     : Bool
  /-- the device has stopped until a reset (R404, R433) -/
  halted   : Bool
  /-- a wake source arrived while NADIR entry was under way (R401) -/
  wake     : Bool
  /-- place in the order of image sources, and the check that failed at the last source that held images (R408) -/
  bootAt   : Nat
  bootFail : Nat
  deriving DecidableEq, Repr

/-- The Orrery beside its page: recent package powers (R418), since when the average lies below the cap's
hysteresis and Tmax below the limit's, the consecutive good samples of a faulty sensor (R415), and the base values of the
VDD target in force for divisors 3 to 12, with those that the next divisor change takes up (R417, R429). -/
structure Orrery where
  hist   : List Nat
  capLow : Option Word
  thLow  : Option Word
  good   : SMap Nat
  avsTab  : List Nat
  avsNext : Option (List Nat)
  deriving DecidableEq, Repr

/-- Fuses and Keep values the device loads (R341, R342): life-cycle state, tamper count, both roots disabled
until reset, and the state being entered. -/
structure Life where
  state  : Nat
  target : Nat
  count  : Nat
  noRoot : Bool
  /-- the wipe in progress answers a tamper cause: TCFG.RESET applies to it (R343) -/
  tam    : Bool
  deriving DecidableEq, Repr

/-- The Custodian island beside its ports: number of the image key in force, the nonce counter of R66, and the
measurement registers (R340). -/
structure Island where
  keyNo : Nat
  nonce : Nat
  meas  : SMap (BitVec 384)
  deriving DecidableEq, Repr

/-- The device. `regs` holds every register of the register pages by register-space offset (R440); an
offset that is not listed holds its reset value (`regReset`). -/
structure State where
  regs     : SMap Word
  mem      : Mem
  ctxs     : SMap Ctx
  cores    : SMap Core
  clusters : SMap Cluster
  /-- pending bells (R109), rising -/
  bells    : List Nat
  /-- waiters of each bell, earliest first (R109) -/
  bellQ    : SMap (List Nat)
  tlbs     : SMap (List TlbEnt)
  /-- invalidations issued, oldest first, and how many of them each TLB has completed (R167) -/
  invals   : List Inval
  tlbDone  : SMap Nat
  tb       : Word
  /-- number of free values used so far: the model's own counter -/
  free     : Nat
  plogQ    : List LogEnt
  /-- the SEQ of the next log record (R435) -/
  plogSeq  : Word
  /-- one more than the millisecond of TB of the last CONTAINED record of a page (R436) -/
  plogMs   : SMap Nat
  /-- RAS.LAST was read since the last event (R433) -/
  lastRead : Bool
  /-- port registers of a unit for a context, by unit × 2048 + context (R119) -/
  ports    : SMap PortSet
  /-- queued operations by unit, oldest first (R119) -/
  islQ     : SMap (List IslOp)
  /-- IBIs are enabled (R376), and the IBI payloads sent -/
  ibiEn    : Bool
  ibiOut   : List Byte
  movs     : SMap MovCh
  movUnits : SMap MovUnit
  movErr   : Option BusErr
  /-- rings by engine × 16 + ring -/
  rings    : SMap EngRing
  hosts    : SMap HostPort
  meds     : SMap MedPort
  peers    : SMap PeerPort
  /-- digest records held, by NODE, and the NODE that each port relays next (R392) -/
  gossip   : SMap GosRec
  gosNext  : SMap Nat
  mgmt     : Mgmt
  power    : Power
  orrery   : Orrery
  life     : Life
  island   : Island
  /-- TB units left to each watchdog (R433) -/
  swdLeft  : SMap Nat
  /-- fraction of TB in 1/256, offset still to be slewed in that unit, ticks since the last slew, and whether
  TB runs at half rate (R391) -/
  tbFrac   : Nat
  slew     : Int
  slewAcc  : Nat
  tbHalf   : Bool
  /-- CCLK cycles so far in units of 1/27,720 cycle, and their number when each cluster was switched on (R453) -/
  cclk     : Nat
  cclkAt   : SMap Nat
  /-- the open batch (R264) -/
  batch    : Option Batch
  /-- controllers whose scrubber visits the second pair of its unit next (R181) -/
  scrubHalf : List Nat
  /-- dictionary slots of the Condenser (R286), and the words of the Coder's program memory (R310) -/
  dicts    : SMap Dict
  prog     : SMap (BitVec 32)
  /-- words of the program memory, and Condenser lanes' shares of the deep-model SRAM, whose codeword is uncorrectable
  (R306, R310) -/
  progBad  : List Nat
  laneBad  : List Nat
  /-- registers of the Coder's lanes (R309) -/
  codRegs  : SMap LaneRegs
  /-- the ring selected last, by engine, stage (0 acceptance, 1 start) and priority: engine × 8 + stage × 4 + PRI (R240) -/
  engLast  : SMap Nat
  /-- descriptors accepted so far, by any engine: the model's own count, for the order of acceptance -/
  accepts  : Nat
  /-- commands waiting, first in first out -/
  pending  : List Instr
  deriving DecidableEq, Repr

/-! ### Reset -/

/-- FP state of a context started from EMPTY (R123). -/
def FpState.zero : FpState := { regs := [], fcsr := 0, taddr := 0, tseq := 0, badPar := [] }

/-- An EMPTY context (R46): every register null, alert set empty; its alert handler is null and its block 0 (assumption
log 79). -/
def Ctx.empty : Ctx :=
  { run := .empty, super := false, cust := false, pcc := Cap.null, bank := [], badPar := [],
    flags := { n := false, z := false, c := false, v := false }, ove := false, dze := false,
    em := true, mode := { asid := 0, xlat := false }, shadow := none, cwp := 0, depth := 0,
    repAct := false, repCnt := 0, repU := false, alh := Cap.null, alb := 0, alm := 0, queue := [],
    fetch := none, loads := [], div := none, fp := [], stores := [], why := none, wait := none,
    walk := none, bySysc := false, held := none, yielded := false, age := 0, parkDue := false }

/-- A core after reset: nothing queued, no FP holder. -/
def Core.idle : Core :=
  { faultO := [], faultC := [], callO := [], callC := [], fpBank := FpState.zero, holder := none,
    side := [], want := [], sel := none, hold := none, lastSel := [], slot := 0, issued := 0, l1d := [], l1i := [] }

/-- A cluster after reset. -/
def Cluster.idle : Cluster := { lines := [], maint := none, wbErr := [] }

/-- A capability of R15 from its fields, tagged. -/
def mkCap (e b t rights colour otype cursor : Nat) : Cap :=
  { bits := BitVec.ofNat 128
      (e * 2 ^ 122 + b * 2 ^ 102 + t * 2 ^ 82 + rights * 2 ^ 72 + colour * 2 ^ 68 + otype * 2 ^ 64
        + cursor),
    tag := true }

/-- The execute root of R35, which is also the reset PCC. -/
def resetPcc : Cap := mkCap 29 0 0x80000 0x04D 0 0 0xC200000000

/-- Cluster 0, core 0, context 0 at reset (R35): CS, translation off, the four roots in g1 to g4. -/
def bootCtx : Ctx :=
  { Ctx.empty with
    run := .ready, super := true, cust := true, pcc := resetPcc,
    bank := [(1, mkCap 29 0 0x80000 0x07B 0 0 0), (2, resetPcc), (3, mkCap 0 0 0x10 0x1C0 0 0 0),
      (4, mkCap 0 0 0x10000 0x240 0 0 0)] }

/-- A Mover channel at reset. -/
def MovCh.idle : MovCh :=
  { phase := .idle, head := Cap.null, desc := { bytes := [], tags := [], poison := [] }, done := 0, count := 0,
    last := none, lastXl := none, stat := 0, result := 0, step := false, credit := 0 }

/-- A Mover unit at reset. -/
def MovUnit.idle : MovUnit := { cur := none, last := [] }

/-- A ring at reset. -/
def EngRing.idle : EngRing := { phase := .idle, anchor := Cap.null, descs := [], err := none }

/-- The fabric side of a port at reset. -/
def PortIo.idle : PortIo := { tx := [], reads := [], waitR := [], dones := [], cpls := [] }

/-- An aperture never used: CLOSED, VERDICT 0xFF (R364). -/
def Aperture.idle : Aperture :=
  { writ := 0, copy := 0, cap := Cap.null, tenant := 0, closed := 0, refused := false, verdict := 255, state := 0 }

/-- A host port at reset, PERST_N high. -/
def HostPort.idle : HostPort := { io := PortIo.idle, perst := true, cfg := [], aps := [], msix := [], pba := [] }

/-- A media port at reset. -/
def MedPort.idle : MedPort := { io := PortIo.idle, anchor := none, inq := [], aer := 0, aerU := 0, root := 0 }

/-- A Tambour port at reset. -/
def PeerPort.idle : PeerPort :=
  { aligned := 0, inits := 0, gotInit := none, nextSeq := 0, expect := 0, nakSent := false, waitR := [], txq := [], held := [], out := [], inq := [],
    resends := 0, ackTb := 0, again := none,
    credInit := [0, 0, 0, 0], cred := [0, 0, 0, 0], sent := [0, 0, 0, 0], freed := [0, 0, 0, 0], reads := [],
    dones := [], anchor := none, tsFirst := true, tsGood := 0, tsLast := 0, grace := 0 }

/-- The management port at reset; IDCODE is selected (R378). -/
def Mgmt.idle : Mgmt :=
  { rx := [], tx := [], uart := [], spi := [], spiCmd := none, i3c := [], i3cOut := [], ir := 1, jtag := [], nor := []
    ssid := 0x00011D7E, pid := 0 }

/-- Power control at reset. -/
def Power.idle : Power :=
  { cur := none, queue := [], nadir := false, entry := false, tamper := false, alarmed := false, dipRail := 0, dipDepth := 0,
    dipStart := 0, settle := none, level := 750, avsOut := [], refStop := false, trip := false, halted := false, wake := false,
    bootAt := 0, bootFail := 6 }

/-- The Orrery at reset. -/
def Orrery.idle : Orrery :=
  { hist := [], capLow := none, thLow := none, good := [], avsTab := (List.range 10).map fun i => Config.avsFuse (i + 3)
    avsNext := none }

/-- A device in the field, DEPLOYED (assumption log 6). -/
def Life.loaded : Life := { state := 2, target := 0, count := 0, noRoot := false, tam := false }

/-- The island at reset. -/
def Island.idle : Island := { keyNo := 0, nonce := 0, meas := [] }

/-- Memory after reset: nothing listed. -/
def Mem.empty : Mem := { bytes := [], metas := [], err := [] }

/-- The device right after reset. -/
def State.reset : State :=
  { regs := [], mem := Mem.empty, ctxs := [(0, bootCtx)], cores := [], clusters := [], bells := [],
    bellQ := [], tlbs := [], invals := [], tlbDone := [], tb := 0, free := 1, plogQ := [],
    plogSeq := 0, plogMs := [], lastRead := false,
    ports := [], islQ := [], ibiEn := false, ibiOut := [],
    movs := [], movUnits := [], movErr := none, rings := [], hosts := [], meds := [], peers := [], gossip := [],
    gosNext := [], mgmt := Mgmt.idle, power := Power.idle, orrery := Orrery.idle, life := Life.loaded,
    island := Island.idle, swdLeft := [], tbFrac := 0, slew := 0, slewAcc := 0, tbHalf := false, cclk := 0, cclkAt := [],
    batch := none, scrubHalf := [], dicts := [], prog := [], progBad := [], laneBad := [], codRegs := [], engLast := []
    accepts := 0,
    pending := [] }

end Sys2Proof.Machine
end

