-- ==== Sys2Proof/Machine/Caps.lean ====
section
/-! DEFINITION. Capabilities: fields (R15), bounds (R18, R22), the access check (R20, R21), the rights
of stores and loads of capabilities (R27, R28), branch targets (R33, R83) and derivation (R25). -/

namespace Sys2Proof.Machine
open Sys2Proof

/-! ### Fault kinds (R147) -/

abbrev kTag : Nat := 0x01
abbrev kBounds : Nat := 0x02
abbrev kRights : Nat := 0x03
abbrev kSealed : Nat := 0x04
abbrev kCapAlign : Nat := 0x05
abbrev kRepresent : Nat := 0x06
abbrev kXlat : Nat := 0x08
abbrev kGate : Nat := 0x09
abbrev kPoison : Nat := 0x0A
abbrev kIllegal : Nat := 0x0C
abbrev kPriv : Nat := 0x0D
abbrev kWinDepth : Nat := 0x0E
abbrev kWinUnder : Nat := 0x0F
abbrev kDivzero : Nat := 0x10
abbrev kOverflow : Nat := 0x11
abbrev kFp : Nat := 0x12
abbrev kPort : Nat := 0x14
abbrev kBell : Nat := 0x15

/-! ### Fields (R15) -/

/-- Bits [hi:lo] of a capability. -/
def capBits (c : Cap) (hi lo : Nat) : Nat := nfld c.bits.toNat hi lo

def capE (c : Cap) : Nat := capBits c 127 122
def capB (c : Cap) : Nat := capBits c 121 102
def capT (c : Cap) : Nat := capBits c 101 82
def capRights (c : Cap) : Nat := capBits c 81 72
def capColour (c : Cap) : Nat := capBits c 71 68
def capOtype (c : Cap) : Nat := capBits c 67 64
def capCursor (c : Cap) : Nat := capBits c 63 0

/-- CURSOR as a word: the integer of R71. -/
def capWord (c : Cap) : Word := c.bits.truncate 64

/-- An integer as a register holds it (R16): untagged, bits [127:64] zero. -/
def intCap (w : Word) : Cap := { bits := w.zeroExtend 128, tag := false }

/-- A capability with bits [hi:lo] replaced. -/
def capSet (c : Cap) (hi lo x : Nat) : Cap :=
  { c with
    bits := BitVec.ofNat 128
      (c.bits.toNat - capBits c hi lo * 2 ^ lo + x % 2 ^ (hi + 1 - lo) * 2 ^ lo) }

def capSetCursor (c : Cap) (x : Nat) : Cap := capSet c 63 0 x
def capSetOtype (c : Cap) (t : Nat) : Cap := capSet c 67 64 t

/-- The right `b` of R23 is held. -/
def capHas (c : Cap) (b : Nat) : Bool := (capRights c).testBit b

abbrev rLoad : Nat := 0
abbrev rStore : Nat := 1
abbrev rExec : Nat := 2
abbrev rLoadcap : Nat := 3
abbrev rStorecap : Nat := 4
abbrev rStorelocal : Nat := 5
abbrev rGlobal : Nat := 6
abbrev rSeal : Nat := 7
abbrev rUnseal : Nat := 8
abbrev rCustody : Nat := 9

/-! ### Bounds (R18) -/

/-- `bu` of R18. -/
def capBu (c : Cap) : Int :=
  (capCursor c / 2 ^ (capE c + 20) : Nat) -
    (if capCursor c / 2 ^ capE c % 2 ^ 20 < capB c then 1 else 0)

/-- base of R18, in signed arithmetic. -/
def capBase (c : Cap) : Int := capBu c * (2 ^ (capE c + 20) : Nat) + (capB c * 2 ^ capE c : Nat)

/-- top of R18. -/
def capTop (c : Cap) : Int :=
  (capBu c + (if capT c < capB c then 1 else 0)) * (2 ^ (capE c + 20) : Nat)
    + (capT c * 2 ^ capE c : Nat)

/-- [x, x + n) lies within the bounds (R20). -/
def capCovers (c : Cap) (x n : Nat) : Bool :=
  decide (capBase c ≤ (x : Int)) && decide ((x : Int) + (n : Int) ≤ capTop c)

/-- R20 in the order of R21: the fault kind of the first condition that fails. `extra` is a further
condition in the place of RIGHTS (R27), `al` the alignment of LDC and STC. -/
def capCheck (c : Cap) (rights : List Nat) (extra : Bool) (al : Bool) (x n : Nat) : Option Nat :=
  if !c.tag then some kTag
  else if capOtype c ≠ 0 then some kSealed
  else if !(rights.all (capHas c)) || !extra then some kRights
  else if al && decide (x % 16 ≠ 0) then some kCapAlign
  else if !capCovers c x n then some kBounds
  else none

/-- R27: the rights that storing `v` through `c` needs beside STORE. -/
def storeCapOk (c v : Cap) : Bool :=
  !v.tag || (capHas c rStorecap && (capHas v rGlobal || capHas c rStorelocal))

/-- R28: a loaded granule through `c`. -/
def loadCapResult (c v : Cap) : Cap := { v with tag := v.tag && capHas c rLoadcap }

/-- R83: the branch target at address `x` of `c`, in the order given there. OTYPE 15 is taken as 0 (R33). -/
def targetCheckAt (c : Cap) (x : Nat) : Option Nat :=
  if !c.tag then some kTag
  else if capOtype c ≠ 0 ∧ capOtype c ≠ 15 then some kSealed
  else if !capHas c rExec then some kRights
  else if x % 4 ≠ 0 then some kIllegal
  else if !capCovers c x 4 then some kBounds
  else none

/-- R83 for a target that a capability names. -/
def targetCheck (c : Cap) : Option Nat := targetCheckAt c (capCursor c)

/-- The PCC a branch through `c` gives (R33, R82). -/
def targetPcc (c : Cap) : Cap := if capOtype c = 15 then capSetOtype c 0 else c

/-! ### Derivation (R22, R25) -/

/-- CURSOR set to `x`; the tag is cleared outside [base, top] (R19). -/
def capMove (c : Cap) (x : Nat) : Cap :=
  { capSetCursor c x with
    tag := c.tag && decide (capBase c ≤ (x % 2 ^ 64 : Nat)) && decide (((x % 2 ^ 64 : Nat) : Int) ≤ capTop c) }

/-- `lo` of R22. -/
def bndLo (b e : Nat) : Nat := b / 2 ^ e * 2 ^ e
/-- `hi` of R22. -/
def bndHi (b l e : Nat) : Nat := (b + l + 2 ^ e - 1) / 2 ^ e * 2 ^ e

/-- The exponent loop of R22, over at most `fuel` exponents from `e`. -/
def bndExp (b l : Nat) : Nat → Nat → Nat
  | 0, e => e
  | fuel + 1, e => if bndHi b l e - bndLo b e < 2 ^ (e + 20) then e else bndExp b l fuel (e + 1)

/-- ANARROW (`exact` false) and AFIT (`exact` true) of R22: the new capability or the fault kind. -/
def capNarrow (c : Cap) (l : Nat) (exact : Bool) : Except Nat Cap :=
  let b := capCursor c
  let e := bndExp b l 45 0
  let lo := bndLo b e
  let hi := bndHi b l e
  if !c.tag then .error kTag
  else if capOtype c ≠ 0 then .error kSealed
  else if !capCovers c b l then .error kBounds
  else if exact && (decide (lo ≠ b) || decide (hi ≠ b + l)) then .error kRepresent
  else if !exact && (decide ((lo : Int) < capBase c) || decide (capTop c < (hi : Int))) then .error kRepresent
  else .ok (mkCap e (lo / 2 ^ e % 2 ^ 20) (hi / 2 ^ e % 2 ^ 20) (capRights c) (capColour c) (capOtype c) b)

/-- The two words of a granule that hold a capability (R16). -/
def capWords (c : Cap) : Word × Word := (c.bits.truncate 64, (c.bits >>> 64).truncate 64)

/-- The capability of a granule's two words and its tag. -/
def capOfWords (lo hi : Word) (tag : Bool) : Cap :=
  { bits := BitVec.ofNat 128 (hi.toNat * 2 ^ 64 + lo.toNat), tag := tag }

/-- The 16 bytes of a capability in memory (R16). -/
def capBytes (c : Cap) : List Byte := leBytes 16 c.bits.toNat

/-- R39's BAD_IMAGE condition: the image meets R19 and holds no CUSTODY, SEAL or UNSEAL. -/
def writImageOk (c : Cap) : Bool :=
  decide (capE c ≤ 44) && decide (0 ≤ capBase c) && decide (capBase c ≤ (capCursor c : Int)) &&
    decide ((capCursor c : Int) ≤ capTop c) && decide (capTop c ≤ (2 ^ 64 : Nat)) &&
    !capHas c rCustody && !capHas c rSeal && !capHas c rUnseal

end Sys2Proof.Machine
end

