-- ==== Sys2Proof/Machine/Flags.lean ====
section
/-! DEFINITION. Flag computations (R75, R131), conditions (R81), and the integer results of the ALU, multiply and
divide groups (R74, R78, R79, R80). -/

namespace Sys2Proof.Machine
open Sys2Proof

/-- The FLAGS register of R95. -/
def flagsWord (f : Flags) : Word := wd (b2n f.n * 8 + b2n f.z * 4 + b2n f.c * 2 + b2n f.v)

/-- Flags from the low bits of a word, laid out as FLAGS. -/
def flagsOf (w : Word) : Flags := { n := bitAt w 3, z := bitAt w 2, c := bitAt w 1, v := bitAt w 0 }

/-- `r` of R75. -/
def addRes (a y : Word) (cin : Bool) : Word := wd (a.toNat + y.toNat + b2n cin)

/-- The flags of an add-type row (R75). -/
def addFlags (a y : Word) (cin : Bool) : Flags :=
  let r := addRes a y cin
  { n := r.msb, z := decide (r = 0), c := decide (2 ^ 64 ≤ a.toNat + y.toNat + b2n cin),
    v := ((a ^^^ r) &&& (y ^^^ r)).msb }

/-- The flags of every other row: N and Z from the result, C and V unchanged. -/
def nzFlags (f : Flags) (r : Word) : Flags := { f with n := r.msb, z := decide (r = 0) }

/-- A result with the flags it leaves when S is 1. -/
structure Alu where
  res   : Word
  flags : Flags
  deriving DecidableEq, Repr

/-- An add-type result. -/
def aluAdd (a y : Word) (cin : Bool) : Alu := { res := addRes a y cin, flags := addFlags a y cin }

/-- A result of the other rows. -/
def aluNz (f : Flags) (r : Word) : Alu := { res := r, flags := nzFlags f r }

/-- a rotated right by n. -/
def rorW (a : Word) (n : Nat) : Word := a.rotateRight n

/-- Leading zeros (CLZ). -/
def clzW (a : Word) : Nat := 64 - bitLen a.toNat

/-- Bytes in reverse order (BSWAP). -/
def bswapW (a : Word) : Word := wd (leNat (leBytes 8 a.toNat).reverse)

/-- The low `w` bits of `a`, sign-extended. -/
def sextW (w : Nat) (a : Word) : Word := wd (wrapInt 64 (signed w a.toNat))

/-- A signed immediate of `w` bits as a word. -/
def sextImm {w : Nat} (i : BitVec w) : Word := i.signExtend 64

/-- One bit as a word. -/
def boolW (b : Bool) : Word := if b then 1 else 0

/-- The condition `c` of R81 on flags; code 15 is never taken (it faults ILLEGAL at issue). -/
def condTaken (c : Cond) (f : Flags) : Bool :=
  match c.toNat with
  | 0 => f.z | 1 => !f.z
  | 2 => !f.c | 3 => f.c
  | 4 => !f.c || f.z | 5 => f.c && !f.z
  | 6 => f.n != f.v | 7 => f.n == f.v
  | 8 => f.z || f.n != f.v | 9 => !f.z && f.n == f.v
  | 10 => f.n | 11 => !f.n
  | 12 => f.v | 13 => !f.v
  | 14 => true
  | _ => false

/-- FCMP and FCMPS (R131): less, equal, greater, or unordered (none). -/
def cmpFlags : Option Ordering → Flags
  | some .lt => { n := true, z := false, c := false, v := false }
  | some .eq => { n := false, z := true, c := true, v := false }
  | some .gt => { n := false, z := false, c := true, v := false }
  | none => { n := false, z := false, c := true, v := true }

/-! ### Multiply and divide (R78, R79) -/

def mulLo (a b : Word) : Word := a * b
def mulHiU (a b : Word) : Word := wd (a.toNat * b.toNat / 2 ^ 64)
def mulHiS (a b : Word) : Word := wd (wrapInt 64 (a.toInt * b.toInt / (2 ^ 64 : Nat)))

/-- A divide of R79: its value, or the fault kind. -/
abbrev DivRes := Except Nat Word

def divU (dze : Bool) (a b : Word) : DivRes :=
  if b = 0 then (if dze then .error 0x10 else .ok (BitVec.allOnes 64)) else .ok (a / b)

def remU (dze : Bool) (a b : Word) : DivRes :=
  if b = 0 then (if dze then .error 0x10 else .ok a) else .ok (a % b)

/-- The one quotient that overflows. -/
def divOverflows (a b : Word) : Bool := decide (a = 0x8000000000000000) && decide (b = BitVec.allOnes 64)

def divS (dze ove : Bool) (a b : Word) : DivRes :=
  if b = 0 then (if dze then .error 0x10 else .ok (BitVec.allOnes 64))
  else if divOverflows a b then (if ove then .error 0x11 else .ok a)
  else .ok (BitVec.sdiv a b)

def remS (dze ove : Bool) (a b : Word) : DivRes :=
  if b = 0 then (if dze then .error 0x10 else .ok a)
  else if divOverflows a b then (if ove then .error 0x11 else .ok 0)
  else .ok (BitVec.srem a b)

/-- One DSTEP of R80: the new high and low halves. -/
def dstepW (hi lo d : Word) : Word × Word :=
  let h2 := (hi <<< 1) ||| (lo >>> 63)
  let l2 := lo <<< 1
  if hi.msb || decide (d ≤ h2) then (h2 - d, l2 ||| 1) else (h2, l2)

end Sys2Proof.Machine
end

