-- ==== Sys2Proof/Machine/Operands.lean ====
section
/-! DEFINITION. Register operands of a context (R62, R69, R71), the words of the instruction formats
(R70), and the context control words that records and registers show. -/

namespace Sys2Proof.Machine
open Sys2Proof

/-! ### Instruction words (R70) -/

/-- Register format. -/
def wReg (op : Nat) (rd rs1 rs2 : Reg) (func : Nat) : BitVec 32 :=
  BitVec.ofNat 32 (op * 2 ^ 26 + rd.toNat * 2 ^ 21 + rs1.toNat * 2 ^ 16 + rs2.toNat * 2 ^ 11 + func)

/-- Immediate format. -/
def wImm (op : Nat) (rd rs1 : Reg) (sub : Nat) (imm : BitVec 11) : BitVec 32 :=
  BitVec.ofNat 32 (op * 2 ^ 26 + rd.toNat * 2 ^ 21 + rs1.toNat * 2 ^ 16 + sub * 2 ^ 11 + imm.toNat)

/-- Wide format. -/
def wWide (op : Nat) (rd : Reg) (imm : Nat) : BitVec 32 :=
  BitVec.ofNat 32 (op * 2 ^ 26 + rd.toNat * 2 ^ 21 + imm)

/-- Branch format. -/
def wBranch (op : Nat) (c : Cond) (imm : BitVec 22) : BitVec 32 :=
  BitVec.ofNat 32 (op * 2 ^ 26 + c.toNat * 2 ^ 22 + imm.toNat)

/-- Compare-branch format. -/
def wCmpBranch (op : Nat) (c : Cond) (rs1 rs2 : Reg) (imm : BitVec 11) : BitVec 32 :=
  BitVec.ofNat 32 (op * 2 ^ 26 + c.toNat * 2 ^ 22 + rs1.toNat * 2 ^ 16 + rs2.toNat * 2 ^ 11 + imm.toNat)

/-- Jump format. -/
def wJump (op : Nat) (imm : BitVec 26) : BitVec 32 := BitVec.ofNat 32 (op * 2 ^ 26 + imm.toNat)

/-! ### Registers of a context -/

/-- The bank key of register number `r` in window frame `f` (R62, R69): none for g0. -/
def regKey (f : Nat) (r : Nat) : Option Nat :=
  if r = 0 then none
  else if r < 8 then some r
  else if r < 16 then some (8 + (16 * ((f + 7) % 8) + 8 + (r - 8)))
  else some (8 + (16 * f + (r - 16)))

/-- The value of register `r`: g0 reads as the null capability (R71). -/
def readReg (c : Ctx) (r : Reg) : Cap :=
  match regKey c.cwp r.toNat with
  | none => Cap.null
  | some k => smGet Cap.null c.bank k

/-- The integer operand of register `r` (R71). -/
def readInt (c : Ctx) (r : Reg) : Word := capWord (readReg c r)

/-- A value into bank key `k`: its parity is then good (R432), and a divide result still due there is
superseded by this later write. -/
def writeKey (c : Ctx) (k : Nat) (v : Cap) : Ctx :=
  { c with
    bank := smSet Cap.null c.bank k v
    badPar := setDel k c.badPar
    div := c.div.map fun d => if d.1 = k then (0, d.2) else d }

/-- A value into register `r`: a write to g0 is discarded (R71). -/
def writeReg (c : Ctx) (r : Reg) (v : Cap) : Ctx :=
  match regKey c.cwp r.toNat with
  | none => c
  | some k => writeKey c k v

/-- An integer result into register `r`, untagged (R71). -/
def writeInt (c : Ctx) (r : Reg) (v : Word) : Ctx := writeReg c r (intCap v)

/-- The keys of the registers named, without g0. -/
def regKeys (c : Ctx) (rs : List Reg) : List Nat := rs.filterMap fun r => regKey c.cwp r.toNat

/-! ### Control words -/

/-- The address of the next instruction. -/
def pcOf (c : Ctx) : Nat := capCursor c.pcc

/-- The PCC with CURSOR `x`; its tag is cleared outside the PCC's bounds (R19). -/
def pccAt (c : Ctx) (x : Nat) : Cap := capMove c.pcc x

/-- MODE of R96 as a word. -/
def modeWord (m : Mode) : Word := wd (m.asid.toNat * 2 ^ 16 + b2n m.xlat)

/-- MODE in force for fetch, translation and execution (R98). -/
def effMode (c : Ctx) : Mode := match c.shadow with
  | some (m, _) => m
  | none => c.mode

/-- MODE for the fetch of the next word that joins the prefetch queue: the words of the shadow are fetched under the
old MODE, those after it under the new one (R98). -/
def fetchMode (c : Ctx) : Mode := match c.shadow with
  | some (m, n) => if c.queue.length < n then m else c.mode
  | none => c.mode

/-- Words that the prefetch queue may hold after a fetch under `fetchMode`: four, or those of the shadow. -/
def fetchRoom (c : Ctx) : Nat := match c.shadow with
  | some (_, n) => if c.queue.length < n then n else 4
  | none => 4

/-- STATUS of R95. -/
def statusWord (c : Ctx) : Word := wd (b2n c.ove * 4 + b2n c.dze * 2 + b2n c.em)

/-- CXID of R97. -/
def cxidWord (cx : CtxId) (c : Ctx) : Word :=
  wd (b2n c.super * 2 ^ 13 + b2n c.cust * 2 ^ 12 + cx.toNat)

/-- The alert word of R115, also FE6. -/
def alertWord (c : Ctx) : Word :=
  wd (c.repCnt.toNat * 2 ^ 32 + b2n c.repAct * 2 ^ 31 + (flagsWord c.flags).toNat)

/-- Initiator class of a context (R192): OU, OS, CU, CS are 0 to 3. -/
def ctxClass (c : Ctx) : InitClass := BitVec.ofNat 4 (b2n c.cust * 2 + b2n c.super)

/-- The shadow of R98 after one more executed instruction. -/
def shadowNext (c : Ctx) : Option (Mode × Nat) :=
  match c.shadow with
  | some (m, n + 2) => some (m, n + 1)
  | _ => none

/-- A READY context without a word to execute is STALLED (R45). -/
def starve (c : Ctx) : Ctx :=
  if c.queue = [] ∧ c.run = .ready then { c with run := .stalled, why := some .fetch } else c

/-- A context that goes on at `pcc`, its queue flushed (R49). -/
def flushTo (c : Ctx) (pcc : Cap) : Ctx := starve { c with pcc := pcc, queue := [], fetch := none, walk := none }

/-- A context that goes on at `pcc` with the words `q` of its queue, or without them where they, or a fetch under way
behind them, are for another address (R49). -/
def goTo (c : Ctx) (pcc : Cap) (q : List PqWord) : Ctx :=
  let next := match q with
    | w :: _ => some w.va
    | [] => c.queue.getLast?.map (·.next)
  if next = some (capCursor pcc) then starve { c with pcc := pcc, queue := q } else flushTo c pcc

/-- A context past an executed instruction: the shadow counts down, a repeat counts (R106), and the PCC
moves on unless a repeat rests on the instruction. -/
def retire (c : Ctx) : Ctx :=
  let c := { c with shadow := shadowNext c }
  if c.repAct then
    if c.repCnt.toNat ≤ 1 then
      goTo { c with repAct := false, repCnt := 0, repU := false } (pccAt c (pcOf c + 4)) c.queue.tail
    else { c with repCnt := c.repCnt - 1 }
  else goTo c (pccAt c (pcOf c + 4)) c.queue.tail

end Sys2Proof.Machine
end

