-- ==== Sys2Proof/Machine/Ops.lean ====
section
/-! DEFINITION. The shared operations of the machine: registers of the pages, bells (R109), interrupt bits
and page rings (R447, R448), RAS events (R430 to R436), injection points (R437), the delivery of a fault
(R143 to R146), and the issue of an instruction by a context (R45, R47, R105 to R108). -/

namespace Sys2Proof.Machine
open Sys2Proof

/-! ### What software may not write (R246, R271, R288) -/

/-- Some of these bytes, as (first, length), lie in [pa, pa + n). -/
def usesHit (pa n : Nat) (xs : List (Nat × Nat)) : Bool := xs.any fun x => decide (x.1 < pa + n) && decide (pa < x.1 + x.2)

/-- The descriptors of a ring whose bytes [pa, pa + n) meets are noted as torn. -/
def tornRing (pa n : Nat) (x : EngRing) : EngRing :=
  { x with descs := x.descs.map fun d => { d with torn := d.torn || usesHit pa n d.uses } }

/-- Software has written [pa, pa + n): what the engines use of these bytes is noted as torn in the descriptors that they have
accepted, in the open batch and in the loaded dictionaries. -/
def softWrite (s : State) (pa n : Nat) : State :=
  { s with
    rings := s.rings.map fun r => (r.1, tornRing pa n r.2)
    batch := s.batch.map fun b => { b with torn := b.torn || usesHit pa n b.uses }
    dicts := s.dicts.map fun x => (x.1, { x.2 with torn := x.2.torn || usesHit pa n x.2.uses }) }

/-- The outcome of every meaning. -/
abbrev Out := Host.Outcome State Fault Refusal

/-! ### Page registers -/

/-- The value held in the register at a register-space offset. -/
def rget (s : State) (off : Nat) : Word :=
  match smFind s.regs off with
  | some v => v
  | none => regReset off

/-- The register at `off` holding `v`. -/
def rset (s : State) (off : Nat) (v : Word) : State :=
  { s with regs := smSet (regReset off) s.regs off v }

/-- Field [hi:lo] of a register. -/
def rfld (s : State) (off hi lo : Nat) : Nat := fld (rget s off) hi lo

/-- Bit `i` of a register. -/
def rbit (s : State) (off i : Nat) : Bool := bitAt (rget s off) i

/-- A field of a register set by hardware. -/
def rsetF (s : State) (off hi lo x : Nat) : State := rset s off (setFld (rget s off) hi lo x)

/-- A bit of a register set by hardware. -/
def rsetB (s : State) (off i : Nat) (b : Bool) : State := rsetF s off i i (b2n b)

/-- A saturating counter field counts `n`. -/
def rsatF (s : State) (off hi lo n : Nat) : State :=
  rsetF s off hi lo (Nat.min (rfld s off hi lo + n) (2 ^ (hi + 1 - lo) - 1))

/-- A wrapping counter field counts one. -/
def rincF (s : State) (off hi lo : Nat) : State := rsetF s off hi lo (rfld s off hi lo + 1)

/-! ### Contexts and cores -/

/-- Context `cx` of the device (R109). -/
def ctxAt (s : State) (cx : CtxId) : Ctx := smGet Ctx.empty s.ctxs cx.toNat

/-- Context `cx` replaced. -/
def setCtx (s : State) (cx : CtxId) (c : Ctx) : State :=
  { s with ctxs := smSet Ctx.empty s.ctxs cx.toNat c }

/-- Core number of a context. -/
def coreOf (cx : CtxId) : CoreId := (cx >>> 4).truncate 7
/-- Context number on its core. -/
def cxLow (cx : CtxId) : BitVec 4 := cx.truncate 4
/-- Context `i` of a core. -/
def cxOn (core : CoreId) (i : BitVec 4) : CtxId := BitVec.ofNat 11 (core.toNat * 16 + i.toNat)
/-- Cluster of a core. -/
def clusterOf (core : CoreId) : Nat := core.toNat / 16

def coreAt (s : State) (k : CoreId) : Core := smGet Core.idle s.cores k.toNat
def setCore (s : State) (k : CoreId) (c : Core) : State :=
  { s with cores := smSet Core.idle s.cores k.toNat c }

def clusterAt (s : State) (k : Nat) : Cluster := smGet Cluster.idle s.clusters k
def setCluster (s : State) (k : Nat) (c : Cluster) : State :=
  { s with clusters := smSet Cluster.idle s.clusters k c }

/-- Register-space offset of a register of the page of a core. -/
def corePg (k : CoreId) (off : Nat) : Nat := pg .core k.toNat + off

/-! ### Bells (R109) -/

/-- The wait of a context ends: it retires its wait instruction, with `r` in the destination of a
WAITBT, and is READY. -/
def finishWait (s : State) (cx : CtxId) (r : Word) : State :=
  let c := ctxAt s cx
  let c := match c.wait with
    | some (.bellTime _ _ rd) => writeInt c (BitVec.ofNat 5 rd) r
    | _ => c
  setCtx s cx (retire { c with run := .ready, wait := none })

/-- A ring of bell `b`: it wakes the earliest waiter, or sets the pending bit. A stopped device leaves each context as it is
(R404), and the ring then sets the pending bit whoever waits (log 91). -/
def ringBell (s : State) (b : Nat) : State :=
  match if s.power.halted then [] else smGet [] s.bellQ b with
  | [] => { s with bells := setIns b s.bells }
  | w :: ws => finishWait { s with bellQ := smSet [] s.bellQ b ws } (BitVec.ofNat 11 w) 1

/-- Context `cx` leaves every waiter queue (R109). -/
def leaveBells (s : State) (cx : CtxId) : State :=
  { s with bellQ := (s.bellQ.map fun p => (p.1, p.2.filter (· ≠ cx.toNat))).filter fun p => decide (p.2 ≠ []) }

/-- A bell is pending. -/
def bellPending (s : State) (b : Nat) : Bool := setHas b s.bells

/-- R111: bell `b` may be named by a context of this world and level. -/
def bellAllowed (s : State) (c : Ctx) (b : Nat) : Bool :=
  decide (b < 4096) &&
    (c.cust ||
      (!rbit s (pg .car + 0x100 + b / 64 * 8) (b % 64) &&
        (c.super || rbit s (pg .car + 0x300 + b / 64 * 8) (b % 64))))

/-! ### Reads that wait at the port windows (R369, R387) -/

/-- The name of an initiator among them: SOURCE, class and colour. -/
def initKey (cls : InitClass) (colour : BitVec 4) (src : Nat) : Nat :=
  src % 2 ^ 20 + 2 ^ 20 * (cls.toNat + 16 * colour.toNat)
def keyCls (key : Nat) : Nat := key / 2 ^ 20 % 16
def keySrc (key : Nat) : Nat := key % 2 ^ 20

/-- The name of a request that serves no one. -/
abbrev noOne : Nat := 2 ^ 64

/-- A request given up: it stays outstanding, and its answer serves no one. -/
def giveUp (mine : Nat → Bool) (r : OutRead) : OutRead := if mine r.src then { r with src := noOne } else r

/-- Every window read of the initiators that `mine` names is given up, and what was answered is dropped. -/
def abandon (mine : Nat → Bool) (s : State) : State :=
  let io (x : PortIo) : PortIo :=
    { x with
      reads := x.reads.map (giveUp mine)
      waitR := x.waitR.filter fun r => !mine r.src
      dones := x.dones.filter fun d => !mine d.src }
  { s with
    hosts := s.hosts.map fun p => (p.1, { p.2 with io := io p.2.io })
    meds := s.meds.map fun p => (p.1, { p.2 with io := io p.2.io })
    peers := s.peers.map fun p => (p.1, { p.2 with
      reads := p.2.reads.map (giveUp mine)
      waitR := p.2.waitR.filter fun r => !mine r.src
      dones := p.2.dones.filter fun d => !mine d.src }) }

/-- The reads of context `cx`. -/
def cxReads (cx : CtxId) (key : Nat) : Bool := decide (keyCls key < 4) && decide (keySrc key % 2048 = cx.toNat) && decide (key < noOne)

/-! ### Interrupt bits and page rings (R447, R448) -/

/-- MGMT.INT_RAW AND MGMT.ALERTEN is non-zero: ALERT_N is low (R381). -/
def alertLow (s : State) : Bool :=
  decide (rget s (pg .mgmt + 0x018) &&& rget s (pg .mgmt + 0x120) ≠ 0)

/-- ALERT_N fell between two states: an enabled IBI is raised, with the payload 0x01 (R376). -/
def ibiIfFell (before after : State) : State :=
  if !alertLow before && alertLow after && after.ibiEn then { after with ibiOut := after.ibiOut ++ [0x01] }
  else after

/-- Page `k` instance `i` rings its bell (R448): RINGS counts. -/
def pageRing (s : State) (k : PageKind) (i : Nat) : State :=
  let bell := rget s (pg k i + 0x028)
  if bitAt bell 12 then ringBell (rincF s (pg k i + 0x010) 63 32) (fld bell 8 0) else s

/-- Hardware sets INT_RAW bit `b` of a page, and the page rings when the bit is enabled. -/
def intSet (s : State) (k : PageKind) (i b : Nat) : State :=
  let s1 := rsetB s (pg k i + 0x018) b true
  let s1 := if k = .mgmt then ibiIfFell s s1 else s1
  if rbit s1 (pg k i + 0x020) b then pageRing s1 k i else s1

/-- Causes that come in one cycle give one ring (R448): INT_RAW bits `bs` of a page, set before this, ring once. -/
def ringBits (s : State) (k : PageKind) (i : Nat) (bs : List Nat) : State :=
  if bs.any (rbit s (pg k i + 0x020)) then pageRing s k i else s

/-- INT_RAW bit `b` of a page. -/
def intRaw (s : State) (k : PageKind) (i b : Nat) : Bool := rbit s (pg k i + 0x018) b

/-! ### RAS (R430 to R436) -/

/-- An event of class `cls` in the page at register-space offset `page`: its counter counts, and LAST
keeps the most severe event since it was read (R433). -/
def rasCount (s : State) (cls page : Nat) : State :=
  let s := rsatF s (pg .ras + 0x100) (16 * cls + 15) (16 * cls) 1
  let off := pg .ras + 0x108
  let now := cls * 2 ^ 56 + page / 0x1000 % 0x1000 * 2 ^ 32
  let held := rget s off
  if s.lastRead || decide (held = 0) || decide (fld held 57 56 < cls) then
    { rset s off (wd now) with lastRead := false }
  else s

/-- A record for the persistent log (R435): queued if the queue of 16 has room, one slot kept for a
FATAL record; otherwise counted in PLOGSUP (R436). -/
def logPush (s : State) (cls typ code page : Nat) : State :=
  let e : LogEnt :=
    { tb := s.tb, cls := cls, typ := typ, code := code, page := page
      eaddr := rget s (page + 0x030), einfo := rget s (page + 0x038), iraw := rget s (page + 0x018) }
  if s.plogQ.length < (if cls = 3 then 16 else 15) then { s with plogQ := s.plogQ ++ [e] }
  else intSet (rsatF s (pg .ras + 0x168) 15 0 1) .ras 0 3

/-- An error event of R431: counted, and logged when R436 says so. `typ` is the TYPE of R435. -/
def rasEvent (s : State) (cls typ code page : Nat) : State :=
  let s := rasCount s cls page
  if cls = 0 then s
  else if cls = 1 then
    let ms := s.tb.toNat / 100000 + 1
    if smGet 0 s.plogMs page = ms then s
    else logPush { s with plogMs := smSet 0 s.plogMs page ms } cls typ code page
  else logPush s cls typ code page

/-! ### Injection points (R437) -/

/-- The page's injection point `p` is armed. -/
def injArmed (s : State) (k : PageKind) (i p : Nat) : Bool :=
  let v := rget s (pg k i + 0x040)
  decide (fld v 15 8 = p) && decide (p ≠ 0) && (decide (fld v 5 4 = 1) || decide (fld v 5 4 = 2))

/-- An armed point fires: FIRED is set, and MODE 1 returns to off. -/
def injFire (s : State) (k : PageKind) (i : Nat) : State :=
  let off := pg k i + 0x040
  let v := rget s off
  rset s off (if fld v 5 4 = 1 then 2 else v ||| 2)

/-- Log TYPE of an event that injection did or did not provoke. -/
def injTyp (b : Bool) : Nat := if b then 2 else 1

/-! ### Service contexts (R141) -/

/-- The effective service context of a core: `cust` the world, `flt` fault or entry. -/
def svcEff (s : State) (core : CoreId) (cust flt : Bool) : Option (BitVec 4) :=
  let v := rget s (corePg core 0x118)
  let lo := (if cust then 16 else 0) + (if flt then 0 else 8)
  let i : BitVec 4 := BitVec.ofNat 4 (fld v (lo + 3) lo)
  let c := ctxAt s (cxOn core i)
  if bitAt v (lo + 4) && decide (c.run ≠ .empty) && c.super && (c.cust == cust) then some i else none

/-- The fault queue of a world. -/
def faultQ (k : Core) (cust : Bool) : List FaultRec := if cust then k.faultC else k.faultO
def setFaultQ (k : Core) (cust : Bool) (q : List FaultRec) : Core :=
  if cust then { k with faultC := q } else { k with faultO := q }

/-- The call queue of a world's entry context. -/
def callQ (k : Core) (cust : Bool) : List CallEnt := if cust then k.callC else k.callO
def setCallQ (k : Core) (cust : Bool) (q : List CallEnt) : Core :=
  if cust then { k with callC := q } else { k with callO := q }

/-- The fault bell of a world on a core (R142). -/
def faultBell (core : CoreId) (cust : Bool) : Nat := 1792 + 2 * core.toNat + b2n cust

/-! ### Fault delivery (R143 to R146) -/

/-- The fault word FE0 of R146. -/
def faultWord (cx : CtxId) (c : Ctx) (f : FaultInfo) (esc : Bool) : Word :=
  wd (f.reg * 2 ^ 32 + b2n c.super * 2 ^ 29 + b2n c.cust * 2 ^ 28 + (cxLow cx).toNat * 2 ^ 24 +
    b2n f.fetch * 2 ^ 20 + b2n esc * 2 ^ 19 + f.xkind * 2 ^ 16 + f.level * 2 ^ 14 + f.stage * 2 ^ 12 +
    f.half % 4 * 2 ^ 10 + b2n f.split * 2 ^ 9 + b2n c.shadow.isSome * 2 ^ 8 + f.kind)

/-- The record of a fault of context `cx` (R146). -/
def faultRec (s : State) (cx : CtxId) (c : Ctx) (f : FaultInfo) (word : Word) (esc : Bool) : FaultRec :=
  { cx := cxLow cx
    fe0 := faultWord cx c f esc
    fe1 := f.addr.getD (wd (pcOf c))
    fe2 := c.pcc
    fe3 := wd f.detail
    fe4 := word
    fe5 := s.tb
    fe6 := alertWord c
    fe7 := modeWord c.mode }

/-- A context stops at its next instruction, a pending mode change applied first (R98), its prefetched words
dropped. -/
def parkCtx (c : Ctx) : Ctx :=
  { c with
    run := .parked, shadow := none, queue := [], fetch := none, why := none, wait := none, walk := none, repU := false
    age := 0 }

/-- The core's exclusive issue ends if `cx` holds it (R108). -/
def dropHold (s : State) (cx : CtxId) : State :=
  let k := coreAt s (coreOf cx)
  if k.hold = some (cxLow cx) then setCore s (coreOf cx) { k with hold := none } else s

/-- CORE[c.k].LOST records an undeliverable fault (R144). -/
def recordLost (s : State) (cx : CtxId) (c : Ctx) (kind : Nat) : State :=
  let core := coreOf cx
  let off := corePg core 0x120
  if intRaw s .core core.toNat 0 then rsetB s off 30 true
  else
    let s := rset s off (wd (b2n (rbit s off 30) * 2 ^ 30 + b2n c.cust * 2 ^ 12 + (cxLow cx).toNat * 2 ^ 8 + kind))
    intSet s .core core.toNat 0

/-- Taking a fault: the context parks at the faulting instruction, its record joins the fault queue of its
world's fault context, or is escalated, or is recorded in LOST, and the fault bell is rung. -/
def deliver (s : State) (cx : CtxId) (f : FaultInfo) (word : Word) : State :=
  let c := ctxAt s cx
  let core := coreOf cx
  let s := dropHold (setCtx s cx (parkCtx c)) cx
  let toQ (esc : Bool) (w : Bool) : State :=
    let k := coreAt s core
    ringBell (setCore s core (setFaultQ k w (faultQ k w ++ [faultRec s cx c f word esc]))) (faultBell core w)
  match svcEff s core c.cust true with
  | some x => if x ≠ cxLow cx then toQ false c.cust else esc toQ s core c
  | none => esc toQ s core c
where
  /-- Escalation of R144. -/
  esc (toQ : Bool → Bool → State) (s : State) (core : CoreId) (c : Ctx) : State :=
    if !c.cust && (svcEff s core true true).isSome then toQ true true
    else recordLost s cx c f.kind

/-! ### Issue -/

/-- What executing an instruction comes to. -/
inductive Res where
  /-- executed: the context goes on to the next instruction -/
  | done (s : State)
  /-- executed: the context goes on at this address under its PCC, by a branch that the fetch unit predicts (R49) -/
  | branch (s : State) (x : Nat)
  /-- executed: the context goes on at this PCC, its queue flushed -/
  | jump (s : State) (pcc : Cap)
  /-- executed, and the context does not go on by itself -/
  | hold (s : State)
  /-- faults -/
  | fault (s : State) (f : FaultInfo)
  /-- not executed: the context is STALLED until the awaited item arrives (R45) -/
  | stall (s : State) (w : Why)
  deriving Repr

/-- What is known of an instruction before it executes: its word, whether the encoding faults ILLEGAL, the
repeat prefixes that permit it (R107: 0 none, 1 REPI, 2 both), and the registers it reads and writes. -/
structure Ins where
  word   : BitVec 32
  bad    : Bool := false
  rep    : Nat := 0
  /-- an instruction of ops 0x30 to 0x33 -/
  fp     : Bool := false
  reads  : List Reg := []
  writes : List Reg := []
  deriving Repr

/-- The plain fault of a kind, at the instruction. -/
def flt (kind : Nat) : FaultInfo := { kind := kind }

/-- Priority of a context (R67). -/
def prioOf (s : State) (cx : CtxId) : Nat :=
  let i := (cxLow cx).toNat
  rfld s (corePg (coreOf cx) 0x108) (2 * i + 1) (2 * i)

/-- The core is in deterministic mode (R60). -/
def detOn (s : State) (k : CoreId) : Bool := rbit s (corePg k 0x100) 1

/-- READY, with a decoded instruction (R45). -/
def decoded (c : Ctx) : Bool := decide (c.run = .ready) && decide (c.queue ≠ [])

/-- The contexts of a core. -/
def ctxsOn (core : CoreId) : List CtxId := (List.range 16).map fun i => cxOn core (BitVec.ofNat 4 i)

/-- The other contexts of the core that are READY with a decoded instruction. -/
def rivals (s : State) (cx : CtxId) : List CtxId :=
  (ctxsOn (coreOf cx)).filter fun x => decide (x ≠ cx) && decoded (ctxAt s x)

/-- Distance of a context after the last one selected at its priority (R47). -/
def turn (k : Core) (p : Nat) (x : CtxId) : Nat :=
  ((cxLow x).toNat + 31 - smGet 15 k.lastSel p) % 16

/-- The context of the present slot in deterministic mode (R60): CCLK cycles and the slots that issues have taken since the
last unit of TB, counted from the start of the mode. -/
def slotNow (s : State) (core : CoreId) : Nat :=
  let k := coreAt s core
  (s.cclk / 27720 + k.slot.toNat + k.issued) % 16

/-- Slots until that of a context, in deterministic mode (R60). -/
def slotTurn (s : State) (x : CtxId) : Nat := ((cxLow x).toNat + 16 - slotNow s (coreOf x)) % 16

/-- Cycles that an issue by `cx` takes: its own, and in deterministic mode the idle slots before it (R60). -/
def slotsTaken (s : State) (cx : CtxId) : Nat := if detOn s (coreOf cx) then slotTurn s cx + 1 else 1

/-- The context that step 1 of R47 selects: the lowest-numbered READY one that has gone 256 cycles unselected. -/
def agedOn (s : State) (core : CoreId) : Option CtxId :=
  (ctxsOn core).find? fun x => decoded (ctxAt s x) && decide (256 ≤ (ctxAt s x).age)

/-- The context that goes first, whatever the priorities (R47): the one that SCHEDULER_AGEING has selected, or the one
that has aged. -/
def dueOn (s : State) (core : CoreId) : Option CtxId :=
  match (coreAt s core).sel with
  | some x => if decoded (ctxAt s (cxOn core x)) then some (cxOn core x) else agedOn s core
  | none => agedOn s core

/-- The scheduler may select `cx` (R47, R60, R108): no rival comes before it. In deterministic mode the slots of
contexts that are not READY pass idle. -/
def selectable (s : State) (cx : CtxId) : Bool :=
  let k := coreAt s (coreOf cx)
  let p := prioOf s cx
  let rs := rivals s cx
  match k.hold with
  | some h => decide (h = cxLow cx)
  | none =>
    if detOn s (coreOf cx) then rs.all fun r => decide (slotTurn s cx < slotTurn s r)
    else match dueOn s (coreOf cx) with
      | some x => decide (x = cx)
      | none =>
        rs.all (fun r => decide (prioOf s r < p) ||
          (decide (prioOf s r = p) &&
            (if (ctxAt s cx).yielded then false
             else (ctxAt s r).yielded || decide (turn k p cx < turn k p r))))

/-- Bookkeeping of a selection: rotation, ageing, YIELD, the cycles and slots taken, and the core's count of
issued instructions (R47, R60, R112, R453). -/
def countIssue (s : State) (cx : CtxId) : State :=
  let core := coreOf cx
  let p := prioOf s cx
  let rs := rivals s cx
  let s := ((ctxsOn core).filter (· ≠ cx)).foldl (fun s x =>
    let c := ctxAt s x
    if c.run = .empty then s
    else
      setCtx s x { c with
        age := if rs.contains x then Nat.min (c.age + 1) 256 else c.age
        yielded := c.yielded && decide (prioOf s x ≠ p) }) s
  let k := coreAt s core
  let s := setCore s core { k with
    lastSel := smSet 15 k.lastSel p (cxLow cx).toNat, sel := none, issued := k.issued + slotsTaken s cx }
  let s := setCtx s cx { ctxAt s cx with age := 0 }
  rset s (corePg core 0x130) (rget s (corePg core 0x130) + 1)

/-- A bank register with bad parity is read (R432). -/
def parityFault (s : State) (cx : CtxId) (r : Nat) (fp inj : Bool) : State :=
  let core := coreOf cx
  let base := corePg core 0
  let s := if intRaw s .core core.toNat 1 then s
    else rset (rset s (base + 0x030) (wd (pcOf (ctxAt s cx)))) (base + 0x038) (wd (b2n fp * 32 + r))
  rasEvent (intSet s .core core.toNat 1) 1 (injTyp inj) 0 base

/-- The register the parity check stops at: the first one read with bad parity, or the first one read when
the core's injection point 2 is armed (R438). -/
def badRead (s : State) (cx : CtxId) (c : Ctx) (rs : List Reg) : Option (Reg × Bool) :=
  let rs := rs.filter fun r => decide (r ≠ 0)
  match rs with
  | [] => none
  | r0 :: _ =>
    if injArmed s .core (coreOf cx).toNat 2 then some (r0, true)
    else (rs.find? fun r => (regKeys c [r]).any fun k => setHas k c.badPar).map fun r => (r, false)

/-- Keys that an outstanding load or an FP operation with an integer destination will write (R51, R135). -/
def pendingKeys (c : Ctx) : List Nat :=
  c.loads.map (·.dest) ++ (c.fp.filter (·.idst)).map (·.dest)

/-- Injection point 2 of a core fires on register `r`: it keeps bad parity until it is written (R432). -/
def injBank (s : State) (cx : CtxId) (r : Reg) (inj : Bool) : State :=
  if inj then
    let c := ctxAt s cx
    setCtx (injFire s .core (coreOf cx).toNat) cx
      { c with badPar := (regKeys c [r]).foldl (fun l k => setIns k l) c.badPar }
  else s

/-- A compare whose flags are still due (R131, R135). -/
def flagsDue (c : Ctx) : Bool := c.fp.any fun o => decide (o.kind = .cmp) || decide (o.kind = .cmps)

/-- What keeps the operands of an instruction from being available (R45, R51, R78). -/
def operandWait (c : Ctx) (i : Ins) : Option Why :=
  if flagsDue c && !i.fp then some .fp
  else if (regKeys c (i.reads ++ i.writes)).any fun k => (pendingKeys c).contains k then some .load
  else match c.div with
    | some (k, _) => if (regKeys c i.reads).contains k then some .divider else none
    | none => none

/-- A free value, and the counter past it. -/
def freeNat (s : State) : Nat × State := (s.free, { s with free := s.free + 1 })

/-- The end of an executed instruction. -/
def finish (cx : CtxId) (i : Ins) : Res → State
  | .done s => setCtx (countIssue s cx) cx (retire (ctxAt (countIssue s cx) cx))
  | .branch s x =>
    let s := countIssue s cx
    let c := ctxAt s cx
    setCtx s cx (goTo { c with shadow := shadowNext c } (pccAt c x) c.queue.tail)
  | .jump s pcc =>
    let s := countIssue s cx
    let c := ctxAt s cx
    setCtx s cx (flushTo { c with shadow := shadowNext c } pcc)
  | .hold s => countIssue s cx
  | .fault s f => deliver (countIssue s cx) cx f (i.word.zeroExtend 64)
  | .stall s w => setCtx s cx { ctxAt s cx with run := .stalled, why := some w, age := 0 }

/-- The fault of the instruction fetch at the PCC of a context, if the check of R20 fails. -/
def fetchCheck (c : Ctx) : Option FaultInfo :=
  (capCheck c.pcc [rExec] true false (pcOf c) 4).map fun k => { kind := k, fetch := true }

/-- The recorded word at the head of the prefetch queue (R48): the fault recorded with it, or whether it
is the word issued. An empty queue lets the instruction bring its own word (assumption log 3). -/
def headWord (c : Ctx) (w : BitVec 32) : Except FaultInfo Bool :=
  match c.queue with
  | [] => match fetchCheck c with
    | some f => .error f
    | none => .ok true
  | q :: _ => match q.bad with
    | some f => .error f
    | none => .ok (decide (q.word = w))

/-- A context can issue: READY, or STALLED for want of a word only; with an empty queue no fetch is under way, so that
the instruction brings its own word (assumption log 3). -/
def mayIssue (c : Ctx) : Bool :=
  if c.queue = [] then
    c.fetch.isNone && c.walk.isNone && (decide (c.run = .ready) || (decide (c.run = .stalled) && decide (c.why = some .fetch)))
  else decide (c.run = .ready)

/-- The core issues from `cx` now. -/
def issues (s : State) (cx : CtxId) : Bool := mayIssue (ctxAt s cx) && !s.power.halted && selectable s cx

/-- An instruction that the repeat in force does not permit (R107). -/
def repBad (c : Ctx) (i : Ins) : Bool := c.repAct && decide (i.rep < (if c.repU then 2 else 1))

/-- What an instruction comes to: its encoding, its operands and their parity are met before its operation. Those of
an instruction of ops 0x30 to 0x33 meet a pending trap first, so its `body` checks the encoding (R136). -/
def attempt (cx : CtxId) (i : Ins) (body : Ctx → State → Res) (c : Ctx) (s : State) : Res :=
  if !i.fp && (i.bad || repBad c i) then .fault s (flt kIllegal)
  else match operandWait c i with
    | some w => .stall s w
    | none => match badRead s cx c i.reads with
      | some (r, inj) =>
        let s := parityFault s cx r.toNat false inj
        .fault (injBank s cx r inj) (flt kPoison)
      | none => body c s

/-- The context as its instruction issues. -/
def issuing (c : Ctx) : Ctx := { c with run := .ready, why := none, yielded := false }

/-- A STALLED context whose awaited item arrived is READY, if it holds a word (R45); a stopped device leaves each context
as it is (R404). -/
def wake (s : State) (cx : CtxId) : State :=
  let c := ctxAt s cx
  if c.run = .stalled ∧ s.power.halted = false then setCtx s cx (starve { c with run := .ready, why := none }) else s

/-- As `wake`, when the context waits for `w`. -/
def wakeIf (s : State) (cx : CtxId) (w : Why) : State :=
  if (ctxAt s cx).why = some w then wake s cx else s

/-- The contexts of a core that wait for another one to settle go on (R64). -/
def wakeSettle (s : State) (core : CoreId) : State := (ctxsOn core).foldl (fun s x => wakeIf s x .settle) s

/-- A supervisor parks a context at an instruction boundary (step 1 of R64): a wait is withdrawn, a pending
mode change applied, a repeat kept. -/
def parkOp (s : State) (cx : CtxId) : State :=
  let c := ctxAt s cx
  if c.run = .parked then s
  else dropHold (setCtx (abandon (cxReads cx) (leaveBells s cx)) cx (parkCtx c)) cx

/-- The repeat holding the core ends with its last iteration (R108); a context that was to park then parks (R64). -/
def releaseHold (cx : CtxId) (s : State) : State :=
  if (ctxAt s cx).repU then s
  else if (ctxAt s cx).parkDue then
    let s := parkOp (dropHold s cx) cx
    wakeSettle (setCtx s cx { ctxAt s cx with parkDue := false }) (coreOf cx)
  else dropHold s cx

/-- Issue of an instruction by context `cx`: `body` is its operation on the context's registers. -/
def issue (cx : CtxId) (i : Ins) (body : Ctx → State → Res) (s : State) : Out :=
  if issues s cx = false then .next s
  else match headWord (ctxAt s cx) i.word with
    | .error f =>
      let (n, s) := freeNat s
      .next (releaseHold cx (deliver (countIssue s cx) cx f ((Config.freeWord n).truncate 32 |>.zeroExtend 64)))
    | .ok false => .next s
    | .ok true =>
      let c := issuing (ctxAt s cx)
      .next (releaseHold cx (finish cx i (attempt cx i body c (setCtx s cx c))))

/-! ### Parking, emptying and killing (R46, R64, R148) -/

/-- A context is in the middle of a REPU. -/
def inRepu (c : Ctx) : Bool := c.repAct && c.repU

/-- A context parks, once a REPU in progress on it has ended (step 1 of R64). -/
def parkSoon (s : State) (x : CtxId) : State :=
  let c := ctxAt s x
  if inRepu c && decide (c.run ≠ .parked) then setCtx s x { c with parkDue := true } else parkOp s x

/-- The context's record and calls leave the queues of its core, and a caller held by an entry context is
marked gone (R148, R153). -/
def leaveQueues (s : State) (cx : CtxId) : State :=
  let core := coreOf cx
  let k := coreAt s core
  let i := cxLow cx
  let s := setCore s core
    { k with
      faultO := k.faultO.filter (·.cx ≠ i)
      faultC := k.faultC.filter (·.cx ≠ i)
      callO := k.callO.filter (·.cx ≠ i)
      callC := k.callC.filter (·.cx ≠ i) }
  (List.range 16).foldl (fun s x =>
    let y := cxOn core (BitVec.ofNat 4 x)
    let c := ctxAt s y
    match c.held with
    | some (some e) => if e.cx = i then setCtx s y { c with held := some none } else s
    | _ => s) s

/-- The island port sets of a context are cleared, and its queued operations keep no owner (R119). -/
def clearPorts (s : State) (cx : CtxId) : State :=
  { s with
    ports := s.ports.filter fun p => decide (p.1 % 2048 ≠ cx.toNat)
    islQ := s.islQ.map fun p => (p.1, p.2.map fun o => if o.src = .cx cx.toNat then { o with src := .gone } else o) }

end Sys2Proof.Machine
end

