-- ==== Sys2Proof/Machine/Branch.lean ====
section
/-! DEFINITION. Branches (R81 to R83). -/

namespace Sys2Proof.Machine
open Sys2Proof

/-- The fault of a branch target that fails R83: FE1 is the target, REG the register that names it. -/
def targetFault (t : Cap) (reg : Reg) (k : Nat) : FaultInfo :=
  { kind := k, addr := some (wd (capCursor t)), reg := reg.toNat }

/-- A taken branch to `t` (R33, R83). -/
def branchTo (s : State) (t : Cap) (reg : Reg) : Res :=
  match targetCheck t with
  | some k => .fault s (targetFault t reg k)
  | none => .jump s (targetPcc t)

/-- The address a signed number of instructions away from the branch (R82). -/
def relTarget (c : Ctx) {w : Nat} (imm : BitVec w) : Nat := (BitVec.ofNat 64 (pcOf c) + sextImm imm * 4).toNat

/-- A taken branch to address `x` under the PCC, checked against the PCC's own bounds (R83). -/
def branchRel (s : State) (c : Ctx) (x : Nat) : Res :=
  match targetCheckAt c.pcc x with
  | some k => .fault s { kind := k, addr := some (wd x) }
  | none => .branch s x

/-- B (R82). -/
def execB (cx : CtxId) (imm : BitVec 26) (s : State) : Out :=
  issue cx { word := wJump 0x08 imm } (fun c s => branchRel s c (relTarget c imm)) s

/-- Bcc (R82): condition code 15 faults ILLEGAL. -/
def execBcc (cx : CtxId) (cond : Cond) (imm : BitVec 22) (s : State) : Out :=
  issue cx { word := wBranch 0x09 cond imm, bad := decide (cond = 15) }
    (fun c s => if condTaken cond c.flags then branchRel s c (relTarget c imm) else .done s) s

/-- CBcc (R82): SUBS g0, rs1, rs2, then the condition on the new flags. A target that faults leaves the flags
unchanged (R83). -/
def execCbcc (cx : CtxId) (cond : Cond) (rs1 rs2 : Reg) (imm : BitVec 11) (s : State) : Out :=
  issue cx { word := wCmpBranch 0x0A cond rs1 rs2 imm, bad := decide (cond = 15), reads := [rs1, rs2] }
    (fun c s =>
      let f := addFlags (readInt c rs1) (~~~ readInt c rs2) true
      let s' := setCtx s cx { c with flags := f }
      if condTaken cond f then
        match branchRel s c (relTarget c imm) with
        | .branch _ x => .branch s' x
        | r => r
      else .done s') s

/-- JMP (R82). -/
def execJmp (cx : CtxId) (rs1 : Reg) (s : State) : Out :=
  issue cx { word := wReg 0x0B 0 rs1 0 0, reads := [rs1] } (fun c s => branchTo s (readReg c rs1) rs1) s

/-- JMPL (R82): rd is the PCC with CURSOR at the next instruction. -/
def execJmpl (cx : CtxId) (rd rs1 : Reg) (s : State) : Out :=
  issue cx { word := wReg 0x0B rd rs1 0 1, reads := [rs1], writes := [rd] }
    (fun c s =>
      match branchTo s (readReg c rs1) rs1 with
      | .jump s pcc => .jump (setCtx s cx (writeReg c rd (pccAt c (pcOf c + 4)))) pcc
      | r => r) s

end Sys2Proof.Machine
end

