-- ==== Sys2Proof/Machine/FpArith.lean ====
section
/-! DEFINITION. IEEE 754-2019 arithmetic as R126 to R138 choose it: exact values in integers, rounded once.
Flags are a number: NV 16, DZ 8, OF 4, UF 2, NX 1 (R125). -/

namespace Sys2Proof.Machine
open Sys2Proof

/-- A format: precision and largest exponent. -/
structure FpFmt where
  prec : Nat
  emax : Nat
  deriving DecidableEq, Repr

def fmtS : FpFmt := { prec := 24, emax := 127 }
def fmtD : FpFmt := { prec := 53, emax := 1023 }
def fmtOf (dbl : Bool) : FpFmt := if dbl then fmtD else fmtS

/-- A result with the flags it raises. -/
structure FpRes where
  val   : Nat
  flags : Nat
  deriving DecidableEq, Repr

/-- A decoded operand; a finite value is (−1)^sign · m · 2^e. -/
inductive FpVal where
  | nan (sig : Bool)
  | inf (sign : Bool)
  | fin (sign : Bool) (m : Nat) (e : Int)
  deriving DecidableEq, Repr

/-- Width of the fraction field. -/
def fracBits (f : FpFmt) : Nat := f.prec - 1
/-- Width of the exponent field. -/
def expBits (f : FpFmt) : Nat := if f.prec = 53 then 11 else 8
/-- The least exponent of a quantum: that of the subnormals. -/
def minQ (f : FpFmt) : Int := 2 - (f.emax : Int) - f.prec

/-- Bits of a sign, exponent field and fraction. -/
def fpPack (f : FpFmt) (sign : Bool) (ex frac : Nat) : Nat :=
  b2n sign * 2 ^ (fracBits f + expBits f) + ex * 2 ^ fracBits f + frac

def fpInf (f : FpFmt) (sign : Bool) : Nat := fpPack f sign (2 ^ expBits f - 1) 0
def fpMax (f : FpFmt) (sign : Bool) : Nat := fpPack f sign (2 ^ expBits f - 2) (2 ^ fracBits f - 1)
def fpZero (f : FpFmt) (sign : Bool) : Nat := fpPack f sign 0 0
/-- The canonical NaN of R128. -/
def fpNan (f : FpFmt) : Nat := fpPack f false (2 ^ expBits f - 1) (2 ^ (fracBits f - 1))

/-- An operand of the format; with `ftz` a subnormal is a zero of its sign (R129). -/
def fpUnpack (f : FpFmt) (ftz : Bool) (v : Nat) : FpVal :=
  let frac := v % 2 ^ fracBits f
  let ex := v / 2 ^ fracBits f % 2 ^ expBits f
  let sign := v.testBit (fracBits f + expBits f)
  if ex = 2 ^ expBits f - 1 then
    if frac = 0 then .inf sign else .nan (!frac.testBit (fracBits f - 1))
  else if ex = 0 then (if ftz then .fin sign 0 (minQ f) else .fin sign frac (minQ f))
  else .fin sign (frac + 2 ^ fracBits f) (minQ f + (ex - 1 : Nat))

/-- m / 2^k rounded under mode `rm` (R125) with this sign, and whether it was inexact. -/
def roundShift (rm : Nat) (sign : Bool) (m k : Nat) : Nat × Bool :=
  let q := m / 2 ^ k
  let r := m % 2 ^ k
  let up := match rm with
    | 0 => decide (2 ^ k < 2 * r) || (decide (2 * r = 2 ^ k) && decide (r ≠ 0) && decide (q % 2 = 1))
    | 2 => sign && decide (r ≠ 0)
    | 3 => !sign && decide (r ≠ 0)
    | 4 => decide (r ≠ 0) && decide (2 ^ k ≤ 2 * r)
    | _ => false
  (if up then q + 1 else q, decide (r ≠ 0))

/-- m · 2^e to the quantum 2^q. -/
def roundAt (rm : Nat) (sign : Bool) (m : Nat) (e q : Int) : Nat × Bool :=
  if q ≤ e then (m * 2 ^ (e - q).toNat, false) else roundShift rm sign m (q - e).toNat

/-- (−1)^sign · m · 2^e rounded once to the format (R127). A value with discarded bits carries them as a
sticky low bit below the rounding position. -/
def fpRound (f : FpFmt) (rm : Nat) (ftz : Bool) (sign : Bool) (m : Nat) (e : Int) : FpRes :=
  if m = 0 then { val := fpZero f sign, flags := 0 }
  else
    let top : Int := e + (bitLen m : Int) - 1
    let emin : Int := 1 - (f.emax : Int)
    let q0 : Int := top - (fracBits f : Int)
    let q : Int := max q0 (minQ f)
    let r := roundAt rm sign m e q
    let tiny := decide (top < emin) &&
      !(decide (top = emin - 1) && decide ((roundAt rm sign m e q0).1 = 2 ^ f.prec))
    if tiny && ftz then { val := fpZero f sign, flags := 3 }
    else
      let carry := decide (r.1 = 2 ^ f.prec)
      let mant := if carry then 2 ^ fracBits f else r.1
      let q := if carry then q + 1 else q
      if decide (2 ^ fracBits f ≤ mant) && decide ((f.emax : Int) < q + (fracBits f : Int)) then
        let toInf := match rm with
          | 1 => false
          | 2 => sign
          | 3 => !sign
          | _ => true
        { val := if toInf then fpInf f sign else fpMax f sign, flags := 5 }
      else
        let fl := (if r.2 then 1 else 0) + (if tiny && r.2 then 2 else 0)
        if mant < 2 ^ fracBits f then { val := fpPack f sign 0 mant, flags := fl }
        else { val := fpPack f sign ((q - minQ f).toNat + 1) (mant - 2 ^ fracBits f), flags := fl }

/-- A NaN result; NV when a signalling operand took part. -/
def nanRes (f : FpFmt) (nv : Bool) : FpRes := { val := fpNan f, flags := if nv then 16 else 0 }

def isNan : FpVal → Bool
  | .nan _ => true
  | _ => false

def isSnan : FpVal → Bool
  | .nan s => s
  | _ => false

/-- The exact sum of two finite values as an integer multiple of 2^e. -/
def exactSum (s1 : Bool) (m1 : Nat) (e1 : Int) (s2 : Bool) (m2 : Nat) (e2 : Int) : Int × Int :=
  let e := min e1 e2
  let a : Int := (m1 * 2 ^ (e1 - e).toNat : Nat)
  let b : Int := (m2 * 2 ^ (e2 - e).toNat : Nat)
  ((if s1 then -a else a) + (if s2 then -b else b), e)

/-- A sum, an exact zero taking the sign IEEE 754 gives it. -/
def roundSum (f : FpFmt) (rm : Nat) (ftz : Bool) (s1 : Bool) (m1 : Nat) (e1 : Int) (s2 : Bool) (m2 : Nat)
    (e2 : Int) : FpRes :=
  let t := exactSum s1 m1 e1 s2 m2 e2
  if t.1 = 0 then
    { val := fpZero f (if s1 = s2 then s1 else decide (rm = 2)), flags := 0 }
  else fpRound f rm ftz (decide (t.1 < 0)) t.1.natAbs t.2

/-- Negation of an operand. -/
def fpNegV : FpVal → FpVal
  | .nan s => .nan s
  | .inf s => .inf !s
  | .fin s m e => .fin (!s) m e

/-- a + b. -/
def fpAdd (f : FpFmt) (rm : Nat) (ftz : Bool) (a b : FpVal) : FpRes :=
  match a, b with
  | .nan x, _ => nanRes f (x || isSnan b)
  | _, .nan y => nanRes f y
  | .inf s, .inf t => if s = t then { val := fpInf f s, flags := 0 } else nanRes f true
  | .inf s, _ => { val := fpInf f s, flags := 0 }
  | _, .inf t => { val := fpInf f t, flags := 0 }
  | .fin s1 m1 e1, .fin s2 m2 e2 => roundSum f rm ftz s1 m1 e1 s2 m2 e2

/-- a × b. -/
def fpMul (f : FpFmt) (rm : Nat) (ftz : Bool) (a b : FpVal) : FpRes :=
  match a, b with
  | .nan x, _ => nanRes f (x || isSnan b)
  | _, .nan y => nanRes f y
  | .inf s, .inf t => { val := fpInf f (s != t), flags := 0 }
  | .inf s, .fin t m _ => if m = 0 then nanRes f true else { val := fpInf f (s != t), flags := 0 }
  | .fin t m _, .inf s => if m = 0 then nanRes f true else { val := fpInf f (s != t), flags := 0 }
  | .fin s1 m1 e1, .fin s2 m2 e2 => fpRound f rm ftz (s1 != s2) (m1 * m2) (e1 + e2)

/-- a ÷ b. -/
def fpDiv (f : FpFmt) (rm : Nat) (ftz : Bool) (a b : FpVal) : FpRes :=
  match a, b with
  | .nan x, _ => nanRes f (x || isSnan b)
  | _, .nan y => nanRes f y
  | .inf _, .inf _ => nanRes f true
  | .inf s, .fin t _ _ => { val := fpInf f (s != t), flags := 0 }
  | .fin s _ _, .inf t => { val := fpZero f (s != t), flags := 0 }
  | .fin s1 m1 e1, .fin s2 m2 e2 =>
    if m2 = 0 then
      if m1 = 0 then nanRes f true else { val := fpInf f (s1 != s2), flags := 8 }
    else
      let k := 64 + bitLen m2
      let q := m1 * 2 ^ k / m2
      let sticky := if m1 * 2 ^ k % m2 = 0 then 0 else 1
      fpRound f rm ftz (s1 != s2) (q * 2 + sticky) (e1 - e2 - (k : Int) - 1)

/-- The integer square root, found bit by bit from bit `n` down. -/
def isqrtAux (m : Nat) : Nat → Nat → Nat
  | 0, r => r
  | n + 1, r => isqrtAux m n (if (r + 2 ^ n) * (r + 2 ^ n) ≤ m then r + 2 ^ n else r)

/-- √a. -/
def fpSqrt (f : FpFmt) (rm : Nat) (ftz : Bool) (a : FpVal) : FpRes :=
  match a with
  | .nan x => nanRes f x
  | .inf s => if s then nanRes f true else { val := fpInf f false, flags := 0 }
  | .fin s m e =>
    if m = 0 then { val := fpZero f s, flags := 0 }
    else if s then nanRes f true
    else
      let k : Nat := if e % 2 = 0 then 120 else 121
      let m' := m * 2 ^ k
      let r := isqrtAux m' 100 0
      let sticky := if r * r = m' then 0 else 1
      fpRound f rm ftz false (r * 2 + sticky) ((e - (k : Int)) / 2 - 1)

/-- a × b + c, rounded once; `neg` gives its negation (R132). -/
def fpFma (f : FpFmt) (rm : Nat) (ftz neg : Bool) (a b c : FpVal) : FpRes :=
  let flip (r : FpRes) : FpRes := if neg then { r with val := r.val ^^^ 2 ^ (fracBits f + expBits f) } else r
  let rm' := if neg then (match rm with | 2 => 3 | 3 => 2 | x => x) else rm
  let sn := isSnan a || isSnan b || isSnan c
  let infZero : Bool := match a, b with
    | .inf _, .fin _ 0 _ => true
    | .fin _ 0 _, .inf _ => true
    | _, _ => false
  if infZero then nanRes f true
  else if isNan a || isNan b || isNan c then nanRes f sn
  else
    let sgn : FpVal → Bool
      | .inf s => s
      | .fin s _ _ => s
      | .nan _ => false
    let ps := sgn a != sgn b
    match a, b, c with
    | .fin _ m1 e1, .fin _ m2 e2, .fin s3 m3 e3 =>
      let t := exactSum ps (m1 * m2) (e1 + e2) s3 m3 e3
      if t.1 = 0 then flip { val := fpZero f (if ps = s3 then ps else decide (rm = 2)), flags := 0 }
      else flip (fpRound f rm' ftz (decide (t.1 < 0)) t.1.natAbs t.2)
    | .fin _ _ _, .fin _ _ _, c => flip { val := fpInf f (sgn c), flags := 0 }
    | _, _, .inf s3 => if ps = s3 then flip { val := fpInf f s3, flags := 0 } else nanRes f true
    | _, _, _ => flip { val := fpInf f ps, flags := 0 }

/-- Comparison; none is unordered. -/
def fpCmp (a b : FpVal) : Option Ordering :=
  match a, b with
  | .nan _, _ => none
  | _, .nan _ => none
  | .inf s, .inf t => some (if s = t then .eq else if s then .lt else .gt)
  | .inf s, _ => some (if s then .lt else .gt)
  | _, .inf t => some (if t then .gt else .lt)
  | .fin s1 m1 e1, .fin s2 m2 e2 =>
    let t := (exactSum s1 m1 e1 (!s2) m2 e2).1
    some (if t = 0 then .eq else if t < 0 then .lt else .gt)

/-- The sign bit of a value. -/
def fpSign : FpVal → Bool
  | .inf s => s
  | .fin s _ _ => s
  | .nan _ => false

/-- FMIN and FMAX (R128): minimumNumber and maximumNumber, −0 below +0. -/
def fpMinMax (f : FpFmt) (isMax : Bool) (va vb : Nat) (a b : FpVal) : FpRes :=
  let nv := if isSnan a || isSnan b then 16 else 0
  if isNan a && isNan b then { val := fpNan f, flags := nv }
  else if isNan a then { val := vb, flags := nv }
  else if isNan b then { val := va, flags := nv }
  else
    let aLess := match fpCmp a b with
      | some .lt => true
      | some .eq => fpSign a && !fpSign b
      | _ => false
    { val := if aLess != isMax then va else vb, flags := nv }

/-- A conversion between the formats. -/
def fpCvt (f : FpFmt) (rm : Nat) (ftz : Bool) (a : FpVal) : FpRes :=
  match a with
  | .nan x => nanRes f x
  | .inf s => { val := fpInf f s, flags := 0 }
  | .fin s m e => fpRound f rm ftz s m e

/-- A conversion to int64 or uint64 (R133). -/
def fpToInt (uns : Bool) (rm : Nat) (a : FpVal) : FpRes :=
  let big : Nat := if uns then 2 ^ 64 - 1 else 2 ^ 63 - 1
  let small : Nat := if uns then 0 else 2 ^ 63
  match a with
  | .nan _ => { val := big, flags := 16 }
  | .inf s => { val := if s then small else big, flags := 16 }
  | .fin s m e =>
    if m ≠ 0 ∧ 70 < e + (bitLen m : Int) then { val := if s then small else big, flags := 16 }
    else
      let r := roundAt rm s m e 0
      let fl := if r.2 then 1 else 0
      if s then
        if uns then (if r.1 = 0 then { val := 0, flags := fl } else { val := 0, flags := 16 })
        else if r.1 ≤ 2 ^ 63 then { val := (2 ^ 64 - r.1) % 2 ^ 64, flags := fl } else { val := small, flags := 16 }
      else if r.1 ≤ big then { val := r.1, flags := fl } else { val := big, flags := 16 }

/-- A conversion from int64 or uint64. -/
def fpFromInt (f : FpFmt) (uns : Bool) (rm : Nat) (w : Word) : FpRes :=
  let v : Int := if uns then (w.toNat : Int) else w.toInt
  fpRound f rm false (decide (v < 0)) v.natAbs 0

end Sys2Proof.Machine
end

