-- ==== Sys2Proof/Machine/Fp.lean ====
section
/-! DEFINITION. Floating-point instructions that touch no memory (R121 to R137): the lending of the bank, the
issue of an operation, its completion, and the traps. -/

namespace Sys2Proof.Machine
open Sys2Proof

/-- FP state of a context: in the bank if it is the holder, else in its side-store entry (R122). -/
def fpOf (s : State) (cx : CtxId) : FpState :=
  let k := coreAt s (coreOf cx)
  if k.holder = some (cxLow cx) then k.fpBank else smGet FpState.zero k.side (cxLow cx).toNat

/-- FP state of a context replaced, where it is held. -/
def setFp (s : State) (cx : CtxId) (f : FpState) : State :=
  let k := coreAt s (coreOf cx)
  setCore s (coreOf cx)
    (if k.holder = some (cxLow cx) then { k with fpBank := f }
     else { k with side := smSet FpState.zero k.side (cxLow cx).toNat f })

/-- FP register `r`. -/
def fReg (f : FpState) (r : Reg) : Word := smGet 0 f.regs r.toNat

/-- A value into FP register `r`: its parity is then good. -/
def setFReg (f : FpState) (r : Nat) (v : Word) : FpState :=
  { f with regs := smSet 0 f.regs r v, badPar := setDel r f.badPar }

/-- The key of an FP register as the destination of a load. -/
def fKey (r : Reg) : Nat := 256 + r.toNat

/-- The dynamic rounding mode, TEN and TPEND of FCSR (R125). -/
def fcsrRm (f : FpState) : Nat := fld f.fcsr 12 10
def fcsrFtz (f : FpState) : Bool := bitAt f.fcsr 13
def fcsrTpend (f : FpState) : Nat := fld f.fcsr 20 16

/-- The rounding mode of an instruction (R126). -/
def rmOf (f : FpState) (rm : BitVec 3) : Nat := if rm = 7 then fcsrRm f else rm.toNat

/-- A reserved rounding field. -/
def rmBad (rm : BitVec 3) : Bool := decide (rm = 5) || decide (rm = 6)

/-- An FP register that an outstanding operation or load will write (R135). -/
def fPending (c : Ctx) (r : Reg) : Bool :=
  (c.fp.any fun o => !o.idst && decide (o.dest = r.toNat) && decide (o.kind ≠ .cmp) && decide (o.kind ≠ .cmps)) ||
    c.loads.any fun l => decide (l.dest = fKey r)

/-- The registers an FP instruction names, and whether its encoding faults ILLEGAL. -/
structure FIns where
  bad     : Bool := false
  /-- FBAR: every outstanding operation completes before the trap is looked for (R137) -/
  bar     : Bool := false
  freads  : List Reg := []
  fwrites : List Reg := []
  reads   : List Reg := []
  writes  : List Reg := []
  deriving Repr

/-- The FP register read with bad parity, or that injection point 2 of the core fires on. -/
def fBadRead (s : State) (cx : CtxId) (f : FpState) (rs : List Reg) : Option (Reg × Bool) :=
  match rs with
  | [] => none
  | r0 :: _ =>
    if injArmed s .core (coreOf cx).toNat 2 then some (r0, true)
    else (rs.find? fun r => setHas r.toNat f.badPar).map fun r => (r, false)

/-- The delivery of a pending trap clears TPEND (R136). -/
def trapFault (s : State) (cx : CtxId) (f : FpState) : Res :=
  .fault (setFp s cx { f with fcsr := setFld f.fcsr 20 16 0 })
    { kind := kFp, addr := some f.taddr, detail := fcsrTpend f }

/-- Issue of an instruction of ops 0x30 to 0x33: the bank is lent first (R122), a pending trap precedes every
fault of the instruction (R136), then the encoding, which no repeat prefix permits (R135), the operands and the parity
are met. -/
def fpIssue (cx : CtxId) (word : BitVec 32) (i : FIns) (body : Ctx → FpState → State → Res) (s : State) : Out :=
  issue cx { word := word, fp := true }
    (fun c s =>
      let core := coreOf cx
      let k := coreAt s core
      if k.holder ≠ some (cxLow cx) then
        .stall (if k.want.contains (cxLow cx) then s else setCore s core { k with want := k.want ++ [cxLow cx] }) .fpSwap
      else if i.bar && decide (c.fp ≠ []) then .stall s .fp
      else
        let f := k.fpBank
        if fcsrTpend f ≠ 0 then trapFault s cx f
        else if i.bad || c.repAct then .fault s (flt kIllegal)
        else if (i.freads ++ i.fwrites).any (fPending c) then .stall s .fp
        else match operandWait c { word := word, fp := true, reads := i.reads, writes := i.writes } with
          | some w => .stall s w
          | none => match badRead s cx c i.reads with
            | some (r, inj) => .fault (injBank (parityFault s cx r.toNat false inj) cx r inj) (flt kPoison)
            | none => match fBadRead s cx f i.freads with
              | some (r, inj) =>
                let s := parityFault s cx r.toNat true inj
                let s := if inj then setFp (injFire s .core core.toNat) cx { f with badPar := setIns r.toNat f.badPar } else s
                .fault s (flt kPoison)
              | none => body c f s) s

/-- An FP operation leaves for the FP unit; its result arrives with FP_RESULT. -/
def fpStart (cx : CtxId) (o : FpOp) (c : Ctx) (s : State) : Res :=
  .done (setCtx s cx { c with fp := c.fp ++ [{ o with
    addr := wd (pcOf c)
    seq := (rget s (corePg (coreOf cx) 0x130)).toNat }] })

/-- The format word of a binary32 or binary64 operand. -/
def fOperand (dbl : Bool) (v : Word) : Nat := if dbl then v.toNat else v.toNat % 2 ^ 32

/-- What an operation writes, and the FP flags it raises (R127 to R133); the integer flags for a compare. -/
def fpCompute (o : FpOp) : FpRes × Option Flags :=
  let f := fmtOf o.dbl
  let va := fOperand o.dbl o.a
  let vb := fOperand o.dbl o.b
  let a := fpUnpack f o.ftz va
  let b := fpUnpack f o.ftz vb
  let c := fpUnpack f o.ftz (fOperand o.dbl o.c)
  match o.kind with
  | .add => (fpAdd f o.rm o.ftz a b, none)
  | .sub => (fpAdd f o.rm o.ftz a (fpNegV b), none)
  | .mul => (fpMul f o.rm o.ftz a b, none)
  | .div => (fpDiv f o.rm o.ftz a b, none)
  | .sqrt => (fpSqrt f o.rm o.ftz a, none)
  | .min => (fpMinMax f false (flushed f o.ftz va) (flushed f o.ftz vb) a b, none)
  | .max => (fpMinMax f true (flushed f o.ftz va) (flushed f o.ftz vb) a b, none)
  | .cmp => ({ val := 0, flags := if isSnan a || isSnan b then 16 else 0 }, some (cmpFlags (fpCmp a b)))
  | .cmps => ({ val := 0, flags := if isNan a || isNan b then 16 else 0 }, some (cmpFlags (fpCmp a b)))
  | .madd => (fpFma f o.rm o.ftz false a b c, none)
  | .msub => (fpFma f o.rm o.ftz false a b (fpNegV c), none)
  | .nmadd => (fpFma f o.rm o.ftz true a b c, none)
  | .nmsub => (fpFma f o.rm o.ftz true a b (fpNegV c), none)
  | .cvtsd => (fpCvt fmtS o.rm o.ftz (fpUnpack fmtD o.ftz o.a.toNat), none)
  | .cvtds => (fpCvt fmtD o.rm o.ftz (fpUnpack fmtS o.ftz (o.a.toNat % 2 ^ 32)), none)
  | .cvtl uns => (fpToInt uns o.rm a, none)
  | .cvtf uns => (fpFromInt f uns o.rm o.a, none)
  | .mvif => ({ val := o.a.toNat, flags := 0 }, none)
  | .mvfi => ({ val := o.a.toNat, flags := 0 }, none)
where
  /-- A subnormal operand as FTZ reads it (R129). -/
  flushed (f : FpFmt) (ftz : Bool) (v : Nat) : Nat :=
    if ftz && decide (v / 2 ^ fracBits f % 2 ^ expBits f = 0) then
      fpZero f (v.testBit (fracBits f + expBits f)) else v

/-- The flags of a completed operation in FCSR, and the trap causes it sets (R136). -/
def fpAccrue (f : FpState) (o : FpOp) (fl : Nat) : FpState :=
  let cause := fl &&& fld f.fcsr 9 5
  let fcsr := f.fcsr ||| wd fl ||| wd (cause * 2 ^ 16)
  if cause = 0 then { f with fcsr := fcsr }
  else if decide (fcsrTpend f = 0) || decide (o.seq < f.tseq) then
    { f with fcsr := fcsr, taddr := o.addr, tseq := o.seq }
  else { f with fcsr := fcsr }

/-- An FP operation's result, flags and traps land in the context (R135, R136). -/
def fpLand (s : State) (cx : CtxId) (o : FpOp) : State :=
  let c := ctxAt s cx
  let (r, fl) := fpCompute o
  let f := fpAccrue (fpOf s cx) o r.flags
  let (c, f) := match fl with
    | some fl => ({ c with flags := fl }, f)
    | none =>
      if o.idst then (if o.dest = 0 then c else writeKey c o.dest (intCap (wd r.val)), f)
      else (c, setFReg f o.dest (wd r.val))
  setFp (setCtx s cx c) cx f

/-- A compare, whose flags land in program order, since its latency is fixed (R135). -/
def isCompare (o : FpOp) : Bool := decide (o.kind = .cmp) || decide (o.kind = .cmps)

/-- FP_RESULT (R135, R136): outstanding operation `idx` completes; a compare does so after those issued before it. -/
def execFpResult (cx : CtxId) (idx : Nat) (s : State) : Out :=
  let c := ctxAt s cx
  match c.fp[idx]? with
  | none => .next s
  | some o =>
    if isCompare o && (c.fp.take idx).any isCompare then .next s
    else
      let s := fpLand (setCtx s cx { c with fp := c.fp.eraseIdx idx }) cx o
      .next (wakeIf (wakeIf s cx .fp) cx .load)

/-- The bank lent to `w` (R122): the holder's state is saved, and its own loaded. -/
def lendBank (s : State) (core : CoreId) (w : BitVec 4) (rest : List (BitVec 4)) : State :=
  let k := coreAt s core
  let side := match k.holder with
    | none => k.side
    | some h => smSet FpState.zero k.side h.toNat k.fpBank
  setCore s core
    { k with
      fpBank := smGet FpState.zero side w.toNat
      side := smSet FpState.zero side w.toNat FpState.zero
      holder := some w
      want := rest }

/-- The holder of the bank has an operation or an FP load outstanding. -/
def bankBusy (s : State) (core : CoreId) : Bool :=
  match (coreAt s core).holder with
  | none => false
  | some h =>
    let c := ctxAt s (cxOn core h)
    decide (c.fp ≠ []) || c.loads.any fun l => decide (256 ≤ l.dest)

/-- FP_BANK_SWAP (R122): once the holder's operations and FP loads have completed, the bank is lent to the context that
asked first. -/
def execFpBankSwap (core : CoreId) (s : State) : Out :=
  match (coreAt s core).want with
  | [] => .next s
  | w :: ws => if bankBusy s core then .next s else .next (wakeIf (lendBank s core w ws) (cxOn core w) .fpSwap)

/-! ### Arithmetic (op 0x30) -/

/-- Word of op 0x30. -/
def fWord (p : Bool) (rm : Nat) (func : Nat) (rd rs1 rs2 : Reg) : BitVec 32 :=
  wReg 0x30 rd rs1 rs2 (b2n p * 0x400 + rm * 0x80 + func)

/-- The operation as it leaves for the FP unit. -/
def fOp (kind : FpKind) (dbl : Bool) (rm : Nat) (f : FpState) (a b c : Word) (dest : Nat) (idst : Bool) : FpOp :=
  { kind := kind, dbl := dbl, rm := rm, a := a, b := b, c := c, dest := dest, idst := idst, addr := 0,
    ftz := fcsrFtz f, seq := 0 }

/-- An arithmetic instruction of two FP registers. -/
def fArith (cx : CtxId) (kind : FpKind) (func : Nat) (p : Bool) (rm : BitVec 3) (rd rs1 rs2 : Reg) (s : State) : Out :=
  fpIssue cx (fWord p rm.toNat func rd rs1 rs2) { bad := rmBad rm, freads := [rs1, rs2], fwrites := [rd] }
    (fun c f s => fpStart cx (fOp kind p (rmOf f rm) f (fReg f rs1) (fReg f rs2) 0 rd.toNat false) c s) s

/-- FADD (R130). -/
def execFadd (cx : CtxId) (p : Bool) (rm : BitVec 3) (rd rs1 rs2 : Reg) (s : State) : Out :=
  fArith cx .add 0 p rm rd rs1 rs2 s

/-- FSUB (R130). -/
def execFsub (cx : CtxId) (p : Bool) (rm : BitVec 3) (rd rs1 rs2 : Reg) (s : State) : Out :=
  fArith cx .sub 1 p rm rd rs1 rs2 s

/-- FMUL (R130). -/
def execFmul (cx : CtxId) (p : Bool) (rm : BitVec 3) (rd rs1 rs2 : Reg) (s : State) : Out :=
  fArith cx .mul 2 p rm rd rs1 rs2 s

/-- FDIV (R130). -/
def execFdiv (cx : CtxId) (p : Bool) (rm : BitVec 3) (rd rs1 rs2 : Reg) (s : State) : Out :=
  fArith cx .div 3 p rm rd rs1 rs2 s

/-- FSQRT (R130): rs2 is 0. -/
def execFsqrt (cx : CtxId) (p : Bool) (rm : BitVec 3) (rd rs1 : Reg) (s : State) : Out :=
  fpIssue cx (fWord p rm.toNat 4 rd rs1 0) { bad := rmBad rm, freads := [rs1], fwrites := [rd] }
    (fun c f s => fpStart cx (fOp .sqrt p (rmOf f rm) f (fReg f rs1) 0 0 rd.toNat false) c s) s

/-- FMIN (R128). -/
def execFmin (cx : CtxId) (p : Bool) (rd rs1 rs2 : Reg) (s : State) : Out := fArith cx .min 5 p 0 rd rs1 rs2 s

/-- FMAX (R128). -/
def execFmax (cx : CtxId) (p : Bool) (rd rs1 rs2 : Reg) (s : State) : Out := fArith cx .max 6 p 0 rd rs1 rs2 s

/-- A compare: it writes the integer flags alone (R131). -/
def fCompare (cx : CtxId) (kind : FpKind) (func : Nat) (p : Bool) (rs1 rs2 : Reg) (s : State) : Out :=
  fpIssue cx (fWord p 0 func 0 rs1 rs2) { freads := [rs1, rs2] }
    (fun c f s => fpStart cx (fOp kind p 0 f (fReg f rs1) (fReg f rs2) 0 0 false) c s) s

/-- FCMP (R131). -/
def execFcmp (cx : CtxId) (p : Bool) (rs1 rs2 : Reg) (s : State) : Out := fCompare cx .cmp 8 p rs1 rs2 s

/-- FCMPS (R131): a quiet NaN raises NV too. -/
def execFcmps (cx : CtxId) (p : Bool) (rs1 rs2 : Reg) (s : State) : Out := fCompare cx .cmps 9 p rs1 rs2 s

/-! ### Fused multiply-add (op 0x31, R132) -/

/-- A fused multiply-add. -/
def fFused (cx : CtxId) (kind : FpKind) (func : Nat) (p : Bool) (rm : BitVec 3) (rd rs1 rs2 rs3 : Reg) (s : State) : Out :=
  fpIssue cx (wReg 0x31 rd rs1 rs2 (rs3.toNat * 0x40 + b2n p * 0x20 + rm.toNat * 4 + func))
    { bad := rmBad rm, freads := [rs1, rs2, rs3], fwrites := [rd] }
    (fun c f s => fpStart cx (fOp kind p (rmOf f rm) f (fReg f rs1) (fReg f rs2) (fReg f rs3) rd.toNat false) c s) s

/-- FMADD: rs1 × rs2 + rs3. -/
def execFmadd (cx : CtxId) (p : Bool) (rm : BitVec 3) (rd rs1 rs2 rs3 : Reg) (s : State) : Out :=
  fFused cx .madd 0 p rm rd rs1 rs2 rs3 s

/-- FMSUB: rs1 × rs2 − rs3. -/
def execFmsub (cx : CtxId) (p : Bool) (rm : BitVec 3) (rd rs1 rs2 rs3 : Reg) (s : State) : Out :=
  fFused cx .msub 1 p rm rd rs1 rs2 rs3 s

/-- FNMADD: −(rs1 × rs2 + rs3). -/
def execFnmadd (cx : CtxId) (p : Bool) (rm : BitVec 3) (rd rs1 rs2 rs3 : Reg) (s : State) : Out :=
  fFused cx .nmadd 2 p rm rd rs1 rs2 rs3 s

/-- FNMSUB: −(rs1 × rs2 − rs3). -/
def execFnmsub (cx : CtxId) (p : Bool) (rm : BitVec 3) (rd rs1 rs2 rs3 : Reg) (s : State) : Out :=
  fFused cx .nmsub 3 p rm rd rs1 rs2 rs3 s

/-! ### Conversions and moves (op 0x32, R133) -/

/-- Word of op 0x32. -/
def cvWord (rm : Nat) (func : Nat) (rd rs1 : Reg) : BitVec 32 := wReg 0x32 rd rs1 0 (rm * 0x80 + func)

/-- A conversion from an FP register to an FP register. -/
def fConvFF (cx : CtxId) (kind : FpKind) (func : Nat) (rm : BitVec 3) (rd rs1 : Reg) (s : State) : Out :=
  fpIssue cx (cvWord rm.toNat func rd rs1) { bad := rmBad rm, freads := [rs1], fwrites := [rd] }
    (fun c f s => fpStart cx (fOp kind true (rmOf f rm) f (fReg f rs1) 0 0 rd.toNat false) c s) s

/-- A conversion to an integer register. -/
def fConvFI (cx : CtxId) (uns dbl : Bool) (func : Nat) (rm : BitVec 3) (rd rs1 : Reg) (s : State) : Out :=
  fpIssue cx (cvWord rm.toNat func rd rs1) { bad := rmBad rm, freads := [rs1], writes := [rd] }
    (fun c f s =>
      fpStart cx (fOp (.cvtl uns) dbl (rmOf f rm) f (fReg f rs1) 0 0 ((regKey c.cwp rd.toNat).getD 0) true) c s) s

/-- A conversion from an integer register. -/
def fConvIF (cx : CtxId) (uns dbl : Bool) (func : Nat) (rm : BitVec 3) (rd rs1 : Reg) (s : State) : Out :=
  fpIssue cx (cvWord rm.toNat func rd rs1) { bad := rmBad rm, reads := [rs1], fwrites := [rd] }
    (fun c f s => fpStart cx (fOp (.cvtf uns) dbl (rmOf f rm) f (readInt c rs1) 0 0 rd.toNat false) c s) s

/-- FCVTSD: binary64 to binary32. -/
def execFcvtsd (cx : CtxId) (rm : BitVec 3) (rd rs1 : Reg) (s : State) : Out := fConvFF cx .cvtsd 0 rm rd rs1 s

/-- FCVTDS: binary32 to binary64, exact. -/
def execFcvtds (cx : CtxId) (rd rs1 : Reg) (s : State) : Out := fConvFF cx .cvtds 1 0 rd rs1 s

/-- FCVTLD: binary64 to int64. -/
def execFcvtld (cx : CtxId) (rm : BitVec 3) (rd rs1 : Reg) (s : State) : Out := fConvFI cx false true 2 rm rd rs1 s

/-- FCVTLUD: binary64 to uint64. -/
def execFcvtlud (cx : CtxId) (rm : BitVec 3) (rd rs1 : Reg) (s : State) : Out := fConvFI cx true true 3 rm rd rs1 s

/-- FCVTDL: int64 to binary64. -/
def execFcvtdl (cx : CtxId) (rm : BitVec 3) (rd rs1 : Reg) (s : State) : Out := fConvIF cx false true 4 rm rd rs1 s

/-- FCVTDLU: uint64 to binary64. -/
def execFcvtdlu (cx : CtxId) (rm : BitVec 3) (rd rs1 : Reg) (s : State) : Out := fConvIF cx true true 5 rm rd rs1 s

/-- FCVTLS: binary32 to int64. -/
def execFcvtls (cx : CtxId) (rm : BitVec 3) (rd rs1 : Reg) (s : State) : Out := fConvFI cx false false 6 rm rd rs1 s

/-- FCVTLUS: binary32 to uint64. -/
def execFcvtlus (cx : CtxId) (rm : BitVec 3) (rd rs1 : Reg) (s : State) : Out := fConvFI cx true false 7 rm rd rs1 s

/-- FCVTSL: int64 to binary32. -/
def execFcvtsl (cx : CtxId) (rm : BitVec 3) (rd rs1 : Reg) (s : State) : Out := fConvIF cx false false 8 rm rd rs1 s

/-- FCVTSLU: uint64 to binary32. -/
def execFcvtslu (cx : CtxId) (rm : BitVec 3) (rd rs1 : Reg) (s : State) : Out := fConvIF cx true false 9 rm rd rs1 s

/-- FMVIF: the bits of an FP register. -/
def execFmvif (cx : CtxId) (rd rs1 : Reg) (s : State) : Out :=
  fpIssue cx (cvWord 0 16 rd rs1) { freads := [rs1], writes := [rd] }
    (fun c f s => .done (setCtx s cx (writeInt c rd (fReg f rs1)))) s

/-- FMVFI: the bits of an integer register. -/
def execFmvfi (cx : CtxId) (rd rs1 : Reg) (s : State) : Out :=
  fpIssue cx (cvWord 0 17 rd rs1) { reads := [rs1], fwrites := [rd] }
    (fun c f s => .done (setFp s cx (setFReg f rd.toNat (readInt c rs1)))) s

/-- FRCSR (R125). -/
def execFrcsr (cx : CtxId) (rd : Reg) (s : State) : Out :=
  fpIssue cx (cvWord 0 24 rd 0) { writes := [rd] } (fun c f s => .done (setCtx s cx (writeInt c rd f.fcsr))) s

/-- FWCSR (R125): TPEND keeps its value; a reserved RM faults ILLEGAL. -/
def execFwcsr (cx : CtxId) (rs1 : Reg) (s : State) : Out :=
  fpIssue cx (cvWord 0 25 0 rs1) { reads := [rs1] }
    (fun c f s =>
      let v := readInt c rs1
      if 5 ≤ fld v 12 10 then .fault s (flt kIllegal)
      else .done (setFp s cx { f with fcsr := (v &&& 0x3FFF) ||| (f.fcsr &&& 0x1F0000) })) s

/-- FBAR (R137): every outstanding FP operation completes first; the trap check is that of its issue. -/
def execFbar (cx : CtxId) (s : State) : Out := fpIssue cx (cvWord 0 31 0 0) { bar := true } (fun _ _ s => .done s) s

/-- Issue of an instruction of ops 0x30 to 0x33 whose encoding is not assigned (R72, R136). -/
def fpIllegal (cx : CtxId) (word : BitVec 32) (s : State) : Out :=
  fpIssue cx word { bad := true } (fun _ _ s => .fault s (flt kIllegal)) s

/-- R123: KILL zeroes the FP state of a context; the bank has no holder if it held it. -/
def fpClear (s : State) (cx : CtxId) : State :=
  let k := coreAt s (coreOf cx)
  let i := cxLow cx
  setCore s (coreOf cx)
    { k with
      fpBank := if k.holder = some i then FpState.zero else k.fpBank
      holder := if k.holder = some i then none else k.holder
      want := k.want.filter (· ≠ i)
      side := smSet FpState.zero k.side i.toNat FpState.zero }

end Sys2Proof.Machine
end

