-- ==== Sys2Proof/Machine/WordCode.lean ====
section
/-! DEFINITION. The 80-bit word code: encoding (R169, R170), syndromes (R171) and the decoder (R172). -/

namespace Sys2Proof.Machine
open Sys2Proof

/-- The check bits r[13:0] of R170 over the low `n` bits of `u`, from remainder `r`. -/
def checkBits (u : Nat) : Nat → Nat → Nat
  | 0, r => r
  | i + 1, r =>
    let fb := u.testBit i != r.testBit 13
    let r' := r * 2 % 0x4000
    checkBits u i (if fb then r' ^^^ 0x147D else r')

/-- The parity of the low `n` bits of `v`. -/
def parityN (n v : Nat) : Nat := popcount n v % 2

/-- The codeword of a data word and its metadata bit (R169). -/
def encodeWord (data : Word) (m : Bool) : BitVec 80 :=
  let u := data.toNat + b2n m * 2 ^ 64
  let v := u + checkBits u 65 0 * 2 ^ 65
  BitVec.ofNat 80 (v + parityN 79 v * 2 ^ 79)

/-- Multiplication by x in GF(2^7) with x^7 + x + 1 (R170). -/
def gf7x (a : Nat) : Nat := if a * 2 < 128 then a * 2 else (a * 2) ^^^ 0x83

/-- α^e. -/
def gf7pow : Nat → Nat
  | 0 => 1
  | e + 1 => gf7x (gf7pow e)

/-- The powers α^0 … α^126. -/
def gf7powers : Nat → Nat → List Nat
  | 0, _ => []
  | n + 1, a => a :: gf7powers n (gf7x a)

/-- Product in GF(2^7): `b` from its low bit on. -/
def gf7mulAux : Nat → Nat → Nat → Nat
  | 0, _, _ => 0
  | n + 1, a, b => (if b % 2 = 1 then a else 0) ^^^ gf7mulAux n (gf7x a) (b / 2)

def gf7mul (a b : Nat) : Nat := gf7mulAux 7 a b

/-- The code position p(b) of codeword bit b < 79 (R171). -/
def codePos (b : Nat) : Nat := if b < 64 then 14 + b else if b = 64 then 78 else b - 65

/-- The codeword bit of a code position. -/
def posBit (p : Nat) : Nat := if p < 14 then 65 + p else if p < 78 then p - 14 else 64

/-- The decoder's findings (R171, R172): outcome 0 no error, 1 corrected single, 2 corrected double,
3 uncorrectable. -/
structure Decoded where
  data : Word
  m    : Bool
  out  : Nat
  s1   : Nat
  s3   : Nat
  p    : Nat
  deriving DecidableEq, Repr

/-- The sum over the set bits of v[78:0] of α^(k·p). -/
def syndrome (k : Nat) (v : Nat) : Nat :=
  let ps := gf7powers 127 1
  (List.range 79).foldl (fun a b => if v.testBit b then a ^^^ ps.getD (k * codePos b % 127) 0 else a) 0

/-- The outcome of R172 and the codeword bits it corrects. -/
def classify (s1 s3 p : Nat) : Nat × List Nat :=
  let ps := gf7powers 127 1
  let log := ps.findIdx (· = s1)
  if s1 = 0 then
    if s3 = 0 then (if p = 0 then (0, []) else (1, [79])) else (3, [])
  else if s3 = gf7mul s1 (gf7mul s1 s1) then
    if log ≤ 78 then (if p = 1 then (1, [posBit log]) else (2, [posBit log, 79])) else (3, [])
  else if p = 0 then
    let inv1 := ps.getD ((127 - log) % 127) 0
    let c := gf7mul s3 inv1 ^^^ gf7mul s1 s1
    let roots := (List.range 79).filter fun q =>
      let x := ps.getD ((127 - q) % 127) 0
      decide (1 ^^^ gf7mul s1 x ^^^ gf7mul c (gf7mul x x) = 0)
    if roots.length = 2 then (2, roots.map posBit) else (3, [])
  else (3, [])

/-- The decoder of R172. -/
def decodeWord (cw : BitVec 80) : Decoded :=
  let v := cw.toNat
  let s1 := syndrome 1 v
  let s3 := syndrome 3 v
  let p := parityN 80 v
  let r := classify s1 s3 p
  let v' := r.2.foldl (fun a b => a ^^^ 2 ^ b) v
  { data := wd v', m := v'.testBit 64, out := r.1, s1 := s1, s3 := s3, p := p }

end Sys2Proof.Machine
end

