-- ==== Sys2Proof/Machine/Mem.lean ====
section
/-! DEFINITION. The physical address map (R191, R469), the arrays behind the memory targets with their
word code (R172 to R178), the records of their pages (R185, R187), and what each memory target does with
an access. -/

namespace Sys2Proof.Machine
open Sys2Proof

/-! ### The address map -/

/-- The target of a physical address (R191), with the offset inside it. -/
inductive Target where
  | dram (m : Nat)
  | spad (bank : Nat)
  | regs (off : Nat)
  | keep (off : Nat)
  | rom (off : Nat)
  | host (h off : Nat)
  | media (m off : Nat)
  | peer (p off : Nat)
  | nowhere
  deriving DecidableEq, Repr

abbrev spadBase : Nat := 0x8000000000
abbrev regBase : Nat := 0xC000000000
abbrev keepBase : Nat := 0xC100000000
abbrev romBase : Nat := 0xC200000000

/-- R191, and R177 for the home controller of a DRAM address. -/
def targetOf (pa : Nat) : Target :=
  if pa < 0x2000000000 then .dram (pa / 256 % 5)
  else if spadBase ≤ pa ∧ pa < spadBase + 0x4000000 then .spad ((pa - spadBase) / 0x40000)
  else if regBase ≤ pa ∧ pa < regBase + 0x1000000 then .regs (pa - regBase)
  else if keepBase ≤ pa ∧ pa < keepBase + 0x400000 then .keep (pa - keepBase)
  else if romBase ≤ pa ∧ pa < romBase + 0x40000 then .rom (pa - romBase)
  else if 0x10000000000 ≤ pa ∧ pa < 0x20000000000 then
    .host ((pa - 0x10000000000) / 0x8000000000) ((pa - 0x10000000000) % 0x8000000000)
  else if 0x20000000000 ≤ pa ∧ pa < 0x40000000000 then
    .media ((pa - 0x20000000000) / 0x8000000000) ((pa - 0x20000000000) % 0x8000000000)
  else if 0x40000000000 ≤ pa ∧ pa < 0x50000000000 then
    .peer ((pa - 0x40000000000) / 0x8000000000) ((pa - 0x40000000000) % 0x8000000000)
  else .nowhere

/-- The gate in front of a target. -/
def gateOf : Target → Nat
  | .dram m => m
  | .spad _ => 5
  | .regs _ => 6
  | .keep _ => 7
  | .rom _ => 8
  | .host h _ => 9 + h
  | .media m _ => 11 + m
  | .peer _ _ => 15
  | .nowhere => 16

/-- DRAM. -/
def isDram (pa : Nat) : Bool := decide (pa < 0x2000000000)
/-- Scratchpad. -/
def isSpad (pa : Nat) : Bool := decide (spadBase ≤ pa) && decide (pa < spadBase + 0x4000000)

/-! ### The arrays -/

/-- Numbers strictly rising from `lo` on. -/
def rising : Nat → List Nat → Bool
  | _, [] => true
  | lo, a :: t => decide (lo ≤ a) && rising (a + 1) t

/-- The canonical form of memory: every list strictly rising, and nothing listed that an unlisted address reads as. -/
def Memory.wf (m : Mem) : Bool := smWf (fun _ => 0) m.bytes && rising 0 m.metas && smWf (fun _ => 0) m.err

/-- Byte `a` of the arrays. -/
def memByte (m : Mem) (a : Nat) : Byte := smGet 0 m.bytes a

/-- `n` bytes from `a`. -/
def memBytes (m : Mem) (a : Nat) : Nat → List Byte
  | 0 => []
  | n + 1 => memByte m a :: memBytes m (a + 1) n

/-- Bytes written from `a` on. -/
def memPut (m : Mem) (a : Nat) : List Byte → Mem
  | [] => m
  | b :: bs => memPut { m with bytes := smSet 0 m.bytes a b } (a + 1) bs

/-- The metadata bit of word `w` (address / 8). -/
def memMeta (m : Mem) (w : Nat) : Bool := setHas w m.metas
def memSetMeta (m : Mem) (w : Nat) (b : Bool) : Mem := { m with metas := setPut w b m.metas }

/-- The data of word `w`. -/
def memWord (m : Mem) (w : Nat) : Word := wd (leNat (memBytes m (8 * w) 8))

/-- Word `w` holds a fresh codeword of this data and metadata. -/
def memSetWord (m : Mem) (w : Nat) (d : Word) (b : Bool) : Mem :=
  memSetMeta { memPut m (8 * w) (leBytes 8 d.toNat) with err := smErase w m.err } w b

/-- The stored codeword of word `w` (R169). -/
def storedWord (m : Mem) (w : Nat) : BitVec 80 := encodeWord (memWord m w) (memMeta m w) ^^^ smGet 0 m.err w

/-- The word indices of the granules that [a, a + n) touches. -/
def granWords (a n : Nat) : List Nat :=
  if n = 0 then [] else (List.range (((a + n - 1) / 16 - a / 16 + 1) * 2)).map (· + a / 16 * 2)

/-- The granule numbers that [a, a + n) touches. -/
def grans (a n : Nat) : List Nat :=
  if n = 0 then [] else (List.range ((a + n - 1) / 16 - a / 16 + 1)).map (· + a / 16)

/-- What a read of [a, a + n) returns, the codewords being sound. -/
def memRead (m : Mem) (a n : Nat) : RData :=
  { bytes := memBytes m a n
    tags := (grans a n).map fun g => memMeta m (2 * g)
    poison := (grans a n).map fun g => memMeta m (2 * g + 1) }

/-- Granule `g` poisoned, whichever granule bytes it holds. -/
def memPoison (m : Mem) (g : Nat) : Mem := memSetMeta (memSetMeta m (2 * g) false) (2 * g + 1) true

/-- The tag and poison of each granule of a write of `n` bytes at `a` (R26, R86): a granule that the write covers takes
the ones given; any other loses its tag and keeps its poison. -/
def memMarks (m : Mem) (a n : Nat) (tags poison : List Bool) : Mem :=
  ((grans a n).zipIdx).foldl (fun m p =>
    let g := p.1
    let t := tags.getD p.2 false
    let q := poison.getD p.2 false
    let full := decide (a ≤ 16 * g) && decide (16 * g + 16 ≤ a + n)
    memSetMeta (memSetMeta m (2 * g) (full && t)) (2 * g + 1) (q || (!full && memMeta m (2 * g + 1)))) m

/-- A write of bytes at `a` with its tag effect, as one update (R30). -/
def memWrite (m : Mem) (a : Nat) (bs : List Byte) (tags poison : List Bool) : Mem :=
  memMarks (memPut m a bs) a bs.length tags poison

/-! ### Word-code events (R173, R174, R185) -/

/-- The page that reports the word-code events of a target: MC[m] or SPAD. -/
def eccPage : Target → Option (PageKind × Nat)
  | .dram m => some (.mc, m)
  | .spad _ => some (.spad, 0)
  | _ => none

/-- Rank of the record a page of R185 holds, 0 when none: uncorrectable 3, bank not on 2, corrected 1. -/
def heldRank (s : State) (k : PageKind) (i : Nat) : Nat :=
  let v := rget s (pg k i + 0x038)
  if fld v 17 16 = 3 then (if intRaw s k i 1 then 3 else 0)
  else if fld v 23 21 = 7 then (if intRaw s k i 2 then 2 else 0)
  else if fld v 17 16 ≠ 0 then (if intRaw s k i 0 then 1 else 0)
  else 0

/-- The record of an event of rank `rank` (R185), and its INT_RAW bit; the page has not rung yet (R448). -/
def eccRecord (s : State) (k : PageKind) (i rank bit pa info : Nat) : State :=
  let s := if heldRank s k i < rank then
      rset (rset s (pg k i + 0x030) (wd pa)) (pg k i + 0x038) (wd info)
    else s
  rsetB s (pg k i + 0x018) bit true

/-- ERR_INFO of R185. -/
def eccInfo (src w : Nat) (d : Decoded) : Nat :=
  src * 2 ^ 21 + w % 8 * 2 ^ 18 + d.out * 2 ^ 16 + d.s1 * 2 ^ 8 + d.s3 * 2 + d.p

/-- A decoder at a memory target found `d` in word `w`: counts, record, interrupt and RAS event. Every error
pattern comes from an injection point, so the log TYPE is 2. -/
def eccEvent (s : State) (t : Target) (w src : Nat) (d : Decoded) : State :=
  match eccPage t with
  | none => s
  | some (k, i) =>
    let ecnt := pg k i + (if k = .mc then 0x110 else 0x180)
    let pa := w / 2 * 16
    if d.out = 0 then s
    else if d.out = 3 then
      rasEvent (eccRecord (rsatF s ecnt 63 32 1) k i 3 1 pa (eccInfo src w d)) 1 2 0 (pg k i)
    else rasEvent (eccRecord (rsatF s ecnt 31 0 1) k i 1 0 pa (eccInfo src w d)) 0 2 0 (pg k i)

/-- The injection points 1 to 3 of an MC or SPAD page on a codeword write (R438): data bit 0, bits 0–1 or bits
0–2 of the lowest-addressed word written are inverted in the stored codeword. -/
def injectWrite (s : State) (t : Target) (w : Nat) : State :=
  match eccPage t with
  | none => s
  | some (k, i) =>
    let p := if injArmed s k i 1 then 1 else if injArmed s k i 2 then 2 else if injArmed s k i 3 then 3 else 0
    if p = 0 then s
    else
      let s := injFire s k i
      { s with mem := { s.mem with err := smSet 0 s.mem.err w (smGet 0 s.mem.err w ^^^ BitVec.ofNat 80 (2 ^ p - 1)) } }

/-- The INT_RAW bits of what a decoder found. -/
def eccBits (d : Decoded) : List Nat := if d.out = 0 then [] else if d.out = 3 then [1] else [0]

/-- The page of a target rings for the events that one access met. -/
def eccRing (t : Target) (x : State × List Nat) : State :=
  match eccPage t with
  | none => x.1
  | some (k, i) => ringBits x.1 k i x.2

/-- Decoding stored word `w` at its target: a correction is written back (R173), an uncorrectable codeword
poisons its granule, whose other codeword is decoded and written again with it (R174). The scrubber's write-back is
one of the codeword writes of R438. With it the INT_RAW bits that the page has to ring for. -/
def eccFix (s : State) (t : Target) (w src : Nat) : State × List Nat :=
  if smGet 0 s.mem.err w = 0 then (s, [])
  else
    let d := decodeWord (storedWord s.mem w)
    if d.out = 3 then
      let o := if w % 2 = 0 then w + 1 else w - 1
      let d' := decodeWord (storedWord s.mem o)
      let m := memSetWord (memSetWord s.mem w d.data false) o d'.data false
      let s := eccEvent (eccEvent { s with mem := memPoison m (w / 2) } t w src d) t o src d'
      (if src = 1 then injectWrite s t (w / 2 * 2) else s, eccBits d ++ eccBits d')
    else
      (injectWrite (eccEvent { s with mem := memSetWord s.mem w d.data d.m } t w src d) t w, eccBits d)

/-- Every word of a list decoded. -/
def eccScan (s : State) (t : Target) (src : Nat) (ws : List Nat) : State × List Nat :=
  if s.mem.err = [] then (s, [])
  else ws.foldl (fun x w => let y := eccFix x.1 t w src; (y.1, x.2 ++ y.2)) (s, [])

/-- A read of [a, a + n) at its target: one ring of the page for all that it met (R448). -/
def arrRead (s : State) (t : Target) (a n src : Nat) : RData × State :=
  let x := eccScan s t src (granWords a n)
  (memRead x.1.mem a n, eccRing t x)

/-- The words that a write of [a, a + n) decodes (R178): those it covers in part, the even words whose tag it clears, and
the odd words whose poison it keeps, for R86 keeps the poison of a granule that a write does not cover (assumption
log 23). -/
def mergeWords (a n : Nat) : List Nat :=
  (granWords a n).filter fun w =>
    let full := decide (a ≤ 8 * w) && decide (8 * w + 8 ≤ a + n)
    let some' := decide (a < 8 * w + 8) && decide (8 * w < a + n)
    let gran := decide (a ≤ w / 2 * 16) && decide (w / 2 * 16 + 16 ≤ a + n)
    (!full && (some' || decide (w % 2 = 0))) || (full && decide (w % 2 = 1) && !gran)

/-- The codewords of the partner line that share burst 2 with a written line (R176, R178): codewords 6 to 9 of
the pair that lie in the other line. They are the ones a pair rewrite decodes (assumption log 23). -/
def pairWords (a : Nat) : List Nat :=
  let p := a / 128 * 16
  if a / 64 % 2 = 0 then [p + 8, p + 9] else [p + 6, p + 7]

/-- The words that the pair rewrite of a write at `a` writes: none outside DRAM. -/
def pairOf : Target → Nat → List Nat
  | .dram _, a => pairWords a
  | _, _ => []

/-- A write of bytes at `a` at its target: sub-word merges decode the stored word (R178), a DRAM write rewrites
the shared burst of its pair, and every word written gets a fresh codeword. An armed point fires on the write, and then,
if it is still armed, on the pair rewrite (R438, R439). -/
def arrWrite (s : State) (t : Target) (a : Nat) (bs : List Byte) (tags poison : List Bool) : State :=
  if bs = [] then s
  else
    let x := eccScan s t 5 (pairOf t a)
    let y := eccScan x.1 t 2 (mergeWords a bs.length)
    let ws := pairOf t a ++
      (granWords a bs.length).filter fun w => decide (a < 8 * w + 8) && decide (8 * w < a + bs.length)
    let m := memWrite y.1.mem a bs tags poison
    let m := { m with err := if m.err = [] then [] else ws.foldl (fun e w => smErase w e) m.err }
    let s := injectWrite { y.1 with mem := m } t (a / 8)
    let s := match pairOf t a with
      | [] => s
      | w :: _ => injectWrite s t w
    eccRing t (s, x.2 ++ y.2)

/-! ### What a memory target answers -/

/-- How a transaction ends: data (empty for a write), a gate's refusal, an error response from the target
behind a gate, no target (R469), an error response of a port window (R368; port of R147), or a window read
still outstanding. -/
inductive Resp where
  | ok (d : RData)
  | refused (g : Nat)
  | err (g : Nat)
  | noTarget
  | port (p : Nat)
  | pending
  deriving DecidableEq, Repr

/-- No data. -/
def noData : RData := { bytes := [], tags := [], poison := [] }

/-- The memory field is ON (R399). -/
def memOn (s : State) : Bool := decide (rfld s (pg .pwr + 0x108) 33 32 = 3)

/-- State of a scratchpad bank in BANKSTAT (R188). -/
def bankState (s : State) (b : Nat) : Nat := rfld s (pg .spad + 0x140 + b / 32 * 8) (b % 32 * 2 + 1) (b % 32 * 2)

/-- A bank serves accesses: it is on, and no wipe holds the secure part (R187, R190). -/
def bankOn (s : State) (b : Nat) : Bool :=
  decide (bankState s b = 3) && !(decide (248 ≤ b) && rbit s (pg .lct + 0x118) 8)

/-- The record of an access to a bank that is not on (R187). -/
def bankOff (s : State) (a : Nat) : State :=
  ringBits (eccRecord s .spad 0 2 2 a (7 * 2 ^ 21 + a / 8 % 8 * 2 ^ 18)) .spad 0 [2]

/-- Bytes of the boot ROM. -/
def romBytes (off : Nat) : Nat → List Byte
  | 0 => []
  | n + 1 => Config.bootRom off :: romBytes (off + 1) n

/-- The new 16 bytes or 8 bytes of an atomic, and what it returns, on data `old` (R87). -/
def atomicNew (op : TxnOp) (old : List Byte) : List Byte :=
  match op with
  | .atomicAdd v => leBytes 8 (leNat old + v.toNat)
  | .atomicSwap v => leBytes 8 v.toNat
  | .atomicCap c => capBytes c
  | _ => old

/-- The tag an atomic leaves. -/
def atomicTag : TxnOp → Bool
  | .atomicCap c => c.tag
  | _ => false

/-- What a memory target does with an access to [a, a + n) that its gate allowed; `src` is the SOURCE of R185 of
its reads. -/
def memTarget (s : State) (t : Target) (a n : Nat) (op : TxnOp) (src : Nat) : Resp × State :=
  match t with
  | .dram m =>
    if !memOn s then (.err m, s)
    else match op with
      | .write bs tg po => (.ok noData, arrWrite s t a bs tg po)
      | .read | .exec => let (d, s) := arrRead s t a n src; (.ok d, s)
      | _ => (.err m, s)
  | .spad b =>
    if !bankOn s b then (.err 5, bankOff s a)
    else match op with
      | .write bs tg po => (.ok noData, arrWrite s t a bs tg po)
      | .read | .exec => let (d, s) := arrRead s t a n src; (.ok d, s)
      | op =>
        let (d, s) := arrRead s t a n 3
        if d.poison.any id then (.ok d, s)
        else (.ok d, arrWrite s t a (atomicNew op d.bytes) [atomicTag op] [])
  | .keep _ => match op with
    | .write bs _ _ => (.ok noData, arrWrite s t a bs [] [])
    | .read | .exec => (.ok (memRead s.mem a n), s)
    | _ => (.err 7, s)
  | .rom off => match op with
    | .read | .exec =>
      (.ok { bytes := romBytes off n, tags := (grans a n).map fun _ => false, poison := (grans a n).map fun _ => false }, s)
    | _ => (.err 8, s)
  | _ => (.noTarget, s)

end Sys2Proof.Machine
end

