-- ==== Sys2Proof/Machine/Gate.lean ====
section
/-! DEFINITION. Target gates: region sets (R194, R195), the verdict (R196), refusals (R203, R204), swaps
(R200, R201), and transactions to the memory targets through them. -/

namespace Sys2Proof.Machine
open Sys2Proof

/-- The kinds of R192 a transaction needs. -/
structure Kinds where
  r : Bool
  w : Bool
  x : Bool
  deriving DecidableEq, Repr

def kR : Kinds := { r := true, w := false, x := false }
def kW : Kinds := { r := false, w := true, x := false }
def kX : Kinds := { r := false, w := false, x := true }
def kRW : Kinds := { r := true, w := true, x := false }

/-- The kinds of a transaction's operation. -/
def opKinds : TxnOp → Kinds
  | .read => kR
  | .exec => kX
  | .write _ _ _ => kW
  | _ => kRW

/-- KIND of R204. -/
def kindCode (k : Kinds) : Nat := if k.x then 2 else if k.w then (if k.r then 3 else 1) else 0

/-- The name of an initiator's window reads judged for the kinds `k` (R192): a verdict for other kinds does not serve them. -/
def txnKey (k : Kinds) (cls : InitClass) (colour : BitVec 4) (src : Nat) : Nat :=
  initKey cls colour src + (if k.x then 1 else if k.w then 2 else 0) * 2 ^ 28

/-- Offset of RGN_ADDR of region `r` of set `st` (0 A, 1 B) of a gate; RGN_ATTR is 8 above. -/
def rgnOff (g st r : Nat) : Nat := pg .gate g + 0x200 + st * 0x100 + r * 0x10

/-- The active set of a gate. -/
def activeSet (s : State) (g : Nat) : Nat := rfld s (pg .gate g + 0x108) 0 0

/-- SIZE and BASE of a region. -/
def rgnSize (s : State) (g st r : Nat) : Nat := rfld s (rgnOff g st r) 5 0
def rgnBase (s : State) (g st r : Nat) : Nat := rfld s (rgnOff g st r) 47 12 * 0x1000

/-- Region `r` is malformed (R195). -/
def rgnMalformed (s : State) (g st r : Nat) : Bool :=
  let n := rgnSize s g st r
  decide (n ≠ 0) && (decide (n < 12) || decide (47 < n) || decide (rgnBase s g st r % 2 ^ n ≠ 0))

/-- A set has a malformed region. -/
def setMalformed (s : State) (g st : Nat) : Bool := (List.range 16).any (rgnMalformed s g st)

/-- Two enabled regions of a set share a byte (R195). -/
def setOverlap (s : State) (g st : Nat) : Bool :=
  (List.range 16).any fun i => (List.range i).any fun j =>
    let a := rgnBase s g st i
    let b := rgnBase s g st j
    decide (rgnSize s g st i ≠ 0) && decide (rgnSize s g st j ≠ 0) &&
      decide (a < b + 2 ^ rgnSize s g st j) && decide (b < a + 2 ^ rgnSize s g st i)

/-- The set is valid (R195). -/
def setValid (s : State) (g st : Nat) : Bool := !setMalformed s g st && !setOverlap s g st

/-- The verdict of R196 from region `r` on, over `n` regions: none allows; otherwise region and RULE. -/
def verdictFrom (s : State) (g st a : Nat) (cls : InitClass) (k : Kinds) (colour : Nat) :
    Nat → Nat → Option (Nat × Nat)
  | 0, _ => none
  | n + 1, r =>
    let size := rgnSize s g st r
    if size = 0 ∨ a / 2 ^ size ≠ rgnBase s g st r / 2 ^ size then verdictFrom s g st a cls k colour n (r + 1)
    else
      let v := rget s (rgnOff g st r + 8)
      if !bitAt v (16 + cls.toNat) then some (r, 1)
      else if (k.r && !bitAt v 0) || (k.w && !bitAt v 1) || (k.x && !bitAt v 2) then some (r, 2)
      else if !bitAt v 8 && decide (fld v 7 4 ≠ colour) then some (r, 3)
      else none

/-- The verdict of gate `g` on a transaction whose first byte is `a`. -/
def verdict (s : State) (g a : Nat) (cls : InitClass) (k : Kinds) (colour : BitVec 4) : Option (Nat × Nat) :=
  verdictFrom s g (activeSet s g) a cls k colour.toNat 16 0

/-- The record of a refusal (R204). -/
def gateRefuse (s : State) (g a : Nat) (cls : InitClass) (k : Kinds) (colour : BitVec 4) (src : Nat)
    (v : Nat × Nat) (inj : Bool) : State :=
  let base := pg .gate g
  let info := src * 2 ^ 32 + colour.toNat * 2 ^ 24 + cls.toNat * 2 ^ 20 + kindCode k * 2 ^ 18 +
    activeSet s g * 2 ^ 12 + v.1 * 2 ^ 8 + v.2
  let s := if intRaw s .gate g 0 then rsetB s (base + 0x038) 63 true
    else rset (rset s (base + 0x030) (wd a)) (base + 0x038) (wd info)
  rasEvent (intSet s .gate g 0) 1 (injTyp inj) 0 base

/-- A gate judges a transaction: whether it is allowed, and the state with a refusal recorded. -/
def judge (s : State) (g a : Nat) (cls : InitClass) (k : Kinds) (colour : BitVec 4) (src : Nat) : Bool × State :=
  if injArmed s .gate g 1 then (false, gateRefuse (injFire s .gate g) g a cls k colour src (0, 2) true)
  else match verdict s g a cls k colour with
    | none => (true, s)
    | some v => (false, gateRefuse s g a cls k colour src v false)

/-- A store that waits in a store buffer for a target behind gate `g`. -/
def behind (g : Nat) (e : StoreEnt) : Bool := !e.cached && decide (gateOf (targetOf e.pa) = g)

/-- The group of a fetch comes from a target behind gate `g`. -/
def fetchBehind (g : Nat) (f : FetchReq) : Bool := decide (gateOf (targetOf f.pa) = g)

/-- What a context has under way behind gate `g` is marked. -/
def markOldCtx (g : Nat) (c : Ctx) : Ctx :=
  { c with
    stores := c.stores.map fun e => if behind g e then { e with old := true } else e
    loads := c.loads.map fun l => if l.gates.contains g then { l with old := setIns g l.old } else l
    fetch := c.fetch.map fun f => if fetchBehind g f then { f with old := true } else f }

/-- Nothing that a context has under way behind gate `g` is marked. -/
def oldDoneCtx (g : Nat) (c : Ctx) : Bool :=
  (c.stores.all fun e => !(behind g e && e.old)) && (c.loads.all fun l => !l.old.contains g) &&
    !(c.fetch.any fun f => fetchBehind g f && f.old)

/-- The transactions under way behind gate `g` keep the verdict of the set that a swap replaces (R200). -/
def markOld (s : State) (g : Nat) : State :=
  let rd (r : OutRead) : OutRead := { r with old := true }
  let io (x : PortIo) : PortIo := { x with reads := x.reads.map rd, waitR := x.waitR.map rd }
  { s with
    ctxs := s.ctxs.map fun p => (p.1, markOldCtx g p.2)
    hosts := s.hosts.map fun p => if g = 9 + p.1 then (p.1, { p.2 with io := io p.2.io }) else p
    meds := s.meds.map fun p => if g = 11 + p.1 then (p.1, { p.2 with io := io p.2.io }) else p
    peers := s.peers.map fun p => if g = 15 then (p.1, { p.2 with reads := p.2.reads.map rd, waitR := p.2.waitR.map rd }) else p }

/-- Every transaction judged under the replaced set has completed: its write is applied, or its data has returned (R200). -/
def oldDone (s : State) (g : Nat) : Bool :=
  let rd (rs : List OutRead) : Bool := rs.all fun r => !r.old
  (s.ctxs.all fun p => oldDoneCtx g p.2) &&
    (s.hosts.all fun p => decide (g ≠ 9 + p.1) || rd (p.2.io.reads ++ p.2.io.waitR)) &&
    (s.meds.all fun p => decide (g ≠ 11 + p.1) || rd (p.2.io.reads ++ p.2.io.waitR)) &&
    (s.peers.all fun p => decide (g ≠ 15) || rd (p.2.reads ++ p.2.waitR))

/-- GCTRL.SWAP (R200, R201). -/
def gateSwap (s : State) (g : Nat) : State :=
  let st := pg .gate g + 0x108
  let other := 1 - activeSet s g
  if rbit s (pg .gate g + 0x008) 0 then s
  else if rfld s st 3 1 = 1 then rsetB s st 7 true
  else if setMalformed s g other then intSet (rsetF s st 3 1 4) .gate g 2
  else if setOverlap s g other then intSet (rsetF s st 3 1 3) .gate g 2
  else markOld (rsetF (rsetF s st 0 0 other) st 3 1 1) g

/-- The domain of a gate's target is on, so that its gate judges (R191). The gates of DRAM lie in the memory
field. -/
def gateDomainOn (s : State) (g : Nat) : Bool :=
  let on (d : Nat) : Bool := rbit s (pg .pwr + 0x108) d
  if g < 5 then decide (rfld s (pg .pwr + 0x108) 33 32 ≠ 0)
  else if g = 9 ∨ g = 10 then on 16
  else if 11 ≤ g ∧ g < 15 then on (17 + (g - 11))
  else if g = 15 then on 21
  else if g = 7 then true
  else on 1

/-- A transaction of class `cls` to a memory target through its gate; `src` is the SOURCE of R204, `esrc` that
of R185. Register space and the port windows are not memory targets and answer `noTarget` here. -/
def memTxn (s : State) (a n : Nat) (op : TxnOp) (cls : InitClass) (colour : BitVec 4) (src esrc : Nat) :
    Resp × State :=
  let t := targetOf a
  match t with
  | .nowhere => (.noTarget, s)
  | _ =>
    let g := gateOf t
    if !gateDomainOn s g then (.err g, s)
    else
      let (ok, s) := judge s g a cls (opKinds op) colour src
      if ok then memTarget s t a n op esrc else (.refused g, s)

end Sys2Proof.Machine
end

