-- ==== Sys2Proof/Machine/Cache.lean ====
section
/-! DEFINITION. The caches of a cluster: the word code of a line (R175, R452), write-back (R199), the maintenance of a
line (R58) and of the whole cache (R59, R452), and the link into cluster 0 (R438). Lines lie in no modelled set or way, since R55 leaves
index and replacement open. -/

namespace Sys2Proof.Machine
open Sys2Proof

/-- Base of the 64-byte line of an address. -/
def lineOf (a : Nat) : Nat := alignDown a 64

/-- The line at `pa` in a list of cached lines. -/
def findLine (ls : List CLine) (pa : Nat) : Option CLine := ls.find? fun l => decide (l.pa = pa)
/-- The lines without the one at `pa`. -/
def dropLine (ls : List CLine) (pa : Nat) : List CLine := ls.filter fun l => decide (l.pa ≠ pa)
/-- The line replaced or added. -/
def putLine (ls : List CLine) (l : CLine) : List CLine := l :: dropLine ls l.pa

/-- The cores of a cluster. -/
def coresOf (cl : Nat) : List CoreId := (List.range 16).map fun k => BitVec.ofNat 7 (16 * cl + k)

/-- Every level-1 data cache of the cluster without the line at `pa`, but for that of `except`. -/
def dropL1d (s : State) (cl pa : Nat) (except : Option CoreId) : State :=
  (coresOf cl).foldl (fun s k =>
    if some k = except then s
    else
      let c := coreAt s k
      if (findLine c.l1d pa).isSome then setCore s k { c with l1d := dropLine c.l1d pa } else s) s

/-! ### The word code of a line (R173, R175) -/

/-- Codeword `w` of a line decoded. -/
def lineDecode (l : CLine) (w : Nat) : Decoded :=
  let m := if w % 2 = 0 then l.data.tags.getD (w / 2) false else l.data.poison.getD (w / 2) false
  decodeWord (encodeWord (wd (leAt l.data.bytes (8 * w) 8)) m ^^^ smGet 0 l.err w)

/-- Codeword `w` of a line holds what its decoder gives. -/
def lineFix (l : CLine) (w : Nat) : CLine :=
  let d := lineDecode l w
  { l with
    err := smErase w l.err
    data :=
      { bytes := patch l.data.bytes (8 * w) (leBytes 8 d.data.toNat)
        tags := if w % 2 = 0 then l.data.tags.set (w / 2) d.m else l.data.tags
        poison := if w % 2 = 0 then l.data.poison else l.data.poison.set (w / 2) d.m } }

/-- The granule of codeword `w` poisoned, the codeword holding its decoder's data (R174). -/
def linePoison (l : CLine) (w : Nat) : CLine :=
  let l := lineFix l w
  { l with data := { l.data with tags := l.data.tags.set (w / 2) false, poison := l.data.poison.set (w / 2) true } }

/-- The record of a CLU page (R452), and the INT_RAW bit of its KIND; the page has not rung yet (R448). -/
def cluRecord (s : State) (cl pa kind : Nat) : State :=
  let base := pg .clu cl
  let s := if intRaw s .clu cl 1 || intRaw s .clu cl 2 then rsetB s (base + 0x038) 63 true
    else rset (rset s (base + 0x030) (wd pa)) (base + 0x038) (wd kind)
  rsetB s (base + 0x018) kind true

/-- Codeword `w` of a line of the cluster cache of `cl` decoded, or of a level-1 cache where `l2` is false (R175): none
when it is uncorrectable in a clean line, which is invalidated and counts as corrected. -/
def lineWord (cl : Nat) (l2 : Bool) (a : Option CLine × State) (w : Nat) : Option CLine × State :=
  match a with
  | (none, s) => (none, s)
  | (some l, s) =>
    let d := lineDecode l w
    let ecnt := pg .clu cl + 0x118
    let count (s : State) (hi lo : Nat) : State := if l2 then rsatF s ecnt hi lo 1 else s
    if smGet 0 l.err w = 0 ∨ d.out = 0 then (some l, s)
    else if d.out ≠ 3 then (some (lineFix l w), rasEvent (count s 31 0) 0 1 0 (pg .clu cl))
    else
      let s' := if l2 then cluRecord s cl l.pa 1 else s
      if l.dirty then (some (linePoison l w), rasEvent (count s' 63 32) 1 1 0 (pg .clu cl))
      else (none, rasEvent (count s' 31 0) 0 1 0 (pg .clu cl))

/-- Some codeword of a line is uncorrectable. -/
def lineBad (l : CLine) : Bool :=
  (List.range 8).any fun w => decide (smGet 0 l.err w ≠ 0) && decide ((lineDecode l w).out = 3)

/-- A line is read or written back: its codewords are decoded (R175), with one ring of the page for all that this met
(R448). -/
def lineScan (s : State) (cl : Nat) (l2 : Bool) (l : CLine) : Option CLine × State :=
  if l.err = [] then (some l, s)
  else
    let x := (List.range 8).foldl (lineWord cl l2) (some l, s)
    if l2 && lineBad l then (x.1, ringBits x.2 .clu cl [1]) else x

/-- A line is written to its target (R199): not judged; an error response loses the data, and the cluster keeps
the address for the record of R452. -/
def lineSend (s : State) (cl : Nat) (l : CLine) : State :=
  match memTarget s (targetOf l.pa) l.pa 64 (.write l.data.bytes l.data.tags l.data.poison) 0 with
  | (.ok _, s) => s
  | (_, s) =>
    let c := clusterAt s cl
    setCluster s cl { c with lines := dropLine c.lines l.pa, wbErr := c.wbErr ++ [l.pa] }

/-- A dirty line that leaves the cache is written back, its codewords decoded first (R175, R199). -/
def writeBack (s : State) (cl : Nat) (l : CLine) : State :=
  let (l', s) := lineScan s cl true l
  lineSend s cl (l'.getD l)

/-- The line at `pa` of the cluster cache is written back if dirty, and stays valid as its decoder gave it (CCLEAN, R175). -/
def cleanLine (s : State) (cl pa : Nat) : State :=
  match findLine (clusterAt s cl).lines pa with
  | none => s
  | some l =>
    if l.dirty then
      let (l', s) := lineScan s cl true l
      let l := l'.getD l
      let s := setCluster s cl { clusterAt s cl with lines := putLine (clusterAt s cl).lines { l with dirty := false } }
      lineSend s cl l
    else s

/-- The line at `pa` is invalidated in the cluster cache and in the level-1 data caches of the cluster, without
writing back (CINVAL). -/
def invalLine (s : State) (cl pa : Nat) : State :=
  let s := setCluster s cl { clusterAt s cl with lines := dropLine (clusterAt s cl).lines pa }
  dropL1d s cl pa none

/-- CFLUSH of the line at `pa`. -/
def flushLine (s : State) (cl pa : Nat) : State := invalLine (cleanLine s cl pa) cl pa

/-- The line at `pa` out of every level-1 instruction cache of the cluster. -/
def dropL1i (s : State) (cl pa : Nat) : State :=
  (coresOf cl).foldl (fun s k =>
    let c := coreAt s k
    if (findLine c.l1i pa).isSome then setCore s k { c with l1i := dropLine c.l1i pa } else s) s

/-- IINVAL of the line at `pa`: out of every level-1 instruction cache of the cluster, and every prefetch queue of
its cores is emptied. -/
def iinvalLine (s : State) (cl pa : Nat) : State :=
  let s := dropL1i s cl pa
  { s with ctxs := s.ctxs.map fun p => if p.1 / 256 = cl then (p.1, starve { p.2 with queue := [], fetch := none, walk := if p.2.walk.any (·.fetch) then none else p.2.walk }) else p }

/-! ### Whole-cache operations (R59, R68, R452) -/

/-- CMSTAT of a cluster. -/
def cmstatOff (cl : Nat) : Nat := pg .clu cl + 0x108

/-- An operation starts on the lines valid, or for clean dirty, at that moment. -/
def maintStart (s : State) (cl op : Nat) (lines : List Nat) : State :=
  rsetB (setCluster s cl { clusterAt s cl with maint := some (op, lines) }) (cmstatOff cl) 0 true

/-- A write of `op` to CMAINT: a flush or an invalidation covers the level-1 instruction caches too (R59). -/
def cmaint (s : State) (cl op : Nat) : State :=
  if rbit s (cmstatOff cl) 0 then rsetB s (cmstatOff cl) 2 true
  else if op = 0 then s
  else
    let ls := (clusterAt s cl).lines.filter fun l => l.dirty || decide (op ≠ 1)
    let l1 := if op = 1 then [] else (coresOf cl).flatMap fun k => ((coreAt s k).l1d ++ (coreAt s k).l1i).map (·.pa)
    maintStart s cl op (ls.map (·.pa) ++ l1)

/-- One line of an operation. -/
def maintLine (s : State) (cl op pa : Nat) : State :=
  if op = 1 then cleanLine s cl pa else dropL1i (if op = 2 then flushLine s cl pa else invalLine s cl pa) cl pa

/-- The operation in progress completes: its lines are done, BUSY clears and DONE is INT_RAW bit 0. -/
def maintDone (s : State) (cl : Nat) : State :=
  match (clusterAt s cl).maint with
  | none => s
  | some (op, ls) =>
    let s := ls.foldl (fun s pa => maintLine s cl op pa) s
    let s := setCluster s cl { clusterAt s cl with maint := none }
    intSet (rsetB s (cmstatOff cl) 0 false) .clu cl 0

/-- A write of WAYEN (R452): disabling a way first flushes the lines it holds, which R55 leaves open: each line
of the cache is among them by a free value. -/
def wayen (s : State) (cl : Nat) (v : Word) : State :=
  if rbit s (cmstatOff cl) 0 then rsetB s (cmstatOff cl) 2 true
  else
    let off := pg .clu cl + 0x110
    let now (x : Word) : Word := if fld x 15 0 = 0 then 1 else x &&& 0xFFFF
    let gone := now (rget s off) &&& ~~~ now v
    let s := rset s off (v &&& 0xFFFF)
    if gone = 0 then s
    else
      let (n, s) := freeNat s
      let ls := (((clusterAt s cl).lines.map (·.pa)).zipIdx).filter fun p => decide (Config.victim n p.2 % 2 = 1)
      maintStart s cl 2 (ls.map (·.1))

/-! ### The fabric link into cluster 0 (R438, R175) -/

/-- A read response delivered to a cluster: RAS injection points 1 to 3 invert data bits 0, 0–1 or 0–2 of its
lowest word. One or two inverted bits are corrected and counted; three deliver the granule as poisoned and
are recorded with SOURCE 6 (R433); the link number is a free value. -/
def linkDeliver (s : State) (cl pa : Nat) (d : RData) : RData × State :=
  let p := if injArmed s .ras 0 1 then 1 else if injArmed s .ras 0 2 then 2 else if injArmed s .ras 0 3 then 3 else 0
  if cl ≠ 0 ∨ p = 0 then (d, s)
  else
    let s := injFire s .ras 0
    let w := pa / 8
    let meta' := if w % 2 = 0 then d.tags.headD false else d.poison.headD false
    let data := wd (leAt d.bytes 0 8)
    let dec := decodeWord (encodeWord data meta' ^^^ BitVec.ofNat 80 (2 ^ p - 1))
    if dec.out = 3 then
      let (n, s) := freeNat s
      let info := eccInfo 6 w dec + fld (Config.freeWord n) 5 0 * 2 ^ 24
      let s := if intRaw s .ras 0 0 then s else rset (rset s (pg .ras + 0x030) (wd (pa / 8 * 8))) (pg .ras + 0x038) (wd info)
      let s := rasEvent (intSet s .ras 0 0) 1 2 0 (pg .ras)
      ({ d with tags := false :: d.tags.tail, poison := true :: d.poison.tail }, s)
    else (d, rasEvent s 0 2 0 (pg .ras))

/-! ### Rows -/

/-- CLEAN_ALL, FLUSH_ALL and INVALIDATE_ALL act on a cluster whose page is present; CMAINT_DONE ends one. -/
def execCmaintDone (cluster : BitVec 3) (s : State) : Out := .next (maintDone s cluster.toNat)

/-- A write-back's error response reaches the cluster (R199, R452). -/
def execWritebackError (cluster : BitVec 3) (idx : Nat) (s : State) : Out :=
  let cl := cluster.toNat
  let c := clusterAt s cl
  match c.wbErr[idx]? with
  | none => .next s
  | some pa =>
    let s := setCluster s cl { c with wbErr := c.wbErr.eraseIdx idx }
    .next (rasEvent (ringBits (cluRecord s cl pa 2) .clu cl [2]) 1 1 0 (pg .clu cl))

end Sys2Proof.Machine
end

