-- ==== Sys2Proof/Machine/PortCtl.lean ====
section
/-! DEFINITION. What the registers and links of the ports do beside moving data: closing apertures (R366),
the resets of a host port (R359, R360), link down (R360, R389), MSI-X messages (R363), anchors of inbound
windows (R372, R388), and the actions of the management page (R377, R379, R380). -/

namespace Sys2Proof.Machine
open Sys2Proof

def hostAt (s : State) (h : Nat) : HostPort := smGet HostPort.idle s.hosts h
def setHost (s : State) (h : Nat) (p : HostPort) : State := { s with hosts := smSet HostPort.idle s.hosts h p }
def medAt (s : State) (m : Nat) : MedPort := smGet MedPort.idle s.meds m
def setMed (s : State) (m : Nat) (p : MedPort) : State := { s with meds := smSet MedPort.idle s.meds m p }
def peerAt (s : State) (p : Nat) : PeerPort := smGet PeerPort.idle s.peers p
def setPeer (s : State) (p : Nat) (x : PeerPort) : State := { s with peers := smSet PeerPort.idle s.peers p x }

/-- Aperture `a` of host port `h`. -/
def apAt (s : State) (h a : Nat) : Aperture := smGet Aperture.idle (hostAt s h).aps a
def setAp (s : State) (h a : Nat) (x : Aperture) : State :=
  let p := hostAt s h
  setHost s h { p with aps := smSet Aperture.idle p.aps a x }

/-- Domain `d` is on (R398). -/
def domOn (s : State) (d : Nat) : Bool := rbit s (pg .pwr + 0x108) d

/-- The device is in HOLD (R403), or in an orderly stop (R404). -/
def inHold (s : State) : Bool := rbit s (pg .sup + 0x108) 8
def stopped (s : State) : Bool := s.power.halted

/-! ### Apertures (R364, R366) -/

/-- A queued check of an aperture keeps no owner: its verdict reaches no one. -/
def orphanCheck (s : State) (h a : Nat) : State :=
  { s with islQ := s.islQ.map fun q =>
      (q.1, q.2.map fun o => if o.src = .aperture h a then { o with src := .gone } else o) }

/-- An aperture that is not CLOSED closes, with CLOSEDBY `why`. -/
def closeAp (s : State) (h a why : Nat) : State :=
  let x := apAt s h a
  if x.state = 0 then s
  else orphanCheck (setAp s h a { x with state := 0, closed := why, cap := Cap.null }) h a

/-- Every aperture of a port for which `p` holds closes. -/
def closeAps (s : State) (h why : Nat) (p : Aperture → Bool) : State :=
  (List.range 64).foldl (fun s a => if p (apAt s h a) then closeAp s h a why else s) s

/-! ### Links and resets -/

/-- A core context whose window read is named `key` is READY again (R45). -/
def wakeReader (s : State) (key : Nat) : State :=
  if keyCls key < 4 ∧ key < noOne then wakeIf s (BitVec.ofNat 11 (keySrc key)) .port else s

/-- The answer `d` to a request, unless it serves no one. -/
def answerOf (r : OutRead) (d : Option RData) : List ReadDone :=
  if r.src < noOne then [{ src := r.src, pa := r.pa, n := r.n, data := d }] else []

/-- Every request of a port that goes down gets an error response (R360, R389). -/
def failReads (rs : List OutRead) (ds : List ReadDone) : List ReadDone := ds ++ rs.flatMap fun r => answerOf r none

/-- The readers that waited for these requests go on. -/
def wakeAll (s : State) (rs : List OutRead) : State := rs.foldl (fun s r => wakeReader s r.src) s

/-- A write, or a doorbell, which a link that goes down does not take back (R360). -/
def InReq.posted : InReq → Bool
  | .mem q _ _ _ => q.write
  | .bell _ => true

/-- The effects of R360 on host port `h`, `openToo` when CTRL.OPEN is cleared, with INT_RAW bit `bit`. -/
def hostReset (s : State) (h : Nat) (openToo : Bool) (bit : Nat) : State :=
  let s := closeAps s h 4 fun _ => true
  let s := (List.range 64).foldl (fun s d => rset s (pg .host h + 0x200 + 8 * d) 0) s
  let p := hostAt s h
  let s := setHost s h { p with pba := [], cfg := [], msix := [] }
  let s := if openToo then rsetB s (pg .host h + 0x100) 1 false else s
  intSet s .host h bit

/-- Every outstanding request of a PCIe port fails. -/
def ioDown (x : PortIo) : PortIo := { x with reads := [], waitR := [], dones := failReads (x.reads ++ x.waitR) x.dones }

/-- A PCIe link goes down: LINK clears, outstanding requests fail, and the event is DEGRADED (R431). `k` is .host or
.med. -/
def pcieDown (s : State) (k : PageKind) (i : Nat) : State :=
  if !rbit s (pg k i + 0x108) 0 then s
  else
    let s := rset s (pg k i + 0x108) 0
    let s := match k with
      | .host =>
        let p := hostAt s i
        hostReset (wakeAll (setHost s i { p with io := ioDown p.io }) (p.io.reads ++ p.io.waitR)) i true 1
      | _ =>
        let p := medAt s i
        let t := setMed s i { p with io := ioDown p.io, inq := p.inq.filter InReq.posted }
        intSet (wakeAll t (p.io.reads ++ p.io.waitR)) .med i 1
    rasEvent s 2 1 0 (pg k i)

/-- A PEER link goes down (R389): every stroke held, queued or not handled yet is lost and counted, every outstanding read
fails, time lock is lost (R391), and bring-up starts again while CTRL.EN is 1. -/
def peerDown (s : State) (p : Nat) : State :=
  let base := pg .peer p
  let st := rfld s (base + 0x108) 42 40
  let again := rbit s (base + 0x100) 0 && domOn s 21
  let s := rsetF s (base + 0x108) 42 40 (b2n again)
  let x := peerAt s p
  let msg (t : Nat) : Bool := decide (t = 0x10) || decide (t = 0x20)
  let lost := ((x.held ++ x.txq).filter fun t => msg t.typ).length + (x.inq.filter fun t => msg t.typ).length
  let s := setPeer s p { PeerPort.idle with
    out := x.out, anchor := x.anchor, grace := x.grace, dones := failReads (x.reads ++ x.waitR) x.dones }
  let s := wakeAll s (x.reads ++ x.waitR)
  if st ≠ 4 then s
  else
    let s := rsatF (rsetB s (base + 0x108) 0 false) (base + 0x110) 63 42 lost
    let lock := rbit s (base + 0x208) 0
    let s := if lock then rsetB (rsetB s (base + 0x208) 0 false) (base + 0x018) 5 true else s
    rasEvent (ringBits (rsetB s (base + 0x018) 1 true) .peer p (if lock then [1, 5] else [1])) 2 1 0 base

/-! ### Anchors of inbound windows (R372, R388) -/

/-- Offset of IANCHOR in the page of a port. -/
def ianchorOff (k : PageKind) (i : Nat) : Nat := pg k i + 0x188

/-- The anchor kept for a MED or PEER port. -/
def setAnchor (s : State) (k : PageKind) (i : Nat) (c : Option Cap) : State :=
  match k with
  | .med => setMed s i { medAt s i with anchor := c }
  | _ => setPeer s i { peerAt s i with anchor := c }

/-- IANCHOR.EN has become 1: the anchor granule is read, and opens the window or leaves its fault kind. -/
def anchorOpen (s : State) (k : PageKind) (i : Nat) : State :=
  let a := spadBase + rfld s (ianchorOff k i) 25 4 * 16
  let cls : InitClass := BitVec.ofNat 4 (if k = .med then 8 + i else 12 + i)
  let (r, s) := memTxn s a 16 .read cls 0 0 0
  let bad : Except Nat Cap := match r with
    | .ok d =>
      let c : Cap := { bits := BitVec.ofNat 128 (leNat d.bytes), tag := d.tags.headD false }
      if d.poison.headD false then .error kPoison
      else if !c.tag then .error kTag
      else if capOtype c ≠ 0 then .error kSealed
      else if !(capHas c rLoad && capHas c rStore) then .error kRights
      else .ok c
    | _ => .error kGate
  let off := pg k i + 0x198
  match bad with
  | .ok c => setAnchor (rset s off 1) k i (some c)
  | .error e => intSet (setAnchor (rset s off (wd (e * 256))) k i none) k i (if k = .med then 5 else 7)

/-- IANCHOR.EN has become 0: the window closes. -/
def anchorClose (s : State) (k : PageKind) (i : Nat) : State :=
  setAnchor (rsetB s (pg k i + 0x198) 0 false) k i none

/-! ### MSI-X (R363) -/

/-- A dword of the configuration space of a host port: the MSI-X capability of 2,048 vectors with its table at 0x1_0000
and its Pending Bit Array at 0x1_8000 of BAR2 (R358, R361); the PCI Express capability with payloads up to 4,096 bytes,
Function Level Reset, and completion timeout ranges A to D with disable (R358). Laid out as PCIe has them (assumption
log 50). -/
def cfgDword (s : State) (h off : Nat) : BitVec 32 :=
  match smFind (hostAt s h).cfg off with
  | some v => v
  | none =>
    if off = Config.pcieCap + 4 then (Config.cfgDword off &&& 0xEFFFFFF8) ||| 0x10000005
    else if off = Config.pcieCap + 8 then (Config.cfgDword off &&& 0xFFFF0F1F) ||| 0x2000
    else if off = Config.pcieCap + 0x24 then (Config.cfgDword off &&& 0xFFFFFFE0) ||| 0x1F
    else if off = Config.pcieCap + 0x28 then Config.cfgDword off &&& 0xFFFFFFE0
    else if off = Config.msixCap then (Config.cfgDword off &&& 0xFF00) ||| 0x07FF0011
    else if off = Config.msixCap + 4 then 0x10002
    else if off = Config.msixCap + 8 then 0x18002
    else Config.cfgDword off

def putCfg (s : State) (h off : Nat) (v : BitVec 32) : State :=
  let p := hostAt s h
  setHost s h { p with cfg := smPut off v p.cfg }

/-- AER logs an uncorrectable error of a PCIe port (R358, R367): bit `b` of Uncorrectable Error Status as PCIe numbers it,
and INT_RAW bit 5 of a HOST page (R373), which has not rung yet. -/
def aerMark (s : State) (k : PageKind) (i b : Nat) : State :=
  match k with
  | .host =>
    let off := Config.aerCap + 4
    rsetB (putCfg s i off (smGet 0 (hostAt s i).cfg off ||| BitVec.ofNat 32 (2 ^ b))) (pg .host i + 0x018) 5 true
  | .med => setMed s i { medAt s i with aerU := (medAt s i).aerU ||| BitVec.ofNat 32 (2 ^ b) }
  | _ => s

/-- Bits of Uncorrectable Error Status: poisoned TLP, completion timeout, Completer Abort, Unsupported Request. -/
abbrev aerPoison : Nat := 12
abbrev aerTimeout : Nat := 14
abbrev aerCa : Nat := 15
abbrev aerUr : Nat := 20

/-- MSI-X Enable and Function Mask in Message Control of the MSI-X capability. -/
def msixOn (s : State) (h : Nat) : Bool := (cfgDword s h Config.msixCap).toNat.testBit 31
def msixMasked (s : State) (h : Nat) : Bool := (cfgDword s h Config.msixCap).toNat.testBit 30

/-- A table entry at reset: its Mask bit is 1, as PCIe has it. -/
def msixReset : BitVec 128 := BitVec.ofNat 128 (2 ^ 96)

/-- The message of vector `v` enters the posted queue. -/
def msixSend (s : State) (h v : Nat) : State :=
  let p := hostAt s h
  let e := (smGet msixReset p.msix v).toNat
  setHost s h { p with
    io := { p.io with tx := p.io.tx ++ [{ kind := 3, addr := nfld e 63 0, data := leBytes 4 (nfld e 95 64) }] }
    pba := setDel v p.pba }

/-- Vector `v` is raised: sent, or pending while masked, and after an orderly stop (R404). A function whose MSI-X is not
enabled sends none. -/
def msixRaise (s : State) (h v : Nat) : State :=
  if !msixOn s h then s
  else
    let p := hostAt s h
    if msixMasked s h || stopped s || (smGet msixReset p.msix v).toNat.testBit 96 then setHost s h { p with pba := setIns v p.pba }
    else msixSend s h v

/-- Pending vectors that are no longer masked are sent. -/
def msixFlush (s : State) (h : Nat) : State :=
  if !msixOn s h || msixMasked s h || stopped s then s
  else (hostAt s h).pba.foldl (fun s v =>
    if (smGet msixReset (hostAt s h).msix v).toNat.testBit 96 then s else msixSend s h v) s

/-! ### The management page (R377, R379, R380) -/

/-- A byte queued for the UART, discarded when its FIFO of 64 is full. -/
def uartQueue (s : State) (b : Byte) : State :=
  if s.mgmt.tx.length < 64 then { s with mgmt := { s.mgmt with tx := s.mgmt.tx ++ [b] } } else s

/-- URX: the next received byte with VALID, and the FIFO without it. -/
def uartTake (s : State) : Word × State :=
  match s.mgmt.rx with
  | [] => (0, s)
  | b :: bs => (wd (256 + b.toNat), { s with mgmt := { s.mgmt with rx := bs } })

/-- Eight bytes into the SPI FIFO, which holds 256. -/
def spiPush (s : State) (v : Word) : State :=
  { s with mgmt := { s.mgmt with spi := (s.mgmt.spi ++ leBytes 8 v.toNat).take 256 } }

/-- Eight bytes out of the SPI FIFO; bytes that it does not hold are free values. -/
def spiPop (s : State) : Word × State :=
  let q := s.mgmt.spi
  let s := { s with mgmt := { s.mgmt with spi := q.drop 8 } }
  if 8 ≤ q.length then (wd (leNat (q.take 8)), s)
  else
    let (n, s) := freeNat s
    (wd (leNat (q ++ (leBytes 8 (Config.freeWord n).toNat).drop q.length)), s)

/-- A write of SPICMD: its fields are kept, and GO starts the command with data from the FIFO. -/
def spiCmd (s : State) (v : Word) : State :=
  let off := pg .mgmt + 0x128
  if bitAt v 63 && rbit s (pg .mgmt + 0x138) 0 then s
  else
    let v' := v &&& 0x003FFFFFFFFFFFFF
    let s := rset s off v'
    if bitAt v 63 then
      let n := if bitAt v 49 then Nat.min (fld v 48 40) 256 else 0
      rsetB { s with mgmt := { s.mgmt with
        spiCmd := some (v', s.mgmt.spi.take n), spi := s.mgmt.spi.drop n } } (pg .mgmt + 0x138) 0 true
    else s

end Sys2Proof.Machine
end

