-- ==== Sys2Proof/Machine/Log.lean ====
section
/-! DEFINITION. The persistent log in the Keep (R435, R436). -/

namespace Sys2Proof.Machine
open Sys2Proof

/-- Keep address of log record `i`. -/
def logAddr (i : Nat) : Nat := keepBase + 0x20000 + 64 * (i % 4096)

/-- The 64 bytes of a record with sequence number `seq` (R435). -/
def logBytes (e : LogEnt) (seq : Word) : List Byte :=
  let b := leBytes 8 seq.toNat ++ leBytes 8 e.tb.toNat ++ leBytes 1 e.cls ++ leBytes 1 e.typ ++ leBytes 2 e.code ++
    leBytes 4 e.page ++ leBytes 8 e.eaddr.toNat ++ leBytes 8 e.einfo.toNat ++ leBytes 8 e.iraw.toNat ++
    List.replicate 12 0
  b ++ leBytes 4 (crc32c b).toNat

/-- The oldest queued record is written: NEXT and SEQ advance. -/
def logWriteOne (s : State) : State :=
  match s.plogQ with
  | [] => s
  | e :: q =>
    let off := pg .ras + 0x160
    let i := rfld s off 11 0
    let s := { s with
      mem := memPut s.mem (logAddr i) (logBytes e s.plogSeq), plogQ := q, plogSeq := s.plogSeq + 1 }
    rset s off (wd ((s.plogSeq.toNat % 2 ^ 32) * 2 ^ 32 + (i + 1) % 4096))

/-- Every queued record is written: a reset that a FATAL event causes waits for its record (R436). -/
def logFlush (s : State) : State := (List.range s.plogQ.length).foldl (fun s _ => logWriteOne s) s

/-- Record `i` of the log, if its CRC is good. -/
def logValid (s : State) (i : Nat) : Option (Nat × Nat) :=
  let b := memBytes s.mem (logAddr i) 64
  if crc32c (b.take 60) = BitVec.ofNat 32 (leAt b 60 4) then some (leAt b 0 8, leAt b 16 1) else none

/-- At step 7 of R406 PLOG is loaded from the valid record with the highest SEQ, and RAS INT_RAW bit 4 is raised
if that record is FATAL. -/
def logLoad (s : State) : State :=
  let best := (List.range 4096).foldl (fun (b : Option (Nat × Nat × Nat)) i =>
    match logValid s i, b with
    | some (q, c), some (q', _, _) => if q' < q then some (q, c, i) else b
    | some (q, c), none => some (q, c, i)
    | none, _ => b) none
  match best with
  | none => s
  | some (q, c, i) =>
    let s := { s with plogSeq := wd (q + 1) }
    let s := rset s (pg .ras + 0x160) (wd ((q + 1) % 2 ^ 32 * 2 ^ 32 + (i + 1) % 4096))
    if c = 3 then intSet s .ras 0 4 else s

/-- D0 writes the oldest queued record (R436). -/
def execLogRecordWrite (s : State) : Out := .next (logWriteOne s)

end Sys2Proof.Machine
end

