-- ==== Sys2Proof/Machine/Reset.lean ====
section
/-! DEFINITION. The wipe of the secure part (R342), the re-initialisation of pages and domains (R398), and the
resets that run start-up (R405, R406). -/

namespace Sys2Proof.Machine
open Sys2Proof

/-! ### Memory lost -/

/-- The arrays without [lo, hi), which then reads as zeros with tag and poison 0. -/
def memErase (m : Mem) (lo hi : Nat) : Mem :=
  { bytes := m.bytes.filter fun p => !(decide (lo ≤ p.1) && decide (p.1 < hi))
    metas := m.metas.filter fun w => !(decide (lo ≤ 8 * w) && decide (8 * w < hi))
    err := m.err.filter fun p => !(decide (lo ≤ 8 * p.1) && decide (8 * p.1 < hi)) }

/-- Physical address of scratchpad bank `b` (R186). -/
def bankBase (b : Nat) : Nat := spadBase + b * 0x40000

/-! ### Wipes (R342) -/

/-- The operation in progress at a unit ends with WIPED (R336). -/
def wipeHead : List IslOp → List IslOp
  | [] => []
  | o :: os => { o with wiped := true } :: os

/-- The check in progress at the seal unit yields no verdict: its aperture shows WIPED (R364). -/
def wipeCheck (s : State) : State :=
  match (smGet [] s.islQ 0).head? with
  | some o => match o.src with
    | .aperture h a => setAp s h a { apAt s h a with verdict := 0x19 }
    | _ => s
  | none => s

/-- A descriptor that the Cipher accepted before a wipe ends with WIPED (R331): its operation writes OUT0 as zero; one
whose OP is not assigned has no outputs. -/
def wipeDesc (d : EngDesc) : EngDesc :=
  { d with
    wiped := true
    fin := if [1, 2].contains (d.raw.bytes.headD 0).toNat then none else some (0x12, 0)
    aux := []
    auxBad := false
    last := none
    lastXl := none }

/-- A Cipher ring as a wipe begins: a bus error that one of its descriptors met is dropped with the operation. -/
def wipeRing (r : EngRing) : EngRing :=
  { r with descs := r.descs.map wipeDesc, err := r.err.filter fun e => e.who.isNone }

/-- A wipe begins: the operations and descriptors in progress are marked. -/
def wipeBegin (s : State) : State :=
  let s := wipeCheck (rsetB s (pg .lct + 0x118) 8 true)
  let s := closeAps (closeAps s 0 3 fun _ => true) 1 3 fun _ => true
  { s with
    islQ := s.islQ.map fun q => if q.1 = 0 ∨ q.1 = 2 then (q.1, wipeHead q.2) else q
    rings := s.rings.map fun r => if r.1 / 16 = 3 then (r.1, wipeRing r.2) else r }

/-- A wipe starts, or is recorded while D2 is off. A cause during a wipe restarts it: what is held then is not in
progress, and runs afterwards (R342). -/
def wipeStart (s : State) : State :=
  if !domOn s 2 then { s with power := { s.power with tamper := true } }
  else if rbit s (pg .lct + 0x118) 8 then s
  else wipeBegin s

/-- A tamper cause, bit `b` of LCT.TSTAT: counted, logged with TYPE 7, and a wipe (R342, R430). -/
def tamperCause (s : State) (b : Nat) : State :=
  let s := { s with life := { s.life with count := Nat.min (s.life.count + 1) 0xFFFFFFFF, tam := true } }
  let s := intSet (rsetB s (pg .lct + 0x118) b true) .lct 0 0
  wipeStart (logPush s 0 7 0 (pg .lct))

/-- A wipe ends: the secure part and the image key are gone. -/
def wipeFinish (s : State) : State :=
  if !rbit s (pg .lct + 0x118) 8 then s
  else
    let (n, s) := freeNat s
    let s := { s with
      mem := memErase s.mem (bankBase 248) (bankBase 256)
      island := { s.island with keyNo := n, nonce := 0 } }
    let s := rincF s (pg .seal + 0x100) 63 32
    intSet (rsetB s (pg .lct + 0x118) 8 false) .lct 0 1

/-! ### Pages and domains (R398) -/

/-- Every register in [lo, hi) of register space returns to its reset value. -/
def regsErase (rs : SMap Word) (lo hi : Nat) : SMap Word :=
  rs.filter fun p => !(decide (lo ≤ p.1) && decide (p.1 < hi))

/-- A page returns to its Reset values. -/
def reinitPage (s : State) (k : PageKind) (i : Nat) : State :=
  { s with regs := regsErase s.regs (pg k i) (pg k i + 0x1000) }

/-- The pages of a domain (R440). -/
def domPages (d : Nat) : List (PageKind × Nat) :=
  if d = 1 then [(.car, 0), (.gate, 5), (.gate, 6), (.gate, 8), (.spad, 0), (.mov, 0)] ++
    (List.range 64).map fun n => (.movch, n)
  else if d = 2 then [(.seal, 0)]
  else if d < 11 then (.clu, d - 3) :: (List.range 16).map fun k => (.core, 16 * (d - 3) + k)
  else if d < 16 then [(.gate, d - 11), (.mc, d - 11)]
  else if d = 16 then [(.gate, 9), (.gate, 10), (.host, 0), (.host, 1)]
  else if d < 21 then [(.gate, d - 6), (.med, d - 17)]
  else if d = 21 then [(.gate, 15), (.peer, 0), (.peer, 1)]
  else if d = 22 then [(.chk, 0), (.idx, 0), (.cdr, 0), (.cph, 0)]
  else if d = 23 then [(.cdn, 0)]
  else []

/-- The domain that holds a page (R440). -/
def pageDom (k : PageKind) (i : Nat) : Nat :=
  match k with
  | .sys | .pwr | .clk | .sup | .orr | .mer | .keep | .lct | .ras | .tb | .mgmt => 0
  | .clu => 3 + i
  | .core => 3 + i / 16
  | .car | .spad | .mov | .movch => 1
  | .gate => if i < 5 then 11 + i else if i = 7 then 0 else if i < 9 then 1 else if i < 11 then 16
      else if i < 15 then 17 + (i - 11) else 21
  | .mc => 11 + i
  | .chk | .idx | .cdr | .cph => 22
  | .cdn => 23
  | .seal => 2
  | .host => 16
  | .med => 17 + i
  | .peer => 21

/-- Contexts, caches and TLBs of cluster `cl` are gone. -/
def loseCluster (s : State) (cl : Nat) : State :=
  { s with
    ctxs := s.ctxs.filter fun p => decide (p.1 / 256 ≠ cl)
    cores := s.cores.filter fun p => decide (p.1 / 16 ≠ cl)
    clusters := smErase cl s.clusters
    tlbs := s.tlbs.filter fun p => !(decide (p.1 < 256) && decide (p.1 % 128 / 16 = cl)) && decide (p.1 ≠ 256 + cl) }

/-- What the blocks of a domain hold beside their pages is lost as it goes off; port links drop. -/
def loseDomain (s : State) (d : Nat) : State :=
  if d = 2 then { wipeFinish s with ports := [], islQ := [] }
  else if 3 ≤ d ∧ d < 11 then loseCluster s (d - 3)
  else if d = 16 then pcieDown (pcieDown s .host 0) .host 1
  else if 17 ≤ d ∧ d < 21 then setAnchor (pcieDown s .med (d - 17)) .med (d - 17) none
  else if d = 21 then setAnchor (setAnchor (peerDown (peerDown s 0) 1) .peer 0 none) .peer 1 none
  else if d = 22 then { s with
    rings := s.rings.filter fun r => decide (r.1 / 16 = 2), prog := [], progBad := [], codRegs := [], batch := none }
  else if d = 23 then { s with rings := s.rings.filter fun r => decide (r.1 / 16 ≠ 2), dicts := [], laneBad := [] }
  else s

/-- The wipe recorded while D2 was off, which takes place as D2 is powered, before it serves any operation (R342). -/
def wipeRecorded (s : State) : State :=
  if s.power.tamper then wipeFinish (wipeBegin { s with power := { s.power with tamper := false } }) else s

/-- The pages of a domain that is switched on are re-initialised; D2 draws a new image key and completes a wipe
recorded while it was off (R337, R342). -/
def initDomain (s : State) (d : Nat) : State :=
  let s := (domPages d).foldl (fun s p => reinitPage s p.1 p.2) s
  if d = 2 then
    let (n, s) := freeNat s
    wipeRecorded { s with island := { s.island with keyNo := n, nonce := 0 } }
  else if 3 ≤ d ∧ d < 11 then { s with cclkAt := smSet 0 s.cclkAt (d - 3) s.cclk }
  else if 11 ≤ d ∧ d < 16 then { s with scrubHalf := setDel (d - 11) s.scrubHalf }
  else s

/-! ### Start-up (R405, R406) -/

/-- The reset kinds that run start-up. -/
inductive ResetKind where
  | powerOn | supply | device | nadirWake
  deriving DecidableEq, Repr

/-- Registers a supply or device reset leaves (R404, R433): SUP.LOG and SUP.STAT, and the RAS counters and
records. -/
def keptRegs (rs : SMap Word) : SMap Word :=
  rs.filter fun p => ([pg .sup + 0x100, pg .sup + 0x108, pg .ras + 0x030, pg .ras + 0x038, pg .ras + 0x100,
    pg .ras + 0x108, pg .ras + 0x160, pg .ras + 0x168].contains p.1)

/-- What a NADIR wake makes of a register of D0 that it leaves: the EN bits of the watchdogs (R433) and of the stage-2
roots (R154) are cleared. -/
def wakeReg (off : Nat) (v : Word) : Word :=
  if [pg .ras + 0x140, pg .ras + 0x148].contains off then setBit v 63 false
  else if [pg .sys + 0x190, pg .sys + 0x198].contains off then setBit v 0 false
  else v

/-- Registers a NADIR wake leaves: those of D0, but for SYS.PHASE (R451) and MER.DDIG and EPOCH (R426), and those of the
memory field, which self-refresh keeps in retention (R399). -/
def wakeZero : List Nat := (pg .sys + 0x108) :: [0, 8, 16, 24, 32].map (pg .mer + 0x100 + ·)

def nadirRegs (rs : SMap Word) : SMap Word :=
  (rs.filter fun p =>
    (match pageAt p.1 with
      | some (k, i) => decide (pageDom k i = 0) || (decide (11 ≤ pageDom k i) && decide (pageDom k i < 16))
      | none => false) && !(wakeZero.contains p.1)).filterMap fun p =>
    let v := wakeReg p.1 p.2
    if v = regReset p.1 then none else some (p.1, v)

/-- TTEMP of every controller, which belongs to the working settings that self-refresh keeps (R182, R399). -/
def ttempRegs (keep : Bool) (rs : SMap Word) : SMap Word :=
  if keep then
    (rs.filter fun p => match pageAt p.1 with
      | some (k, _) => decide (k = .mc) && decide (p.1 % 0x1000 = 0x118)
      | none => false).filterMap fun p =>
        let v := setFld 0 39 32 (fld p.2 39 32)
        if v = regReset p.1 then none else some (p.1, v)
  else []

/-- Memory after a reset (R405): `dram` and `spad` say what is kept of DRAM and of banks 248 to 255. -/
def memAfter (m : Mem) (dram secure : Bool) : Mem :=
  let m := if dram then m else memErase m 0 0x2000000000
  memErase m spadBase (if secure then bankBase 248 else bankBase 256)

/-- Domain of thermal sensor `n` (R414). -/
def sensorDom (n : Nat) : Nat :=
  if n < 32 then 3 + n / 4 else if n < 37 then 11 + (n - 32) else if n < 45 then 23 else if n < 49 then 22
  else if n < 51 then 16 else if n < 55 then 17 + (n - 51) else if n < 56 then 21 else if n < 60 then 1
  else if n < 62 then 2 else 0

/-- TEMP of sensor `n`. -/
def tempOff (n : Nat) : Nat := pg .orr + 0x300 + 8 * n

/-- DSTAT with domains `on` on and the memory field in state `mem`, whose domains follow it (R412). Sensors of a domain
that is off show FAULT = 0 (R414). -/
def setDomains (s : State) (on mem : Nat) : State :=
  let on := on - nfld on 15 11 * 2 ^ 11 + (if mem = 3 then 0x1F * 2 ^ 11 else 0)
  let off := pg .pwr + 0x108
  let s := (List.range 64).foldl (fun s n =>
    if !on.testBit (sensorDom n) && rbit s (tempOff n) 15 then rsetB s (tempOff n) 15 false else s) s
  rsetF (rsetF s off 23 0 on) off 33 32 mem

/-! ### Divisor and VDD target (R416, R417) -/

def clkStat : Nat := pg .clk + 0x100
def orrAvs : Nat := pg .orr + 0x120

/-- The base value of the VDD target for a divisor, within 650 to 850 mV. -/
def avsBase (s : State) (d : Nat) : Nat := Nat.max 650 (Nat.min 850 (s.orrery.avsTab.getD (d - 3) 0))

/-- The VDD target becomes `t`, which the device writes to the regulator (R459): the levels of VDD follow a falling target
at once (R417). -/
def setTarget (s : State) (t : Nat) : State :=
  rsetF { s with power := { s.power with
    level := Nat.min s.power.level t
    avsOut := if rfld s orrAvs 9 0 = t then s.power.avsOut else s.power.avsOut ++ [t] } } orrAvs 9 0 t

/-- The AVS table of a recalibration is taken up at a divisor change (R429). -/
def avsTake (s : State) : State :=
  match s.orrery.avsNext with
  | none => s
  | some t => rsetB { s with orrery := { s.orrery with avsTab := t, avsNext := none } } orrAvs 16 false

/-- The divisor that R416 asks for. -/
def divWanted (s : State) : Nat :=
  let thr := pg .orr + 0x110
  Nat.max (Nat.max (rfld s thr 27 24) (rfld s thr 19 16)) (if inHold s then 6 else 3)

/-- The divisor is brought to what R416 asks for: a rise is taken at once and the target falls afterwards; a fall first
raises the target, and waits until VDD has settled there (R417). -/
def setDivisor (s : State) : State :=
  let d := divWanted s
  let now := rfld s clkStat 11 8
  let t := rfld s orrAvs 9 0
  let s := if d = now ∨ s.power.settle = some d then s else avsTake s
  let s := { s with power := { s.power with settle := none } }
  if now < d then setTarget (rsetF s clkStat 11 8 d) (avsBase s d)
  else if d < now then
    let s := setTarget s (Nat.max t (avsBase s d))
    if avsBase s d ≤ s.power.level then rsetF s clkStat 11 8 d else { s with power := { s.power with settle := some d } }
  else s

/-- Controller `m` trains, or is due to (R183). -/
def trainOpen (s : State) (m : Nat) : Bool := rbit s (pg .mc m + 0x118) 0 || rbit s (pg .mc m + 0x118) 1

/-- A recalibration that a reset cuts short after its last stack was trained may have reached the Keep: the set then fails
its CRC (R411). Whether it had is a free bit, and its trailer holds free values. -/
def recalCut (s : State) : State :=
  let (n, s) := freeNat s
  if !rbit s (pg .keep + 0x108) 0 || (List.range 5).any (trainOpen s) || !bitAt (Config.freeWord n) 0 then s
  else
    let at_ := keepBase + 0x10000
    let head := leBytes 8 (Config.freeWord (n + 1)).toNat ++ leBytes 4 (Config.freeWord (n + 2)).toNat
    let mem := memPut s.mem (at_ + 65520) head
    let crc := (crc32c (memBytes mem at_ 65532)).toNat
    let f := (Config.freeWord (n + 3)).toNat % 2 ^ 32
    { s with free := n + 4, mem := memPut mem (at_ + 65532) (leBytes 4 (if f = crc then f + 1 else f)) }

def supStat : Nat := pg .sup + 0x108

/-- VDD, VDDS or VDDX has not risen above its warning level plus hysteresis (R460). -/
def railsLow (s : State) : Bool := [0, 1, 3, 4].any (rbit s supStat)

/-- Start-up waits at step 3 of R406 for the rails. -/
def startWaits (s : State) : Bool := decide (rfld s (pg .pwr + 0x128) 7 0 = 3)

/-- Steps 4 to 6 of R406 with the domains `on`: the PLL locks, the boot ROM starts on context 0 with R35, and a recorded
wipe takes place before D2 is seen to be on (R342). -/
def startOn (s : State) (on : Nat) : State :=
  let s := setDomains { s with ctxs := State.reset.ctxs } on (rfld s (pg .pwr + 0x108) 33 32)
  let s := setDivisor (rsetB (rsetB s clkStat 0 true) clkStat 1 (inHold s))
  rset (wipeRecorded s) (pg .pwr + 0x128) 6

/-- The registers after a reset: SUP.STAT.WARN shows the rails as they are, also after a power-on reset (log 57). -/
def resetRegs (s : State) (k : ResetKind) (dram : Bool) : SMap Word :=
  match k with
  | .powerOn => (rset { State.reset with regs := [] } supStat (rget s supStat &&& 0x1B)).regs
  | .nadirWake => nadirRegs s.regs
  | _ => keptRegs s.regs ++ ttempRegs dram s.regs

/-- The device after a reset of kind `k`, at step 6 of R406, or at step 3 with the rails still low (R460). A wipe in
progress completes first (R342). After a NADIR wake PWR.DREQ asks for the memory field and for D2 and D3: the spec gives
no value (log 55). -/
def startReset (s : State) (k : ResetKind) : State :=
  let s := recalCut (wipeFinish s)
  let mem0 := rfld s (pg .pwr + 0x108) 33 32
  let r := State.reset
  let (n, s) := freeNat s
  let wake := decide (k = .nadirWake)
  let cold := decide (k = .powerOn)
  let dram := (wake || decide (k = .device)) && decide (mem0 ≠ 0)
  let t : State := { r with
    regs := resetRegs s k dram
    ctxs := []
    mem := memAfter s.mem dram wake
    tb := if cold then 0 else s.tb
    tbFrac := if cold then 0 else s.tbFrac
    free := s.free
    plogQ := if wake then s.plogQ else []
    plogSeq := s.plogSeq
    plogMs := if cold then [] else s.plogMs
    lastRead := !cold && s.lastRead
    ibiEn := wake && s.ibiEn
    ibiOut := s.ibiOut
    hosts := s.hosts.map fun h => (h.1, { HostPort.idle with io := { PortIo.idle with tx := h.2.io.tx, cpls := h.2.io.cpls }, perst := h.2.perst })
    meds := s.meds.map fun m => (m.1, { MedPort.idle with io := { PortIo.idle with tx := m.2.io.tx, cpls := m.2.io.cpls } })
    peers := s.peers.map fun p => (p.1, { PeerPort.idle with out := p.2.out })
    mgmt := if wake then s.mgmt else { Mgmt.idle with uart := s.mgmt.uart, i3cOut := s.mgmt.i3cOut, jtag := s.mgmt.jtag, nor := s.mgmt.nor }
    power := { Power.idle with
      tamper := s.power.tamper, trip := s.power.trip && !cold, alarmed := wake && s.power.alarmed
      level := if wake then s.power.level else 750
      avsOut := s.power.avsOut ++ (if wake || cold || decide (rfld s orrAvs 9 0 = 750) then [] else [750])
      dipRail := if cold then 0 else s.power.dipRail
      dipDepth := if cold then 0 else s.power.dipDepth
      dipStart := if cold then 0 else s.power.dipStart }
    orrery := if wake then s.orrery else r.orrery
    life := { s.life with noRoot := false, tam := s.life.tam && wake }
    island := { keyNo := n, nonce := 0, meas := [] }
    pending := s.pending }
  let t := setDomains t 1 (if dram then 1 else 0)
  if wake then intSet (startOn (rset t (pg .pwr + 0x100) (wd (3 * 2 ^ 32 + 3 * 4))) 0x0F) .pwr 0 2
  else if railsLow t then rset (rsetB t clkStat 0 false) (pg .pwr + 0x128) 3
  else startOn t 0xFFFFFF

/-- Start-up after a reset. A tamper wipe that was recorded in NADIR and has now been completed is followed by a device
reset where LCT.TCFG.RESET asks for one (R343). -/
def startUp (s : State) (k : ResetKind) : State :=
  let t := startReset s k
  if t.life.tam && rbit t (pg .lct + 0x110) 1 then startReset t .device else { t with life := { t.life with tam := false } }

/-- After a tamper wipe that has ended: the device reset that LCT.TCFG.RESET asks for (R343). -/
def tamperReset (s : State) : State :=
  if !s.life.tam || s.power.tamper || rbit s (pg .lct + 0x118) 8 then s
  else
    let s := { s with life := { s.life with tam := false } }
    if rbit s (pg .lct + 0x110) 1 then startUp s .device else s

/-- A wake source whose bit of PWR.WAKE is `b` (R401): it is taken in NADIR, or after an entry that is under way
(R413). -/
def wakeEvent (s : State) (b : Nat) : State :=
  if !rbit s (pg .pwr + 0x120) b then s
  else if s.power.nadir then startUp s .nadirWake
  else if s.power.entry then { s with power := { s.power with wake := true } }
  else s

/-- A reset that a FATAL event of page `page` causes, with its record written first (R436). -/
def fatalReset (s : State) (typ code page : Nat) (k : ResetKind) : State :=
  startUp (logFlush (rasEvent s 3 typ code page)) k

/-- The end of a wipe (R342), and the device reset that may follow (R343). -/
def wipeEnd (s : State) : State := if !rbit s (pg .lct + 0x118) 8 then s else tamperReset (wipeFinish s)

end Sys2Proof.Machine
end

