-- ==== Sys2Proof/Machine/MovCtl.lean ====
section
/-! DEFINITION. The registers and states of Mover channels (R217 to R220, R224 to R228, R232) and of engine
rings (R239 to R245), with the bells of R206 and R243. -/

namespace Sys2Proof.Machine
open Sys2Proof

/-! ### Mover channels -/

def movAt (s : State) (n : Nat) : MovCh := smGet MovCh.idle s.movs n
def setMov (s : State) (n : Nat) (c : MovCh) : State := { s with movs := smSet MovCh.idle s.movs n c }
def unitAt (s : State) (u : Nat) : MovUnit := smGet MovUnit.idle s.movUnits u
def setUnit (s : State) (u : Nat) (x : MovUnit) : State := { s with movUnits := smSet MovUnit.idle s.movUnits u x }

/-- A channel at rest: nothing to do, and no line kept for a read-back (R167). -/
def MovCh.rest (x : MovCh) : MovCh := { x with phase := .idle, last := none, lastXl := none }

/-- MOVCH[n].STAT. -/
def chStatOff (n : Nat) : Nat := pg .movch n + 0x108

/-- STATE of a channel: 0 DISABLED, 1 STOPPED, 2 RUNNING, 3 STARVED, 4 HALTED. -/
def chState (s : State) (n : Nat) : Nat := rfld s (chStatOff n) 2 0
def setChState (s : State) (n st : Nat) : State := rsetF s (chStatOff n) 2 0 st

/-- The active bank, and its CFG. -/
def chBank (s : State) (n : Nat) : Nat := rfld s (chStatOff n) 6 6
def chCfg (s : State) (n : Nat) : Word := rget s (pg .movch n + 0x120 + 8 * chBank s n)

/-- MOV.GSTAT.HALTED. -/
def movHalted (s : State) : Bool := rbit s (pg .mov + 0x110) 0

/-- Bell `k` of channel `n` (R206). -/
def chRing (s : State) (n k : Nat) : State := ringBell s (512 + 8 * n + k)

/-- The window reads of channel `n` serve it no more: their answers are lost (R224, R225). -/
def movDrop (s : State) (n : Nat) : State := abandon (fun k => decide (keyCls k = 4) && decide (keySrc k = n)) s

/-- The unit of a channel does not hold it any more. -/
def releaseUnit (s : State) (n : Nat) : State :=
  let x := unitAt s (n / 16)
  if x.cur = some n then setUnit s (n / 16) { x with cur := none } else s

/-- A channel stops (R220): WHERE, STOPCODE and STOPKIND, and ERROR is rung for a STOPCODE. -/
def chStop (s : State) (n wh code kind : Nat) : State :=
  let off := chStatOff n
  let s := rsetF (rsetF (rsetF (setChState s n 1) off 29 28 wh) off 39 32 code) off 47 40 kind
  let s := movDrop (releaseUnit (setMov s n (movAt s n).rest) n) n
  if code = 0 then s else chRing s n 1

/-- The shadow bank becomes active (R219): its anchor is read next, and PROMOTED is rung. -/
def chPromote (s : State) (n : Nat) : State :=
  let off := chStatOff n
  chRing (rsetF (rsetB s off 7 false) off 6 6 (1 - chBank s n)) n 4

/-- START (R219, R220, R223). -/
def chStart (s : State) (n : Nat) (step : Bool) : State :=
  if chState s n ≠ 1 then s
  else
    let off := chStatOff n
    let s := rsetF (rsetF (rsetF (setChState s n 2) off 29 28 0) off 39 32 0) off 47 40 0
    let s := setMov s n { movAt s n with phase := .anchor, step := step, credit := 4096 }
    if rbit s off 7 then chPromote s n else s

/-- A kick (R217). -/
def chKick (s : State) (n : Nat) : State :=
  if chState s n = 3 then setMov (setChState s n 2) n { movAt s n with phase := .fetch }
  else if chState s n = 2 then rsetB s (chStatOff n) 8 true
  else s

/-- DISABLE (R224): the channel is dropped with its data in flight, and PROG becomes undefined. A bus error that it met
still halts the others (R228). -/
def chDisable (s : State) (n : Nat) : State :=
  if chState s n = 0 then s
  else
    let (k, s) := freeNat s
    let s := movDrop (releaseUnit (setMov (setChState s n 0) n (movAt s n).rest) n) n
    rset s (pg .movch n + 0x118) (Config.freeWord k)

/-- A write of CMD (R220, R228). -/
def chCmd (s : State) (n : Nat) (v : Word) : State :=
  if bitAt v 4 then chDisable s n
  else if movHalted s then s
  else
    let s := if bitAt v 5 && decide (chState s n = 0) then setChState s n 1 else s
    let s := if bitAt v 1 && decide (chState s n ≠ 0) && decide (chState s n ≠ 4) then rsetB s (chStatOff n) 7 true else s
    let s := if bitAt v 0 then chStart s n (bitAt v 3) else s
    if bitAt v 2 then chKick s n else s

/-- MOV.GCTRL.CLEAR (R227). -/
def movClear (s : State) : State :=
  if (List.range 64).any fun n => decide (chState s n = 4) then
    let s := (List.range 64).foldl (fun s n =>
      if chState s n = 4 then rsetB (setChState s n 1) (chStatOff n) 8 false else s) s
    rsetB s (pg .mov + 0x110) 0 false
  else s

/-- KICK bell of a channel taken (R206). -/
def execKickBell (ch : BitVec 6) (s : State) : Out :=
  let n := ch.toNat
  let b := 512 + 8 * n + 7
  if bellPending s b then
    let s := { s with bells := setDel b s.bells }
    .next (if movHalted s then s else chKick s n)
  else .next s

/-- The first of `ns` after `l` in cyclic order. -/
def afterLast (ns : List Nat) (l : Option Nat) : Option Nat :=
  match l with
  | none => ns.head?
  | some x => match ns.find? fun n => decide (x < n) with
    | some n => some n
    | none => ns.head?

/-! ### Engine rings -/

/-- Number of an engine (R204). -/
def engNum : Eng → Nat
  | .chk => 0 | .idx => 1 | .cdn => 2 | .cph => 3 | .cdr => 4

/-- Page of an engine. -/
def engPage : Eng → PageKind
  | .chk => .chk | .idx => .idx | .cdn => .cdn | .cph => .cph | .cdr => .cdr

def ringAt (s : State) (e : Eng) (r : Nat) : EngRing := smGet EngRing.idle s.rings (engNum e * 16 + r)
def setRing (s : State) (e : Eng) (r : Nat) (x : EngRing) : State :=
  { s with rings := smSet EngRing.idle s.rings (engNum e * 16 + r) x }

def rcfg (s : State) (e : Eng) (r : Nat) : Word := rget s (pg (engPage e) + 0x880 + 8 * r)
def rstatOff (e : Eng) (r : Nat) : Nat := pg (engPage e) + 0x980 + 8 * r

/-- STATE of a ring: 0 STOPPED, 1 RUNNING, 2 STARVED, 3 STOPPING. -/
def ringState (s : State) (e : Eng) (r : Nat) : Nat := rfld s (rstatOff e r) 1 0
def setRingState (s : State) (e : Eng) (r st : Nat) : State := rsetF s (rstatOff e r) 1 0 st

/-- HEAD, and the number of slots (R244): LOG2N of 13 to 15 acts as 0. -/
def ringHead (s : State) (e : Eng) (r : Nat) : Nat := rfld s (rstatOff e r) 27 16
def setRingHead (s : State) (e : Eng) (r h : Nat) : State := rsetF s (rstatOff e r) 27 16 h
def ringLog2n (s : State) (e : Eng) (r : Nat) : Nat :=
  let n := fld (rcfg s e r) 3 0
  if 12 < n then 0 else n

/-- Bell `k` of a ring (R243). -/
def engRing (s : State) (e : Eng) (r k : Nat) : State := ringBell s (1024 + 64 * engNum e + 4 * r + k)

/-- The source of a ring's transactions: SOURCE of R204 and, above it, the ring (`sourceOf`); those of its fetches. -/
def engSrc (e : Eng) (r : Nat) : Nat := engNum e + 16 * (r + 1)
def fetchSrc (e : Eng) (r : Nat) : Nat := engSrc e r + 512

/-- The window reads of a ring serve it no more. -/
def engDrop (s : State) (e : Eng) (r : Nat) : State :=
  abandon (fun k => decide (keyCls k = 5) && decide (keySrc k % 512 = engSrc e r)) s

/-- A ring becomes STOPPED: the stop is recorded, ERROR is rung for a STOPCODE, then STOPPED, and INT_RAW bit 1
is raised (R241 to R244). -/
def ringStop (s : State) (e : Eng) (r wh code kind : Nat) : State :=
  let off := rstatOff e r
  let s := rsetF (rsetF (rsetF (setRingState s e r 0) off 29 28 wh) off 39 32 code) off 47 40 kind
  let s := engDrop (setRing s e r { ringAt s e r with phase := .idle, descs := [], err := none }) e r
  let s := if code = 0 then s else engRing s e r 1
  intSet (engRing s e r 2) (engPage e) 0 1

/-- STOP (R244): the ring accepts no more, and is STOPPED once what it accepted has completed. -/
def ringStopReq (s : State) (e : Eng) (r : Nat) : State :=
  if ringState s e r = 1 ∨ ringState s e r = 2 then
    let x := ringAt s e r
    if x.descs = [] then ringStop s e r 0 0 0
    else setRing (setRingState s e r 3) e r { x with phase := .idle }
  else s

/-- START (R244): from STOPPED the anchor is read, after REWIND has set HEAD to 0. -/
def ringStart (s : State) (e : Eng) (r : Nat) (rewind : Bool) : State :=
  if ringState s e r ≠ 0 ∨ ringLog2n s e r = 0 then s
  else
    let off := rstatOff e r
    let s := if rewind then setRingHead s e r 0 else s
    let s := rsetF (rsetF (rsetF (setRingState s e r 1) off 29 28 0) off 39 32 0) off 47 40 0
    setRing s e r { ringAt s e r with phase := .anchor }

/-- A kick (R240, R217). -/
def ringKick (s : State) (e : Eng) (r : Nat) : State :=
  if ringState s e r = 2 then setRing (setRingState s e r 1) e r { ringAt s e r with phase := .fetch }
  else if ringState s e r = 1 then rsetB s (rstatOff e r) 8 true
  else s

/-- A write of RCMD (R244, R245). -/
def ringCmd (s : State) (e : Eng) (r : Nat) (v : Word) : State :=
  if bitAt v 2 then ringStopReq s e r
  else
    let s := if bitAt v 0 then ringStart s e r (bitAt v 3) else s
    if bitAt v 1 then ringKick s e r else s

/-- KICK bell of a ring taken (R243). -/
def execRingKickBell (e : Eng) (r : BitVec 4) (s : State) : Out :=
  let b := 1024 + 64 * engNum e + 4 * r.toNat + 3
  if bellPending s b then .next (ringKick { s with bells := setDel b s.bells } e r.toNat)
  else .next s

/-- Every ring of an engine is STOPPED. -/
def ringsStopped (s : State) (e : Eng) : Bool := (List.range 16).all fun r => decide (ringState s e r = 0)

/-- The open batch closes with its changes discarded (R270). -/
def batchClose (s : State) : State := rsetB { s with batch := none } (pg .idx + 0x118) 63 false

/-- IDX.CMD.ABORT (R270): acts while the owning ring is STOPPED. -/
def batchAbort (s : State) : State :=
  match s.batch with
  | none => s
  | some b => if ringState s .idx b.ring = 0 then batchClose s else s

end Sys2Proof.Machine
end

