-- ==== Sys2Proof/Machine/EngLane.lean ====
section
/-! DEFINITION. Which descriptor of an engine starts next: the fields of a descriptor (R234), what a descriptor waits for
(R259, R265, R277, R288, R310), the lanes (R240, R276, R309), and the selection of rings (R240). -/

namespace Sys2Proof.Machine
open Sys2Proof

def engDom (e : Eng) : Nat := if e = .cdn then 23 else 22

/-- The engine works: its domain is on and the device has not stopped. -/
def engLive (s : State) (e : Eng) : Bool := domOn s (engDom e) && !stopped s && !s.power.nadir

/-! ### Descriptors (R233, R234) -/

def edWord (d : RData) (off : Nat) : Word := wd (leAt d.bytes off 8)
def edOp (d : RData) : Nat := fld (edWord d 0) 7 0
/-- FLAGS bit `b` of CTRL, numbered as in CTRL. -/
def edFlag (d : RData) (b : Nat) : Bool := bitAt (edWord d 0) b
def edFlags (d : RData) : Nat := fld (edWord d 0) 15 10
/-- PARAM i. -/
def edParam (d : RData) (i : Nat) : Word := edWord d (if i = 0 then 8 else 0x48 + 8 * i)

def descAt (s : State) (e : Eng) (r i : Nat) : Option EngDesc := (ringAt s e r).descs[i]?
def setDesc (s : State) (e : Eng) (r i : Nat) (d : EngDesc) : State :=
  let x := ringAt s e r
  setRing s e r { x with descs := x.descs.set i d }

/-- The fault class of R235. -/
def faultCode (c : Nat) : Bool := [2, 3, 4, 5, 7].contains c

/-- The descriptor has ended in the fault class. -/
def descFailed (d : EngDesc) : Bool := d.fin.any fun f => faultCode (fld f.1 7 0)

/-- Descriptors that an engine has accepted and not completed. -/
def engOpen (s : State) (e : Eng) : List EngDesc := (List.range 16).flatMap fun r => (ringAt s e r).descs

/-! ### What a descriptor waits for -/

/-- SLOT of DLOAD, DFREE and PDEC, and of PCOMP (R278). -/
def cdnSlot (d : RData) : Nat := if edOp d = 1 then fld (edParam d 1) 11 8 else fld (edParam d 1) 3 0

def isDictOp (d : EngDesc) : Bool := decide (edOp d.raw = 3) || decide (edOp d.raw = 4)

/-- A descriptor that uses dictionary slots: every PDEC, and PCOMP with USEDICT naming slot `k`. -/
def usesDict (k : Nat) (d : EngDesc) : Bool :=
  decide (edOp d.raw = 2) || (decide (edOp d.raw = 1) && edFlag d.raw 11 && decide (cdnSlot d.raw = k))

/-- A dictionary operation waits for the users of its slot, and for the dictionary operations of the slot, accepted before
it (R288). -/
def dictHeld (s : State) (d : EngDesc) : Bool :=
  (engOpen s .cdn).any fun x => decide (x.seq < d.seq) &&
    ((isDictOp x && decide (cdnSlot x.raw = cdnSlot d.raw)) || usesDict (cdnSlot d.raw) x)

/-- A user of dictionaries waits for the dictionary operations accepted before it (R288). -/
def dictWait (s : State) (d : EngDesc) : Bool :=
  (engOpen s .cdn).any fun x => decide (x.seq < d.seq) && isDictOp x && usesDict (cdnSlot x.raw) d

/-- A descriptor of the Coder with one of these OPs was accepted before `d` and has not completed (R310). -/
def cdrBefore (s : State) (d : EngDesc) (ops : List Nat) : Bool :=
  (engOpen s .cdr).any fun x => decide (x.seq < d.seq) && ops.contains (edOp x.raw)

/-- An OPEN that has passed its tests and waits for the batch to close (R265). -/
def openWaits (d : EngDesc) : Bool := d.begun && d.fin.isNone && d.lane.isNone

/-- The OPEN `d` of ring `r` waits: while another ring owns the batch and, when none is open, behind the OPENs that waited
for it (R265). -/
def openHeld (s : State) (r : Nat) (d : EngDesc) : Bool :=
  match s.batch with
  | some b => d.begun || decide (b.ring ≠ r)
  | none => !d.begun && (engOpen s .idx).any openWaits

/-- What the spec has a descriptor wait for beside a free lane. -/
def engHeld (s : State) (e : Eng) (r : Nat) (d : EngDesc) : Bool :=
  match e, edOp d.raw with
  | .idx, 1 => openHeld s r d
  | .cdn, 1 | .cdn, 2 => dictWait s d
  | .cdn, 3 | .cdn, 4 => dictHeld s d
  | .cdr, 1 => cdrBefore s d [2]
  | .cdr, 2 => cdrBefore s d [1, 2]
  | _, _ => false

/-- The descriptor starts only once every earlier one of its ring has completed: a CHUNK that continues a stream (R259), the
operations of the Index (R264), dictionary operations (R278) and PLOAD. -/
def engSerial (e : Eng) (d : RData) : Bool :=
  match e, edOp d with
  | .chk, 1 => !edFlag d 10
  | .idx, _ | .cdn, 3 | .cdn, 4 | .cdr, 2 => true
  | _, _ => false

/-! ### Lanes -/

/-- LANEEN, with 0 acting as lane 0. -/
def laneEn (s : State) (e : Eng) (o : Nat) : Word :=
  let v := rget s (pg (engPage e) + o)
  if v = 0 then 1 else v

/-- The lanes that an OP may run on; none where it uses no lane. -/
def laneMask (s : State) (e : Eng) (op : Nat) : Option Word :=
  let en := rget s (pg .cdn + 0x108)
  let deep := rget s (pg .cdn + 0x100)
  match e, op with
  | .chk, _ => some (laneEn s .chk 0x108)
  | .cdn, 1 | .cdn, 2 => some (en &&& ~~~ deep)
  | .cdn, 8 | .cdn, 9 => some (en &&& deep)
  | .cph, _ => some (laneEn s .cph 0x100)
  | .cdr, 1 | .cdr, 3 => some (laneEn s .cdr 0x100)
  | _, _ => none

/-- The lanes that run a descriptor, each from its start to its completion (R276, R309). -/
def lanesBusy (s : State) (e : Eng) : List Nat := (engOpen s e).filterMap (·.lane)

/-- The lane that an OP would be placed on: the lowest free one of those enabled for it; 64 where it uses none. -/
def laneFree (s : State) (e : Eng) (op : Nat) : Option Nat :=
  match laneMask s e op with
  | none => some 64
  | some m => (List.range 64).find? fun k => bitAt m k && !(lanesBusy s e).contains k

/-- BUSY of LANESTAT (R290, R322, R331). -/
def laneBits (s : State) (e : Eng) : Word :=
  wd ((List.range 64).map fun k => if (lanesBusy s e).contains k then 2 ^ k else 0).sum

/-- The lane on which descriptor `i` of a ring may start now. -/
def engStart (s : State) (e : Eng) (r i : Nat) (d : EngDesc) : Option Nat :=
  if d.fin.isSome || d.lane.isSome || engHeld s e r d || (engSerial e d.raw && decide (i ≠ 0)) then none
  else laneFree s e (edOp d.raw)

/-- A descriptor of the ring waits as R265, R277, R288 or R310 has it wait: its ring stays RUNNING and takes no further
slot meanwhile. -/
def ringWaits (s : State) (e : Eng) (r : Nat) : Bool :=
  (ringAt s e r).descs.any fun d => d.fin.isNone && d.lane.isNone &&
    (engHeld s e r d || decide (laneMask s e (edOp d.raw) = some 0))

/-! ### Selection (R240) -/

def ringPri (s : State) (e : Eng) (r : Nat) : Nat := fld (rcfg s e r) 11 10

/-- Place in a ring of the descriptor that may start: descriptors of a ring start in slot order (log 42). -/
def ringNext (s : State) (e : Eng) (r : Nat) : Option Nat :=
  let x := ringAt s e r
  if x.err.isSome then none
  else ((x.descs.zipIdx.find? fun p => p.1.fin.isNone && p.1.lane.isNone).filter fun p =>
    !(x.descs.take p.2).any descFailed && (engStart s e r p.2 p.1).isSome).map (·.2)

/-- The ring chosen among `ns`: the highest PRI, and among equals the next in rotation. -/
def ringPick (s : State) (e : Eng) (stage : Nat) (ns : List Nat) : Option Nat :=
  let p := (ns.map (ringPri s e)).foldl Nat.max 0
  afterLast (ns.filter fun n => decide (ringPri s e n = p)) (smFind s.engLast (engNum e * 8 + stage * 4 + p))

/-- Ring `r` has been chosen. -/
def ringChosen (s : State) (e : Eng) (stage r : Nat) : State :=
  { s with engLast := smPut (engNum e * 8 + stage * 4 + ringPri s e r) r s.engLast }

/-- Descriptor `i` of ring `r` is the one that the engine starts next. -/
def engTurn (s : State) (e : Eng) (r i : Nat) : Bool :=
  decide (ringNext s e r = some i) &&
    decide (ringPick s e 1 ((List.range 16).filter fun n => (ringNext s e n).isSome) = some r)

/-- A descriptor that starts takes its lane. -/
def engPlace (s : State) (e : Eng) (r i : Nat) (d : EngDesc) : EngDesc × State :=
  match d.lane with
  | some _ => (d, s)
  | none =>
    let d' := { d with lane := engStart s e r i d }
    (d', ringChosen (setDesc s e r i d') e 1 r)

end Sys2Proof.Machine
end

