-- ==== Sys2Proof/Machine/PowerCtl.lean ====
section
/-! DEFINITION. Power domains and the memory field (R398 to R400, R412, R413), the timebase (R397), the supplies
(R402 to R404), the divisor of CCLK (R416, R417), the watchdogs (R433), loss of lock (R434), the planner's
acknowledgement (R422), scratchpad bank requests (R187, R188), life-cycle requests (R343) and the injection
points that fire at once (R438). -/

namespace Sys2Proof.Machine
open Sys2Proof

/-! ### Domains -/

def dstatOff : Nat := pg .pwr + 0x108

/-- A request is refused (R412); the page has not rung yet (R448). -/
def pwrRefuse (s : State) (reason : Nat) : State :=
  rsetB (rsetB (rsetF s dstatOff 47 40 reason) dstatOff 35 true) (pg .pwr + 0x018) 1 true

/-- Why domain `d` may not be switched off, 0 if it may (R398, R412). -/
def offRefusal (s : State) (d : Nat) : Nat :=
  if d = 2 then (if s.islQ.any fun q => decide (q.2 ≠ []) then 6 else 0)
  else if d < 11 then (if s.ctxs.any fun p => decide (p.1 / 256 = d - 3) && decide (p.2.run ≠ .empty) then 2 else 0)
  else if d = 22 then
    if !(ringsStopped s .chk && ringsStopped s .idx && ringsStopped s .cph && ringsStopped s .cdr) then 3
    else if s.batch.isSome then 4 else 0
  else if d = 23 then (if ringsStopped s .cdn then 0 else 3)
  else 0

/-- The domains DREQ asks for; D0 and D1 stay on. -/
def dreqOn (v : Word) : Nat := 3 + fld v 10 2 * 4 + fld v 23 16 * 2 ^ 16

/-- The domains that DREQ can switch. -/
def reqDoms : List Nat := [2, 3, 4, 5, 6, 7, 8, 9, 10, 16, 17, 18, 19, 20, 21, 22, 23]

/-- One domain of a DREQ write: its request bit changes, or the request is refused. -/
def dreqDom (v : Word) (s : State) (d : Nat) : State :=
  let off := pg .pwr + 0x100
  let want := bitAt v d
  if want = rbit s off d then s
  else if want then rsetB s off d true
  else
    let why := offRefusal s d
    if why ≠ 0 then pwrRefuse s why else rsetB s off d false

/-- Some request of a DREQ write is refused. -/
def dreqBad (s : State) (v : Word) : Bool :=
  (reqDoms.any fun d => !bitAt v d && rbit s (pg .pwr + 0x100) d && decide (offRefusal s d ≠ 0)) ||
    (decide (fld v 33 32 = 1) && decide (rfld s dstatOff 33 32 = 0))

/-- The memory field of a DREQ write: 2 leaves it unchanged, and only the transitions of R399 are taken. -/
def dreqMem (v : Word) (s : State) : State :=
  let m := fld v 33 32
  if m = 2 then s
  else if m = 1 ∧ rfld s dstatOff 33 32 = 0 then pwrRefuse s 1
  else rsetF s (pg .pwr + 0x100) 33 32 m

/-- A DREQ write acts (R398, R412): refused requests leave their bits, and a transition starts if anything is to
change. The link of a port domain drops at once. -/
def dreqApply (s : State) (v : Word) : State :=
  let bad := dreqBad s v
  let s := dreqMem v (reqDoms.foldl (dreqDom v) s)
  let s := if bad then ringBits s .pwr 0 [1] else s
  let r := rget s (pg .pwr + 0x100)
  let on := dreqOn r
  let now := rfld s dstatOff 23 0
  let mem := fld r 33 32
  if on = now - nfld now 15 11 * 2 ^ 11 ∧ mem = rfld s dstatOff 33 32 then s
  else
    let s := [16, 17, 18, 19, 20, 21].foldl (fun s d => if now.testBit d && !on.testBit d then loseDomain s d else s) s
    rsetB { s with power := { s.power with cur := some (on, mem) } } dstatOff 34 true

/-- Entry to NADIR begins, a domain transition (R401). -/
def nadirBegin (s : State) : State :=
  let mem := if rfld s dstatOff 33 32 = 0 then 0 else 1
  rsetB { s with power := { s.power with cur := some (1, mem), entry := true } } dstatOff 34 true

/-- A request that starts a transition: a DREQ write, or none for an entry to NADIR. -/
def pwrBegin (s : State) (v : Option Word) : State :=
  match v with
  | some v => dreqApply s v
  | none => nadirBegin s

/-- A request is queued while a transition is in progress or in HOLD, and behind those queued (R403, R413). -/
def pwrRequest (s : State) (v : Option Word) : State :=
  if rbit s dstatOff 34 || inHold s || decide (s.power.queue ≠ []) then
    { s with power := { s.power with queue := s.power.queue ++ [v] } }
  else pwrBegin s v

/-- A write of DREQ. -/
def dreqWrite (s : State) (v : Word) : State := pwrRequest s (some v)

/-- Queued requests act in order until one starts a transition. -/
def dreqNext : Nat → State → State
  | 0, s => s
  | n + 1, s =>
    match s.power.queue with
    | [] => s
    | v :: q =>
      if rbit s dstatOff 34 || inHold s then s
      else dreqNext n (pwrBegin { s with power := { s.power with queue := q } } v)

/-! ### The calibration set (R410, R411) -/

/-- The calibration set in the Keep, without its trailer, and the trailer. -/
def calBase : Nat := keepBase + 0x10000
def calSeq (s : State) : Nat := leNat (memBytes s.mem (calBase + 65520) 8)
def calOrigin (s : State) : Nat := leNat (memBytes s.mem (calBase + 65528) 4)

/-- The stored set passes R411. -/
def calValid (s : State) : Bool :=
  decide (crc32c (memBytes s.mem calBase 65532) = BitVec.ofNat 32 (leNat (memBytes s.mem (calBase + 65532) 4))) &&
    (decide (calOrigin s = 1) || decide (calOrigin s = 2))

/-- The bytes of the stored set, and the base values of its AVS table (R410). -/
def calTable (s : State) : List Nat :=
  let set := memBytes s.mem calBase 65520
  (List.range 10).map fun i => Config.avsBase set (i + 3)

/-- The temperature recorded with the set (R407, R410). -/
def calTemp (s : State) : Nat := (Config.calTemp (memBytes s.mem calBase 65520)).toNat

def setTtemp (s : State) (m t : Nat) : State := rsetF s (pg .mc m + 0x118) 39 32 t

/-- The HBM initialisation of R407 as the memory field comes on from OFF by a request of R399: with the eye settings of a
valid set, whose temperature every controller takes, or by training each stack at the temperature it has then. -/
def hbmInit (s : State) : State :=
  (List.range 5).foldl (fun s m =>
    setTtemp s m (if calValid s then calTemp s else rfld s (tempOff (32 + m)) 9 2)) s

/-- The domains and the memory field reach the state requested: blocks switched off are lost, blocks switched on
re-initialised (R398, R399). -/
def domainsReach (s : State) (on mem : Nat) : State :=
  let now := rfld s dstatOff 23 0
  let was := rfld s dstatOff 33 32
  let ds := [1, 2, 3, 4, 5, 6, 7, 8, 9, 10, 16, 17, 18, 19, 20, 21, 22, 23]
  let s := ds.foldl (fun s d => if now.testBit d && !on.testBit d then loseDomain s d else s) s
  let s := if mem = 0 then { s with mem := memErase s.mem 0 0x2000000000 } else s
  let s := setDomains s on mem
  let s := if was = 0 ∧ mem = 3 then hbmInit ([11, 12, 13, 14, 15].foldl initDomain s) else s
  ds.foldl (fun s d => if !now.testBit d && on.testBit d then initDomain s d else s) s

/-- PWR.STATE (R400). -/
def pwrState (s : State) : Nat :=
  let on := rfld s dstatOff 23 0
  let mem := rfld s dstatOff 33 32
  let cl := popcount 8 (nfld on 10 3)
  if s.power.nadir then 3
  else if on = 0xFFFFFF ∧ mem = 3 then 0
  else if mem = 3 ∧ cl ≤ 4 ∧ !on.testBit 22 ∧ !on.testBit 23 then 1
  else if mem = 1 ∧ cl = 1 ∧ nfld on 23 11 = 0 ∧ !on.testBit 2 then 2
  else 7

/-- PWR.CMD.NADIR (R401): accepted from a CS context while every other context is EMPTY. In HOLD, and behind a transition
in progress, the entry waits (R403, R413). -/
def nadirReq (s : State) (ic : InitClass) (src : Nat) : State :=
  if ic = 3 ∧ s.ctxs.all (fun p => decide (p.1 = src % 2048) || decide (p.2.run = .empty)) = true then
    pwrRequest s none
  else ringBits (pwrRefuse s 5) .pwr 0 [1]

/-- A write of PWR.CMD (R412, R413). -/
def pwrCmd (s : State) (v : Word) (ic : InitClass) (src : Nat) : State :=
  if bitAt v 0 then (if ic = 3 then startUp s .device else s)
  else if bitAt v 1 then nadirReq s ic src
  else s

/-! ### Timebase (R397) -/

/-- TB.SET. -/
def tbSet (s : State) (v : Word) : State :=
  if s.tb.toNat < v.toNat then { s with tb := v, tbFrac := 0 } else s

/-! ### Supplies (R402 to R404) -/

/-- A rail falls below its warning level: HOLD (R403). -/
def holdEnter (s : State) (rail depth : Nat) : State :=
  let s := rsetB s supStat rail true
  if inHold s then
    { s with power := { s.power with dipDepth := Nat.max s.power.dipDepth depth } }
  else
    let s := { s with power := { s.power with dipRail := rail, dipDepth := depth, dipStart := s.tb } }
    let s := rsetB (rsetB s supStat 8 true) clkStat 1 true
    intSet (setDivisor s) .sup 0 0

/-- Initiators that wait at a port try again. -/
def wakePorts (s : State) : State := s.ctxs.foldl (fun s p => wakeIf s (BitVec.ofNat 11 p.1) .port) s

/-- A level of `depth` mV below the set-point of a rail lies below its warning level (R402). That of VDD is 8 % below the
target that VDD has reached (R417). -/
def railLow (s : State) (rail depth : Nat) : Bool :=
  if rail = 0 then decide (100 * ((rfld s orrAvs 9 0 : Int) - depth) < 92 * s.power.level)
  else decide ([64, 60, 60, 96].getD (rail - 1) 0 < depth)

/-- A level of `depth` mV below the set-point of a rail is at its reset level (R402): 85 % of the target for VDD, 0.68 V,
0.6375 V, 0.6375 V and 1.02 V for the others. -/
def railReset (s : State) (rail depth : Nat) : Bool :=
  if rail = 0 then decide (100 * ((rfld s orrAvs 9 0 : Int) - depth) ≤ 85 * s.power.level)
  else decide ([240, 225, 225, 360].getD (rail - 1) 0 ≤ 2 * depth)

/-- HOLD ends and the dip is recorded (R403, R404). -/
def holdLeave (s : State) : State :=
  if !inHold s then s
  else
    let log := pg .sup + 0x100
    let us := Nat.min ((s.tb.toNat - s.power.dipStart.toNat) / 100) 0xFFFF
    let s := rsetF (rsetB (rsetB s supStat 8 false) clkStat 1 false) supStat 4 0 0
    let s := rsatF s log 63 48 1
    let s := rsetF (rsetF (rsetF s log 35 32 s.power.dipRail) log 31 16 s.power.dipDepth) log 15 0 us
    let s := rasEvent (intSet (setDivisor s) .sup 0 1) 0 1 0 (pg .sup)
    wakePorts (dreqNext s.power.queue.length s)

/-- An orderly stop (R404): nothing runs until a reset. -/
def stopOrderly (s : State) : State :=
  if s.power.halted then s
  else
    let s := { s with power := { s.power with halted := true } }
    let s := if rfld s dstatOff 33 32 = 3 then setDomains s (rfld s dstatOff 23 0) 1 else s
    let s := rasEvent s 3 3 s.power.dipRail (pg .sup)
    let s := logFlush s
    intSet (rsetB s supStat 9 true) .sup 0 2

/-! ### Watchdogs (R433) and the clock monitor (R434) -/

def swdOff (w : Nat) : Nat := pg .ras + 0x140 + 8 * w

/-- PERIOD in force. -/
def swdPeriod (s : State) (w : Nat) : Nat := Nat.max 1000 (rfld s (swdOff w) 47 0)

def swdReload (s : State) (w : Nat) : State := { s with swdLeft := smPut w (swdPeriod s w) s.swdLeft }

/-- One expiry of a watchdog. -/
def swdExpire (s : State) (w : Nat) : State :=
  if !rbit s (swdOff w) 62 then
    rasEvent (intSet (swdReload (rsetB s (swdOff w) 62 true) w) .ras 0 (1 + w)) 2 4 w (pg .ras)
  else fatalReset s 4 w (pg .ras) .device

/-- Watchdog `w` may be written by this class. -/
def swdClass (w : Nat) (ic : InitClass) : Bool := decide (ic = 3) || (decide (w = 0) && decide (ic = 1))

/-- SWDKICK. -/
def swdKick (s : State) (v : Word) (ic : InitClass) : State :=
  [0, 1].foldl (fun s w =>
    if bitAt v w && swdClass w ic then
      let s := rsetB s (swdOff w) 62 false
      if rbit s (swdOff w) 63 then swdReload s w else s
    else s) s

/-- A write of SWD[w] that the class may make. -/
def swdSet (s : State) (w : Nat) (v : Word) : State :=
  let off := swdOff w
  let was := rbit s off 63
  let s := rsetF (rsetB s off 63 (bitAt v 63)) off 47 0 (fld v 47 0)
  if bitAt v 63 && !was then swdReload s w
  else if bitAt v 63 then s
  else { s with swdLeft := smErase w s.swdLeft }

/-- Loss of PLL lock (R434). -/
def lockLost (s : State) : State :=
  fatalReset (intSet (rsetB s clkStat 0 false) .clk 0 0) 5 0 (pg .clk) .device

/-! ### The planner (R422) -/

def decisionOff : Nat := pg .orr + 0x160
def reqOff (i : Nat) : Nat := pg .orr + 0x800 + 16 * i
def pcfgOff : Nat := pg .orr + 0x158

/-- DACK. -/
def dackWrite (s : State) (v : Word) : State :=
  if rbit s decisionOff 63 && decide (fld v 7 0 = rfld s decisionOff 55 48) then
    let off := reqOff (rfld s decisionOff 37 32)
    let s := rsetB s decisionOff 63 false
    if bitAt v 8 then intSet (rsetB (rsetB (rsetB s off 63 false) off 62 false) off 59 false) .orr 0 3
    else intSet (rsetB (rsetB s off 62 false) off 59 true) .orr 0 4
  else rsetB s pcfgOff 63 true

/-- REQ_A[i]. -/
def reqAWrite (s : State) (i : Nat) (v : Word) : State :=
  if rbit s (reqOff i) 62 then rsetB s pcfgOff 63 true
  else rset s (reqOff i) (v &&& 0xB3FFFFFFFFFFFFFF)

/-! ### Scratchpad banks (R187, R188) -/

def bankReqOff (b : Nat) : Nat := pg .spad + 0x100 + b / 32 * 8
def bankStatOff (b : Nat) : Nat := pg .spad + 0x140 + b / 32 * 8
def setBank (s : State) (b st : Nat) : State := rsetF s (bankStatOff b) (b % 32 * 2 + 1) (b % 32 * 2) st
def bankReq (s : State) (b : Nat) : Nat := rfld s (bankReqOff b) (b % 32 * 2 + 1) (b % 32 * 2)

/-- One bank of a BANKREQ write; what goes off loses its contents, which is the zeros that it holds when it is
next on. A write for a bank in transition joins that transition, which ends in the state written last, with one INT_RAW bit
(log 91). -/
def bankReqOne (v : Word) (n : Nat) (s : State) (j : Nat) : State :=
  let b := 32 * n + j
  let x := fld v (2 * j + 1) (2 * j)
  if x = 2 ∨ (248 ≤ b ∧ x ≠ 3) then s
  else
    let s := rsetF s (bankReqOff b) (2 * j + 1) (2 * j) x
    let st := bankState s b
    if st = x then s
    else
      let s := setBank s b 2
      if x = 0 then { s with mem := memErase s.mem (bankBase b) (bankBase (b + 1)) } else s

/-- A write of BANKREQ[n]. -/
def bankReqWrite (s : State) (n : Nat) (v : Word) : State := (List.range 32).foldl (bankReqOne v n) s

/-! ### Life cycle (R343) -/

/-- LCT.ADV; a write while BUSY is discarded. -/
def advWrite (s : State) (v : Word) : State :=
  let off := pg .lct + 0x100
  let t := fld v 2 0
  if rbit s off 8 then s
  else if fld v 63 48 = 0x4C43 ∧ s.life.state < t ∧ t ≤ 4 then
    let s := rsetF (rsetB s off 8 true) off 6 4 t
    wipeStart { s with life := { s.life with target := t } }
  else rsetB s off 9 true

/-! ### Recalibration (R411) and retraining (R183) -/

/-- MC[m].TCMD.RETRAIN. -/
def retrainMark (s : State) (m : Nat) : State := rsetB s (pg .mc m + 0x118) 1 true

/-- KEEP.CALCMD.RECAL: the training of every stack is due (R183). -/
def recalStart (s : State) : State :=
  let off := pg .keep + 0x108
  if rbit s off 0 || inHold s || !memOn s then s
  else (List.range 5).foldl retrainMark (rsetB s off 0 true)

/-! ### INJECT (R437, R438) -/

/-- The injection points of a page. -/
def pointDefined (k : PageKind) (p : Nat) : Bool :=
  match k with
  | .mc | .spad => decide (1 ≤ p) && decide (p ≤ 3)
  | .ras => decide (1 ≤ p) && decide (p ≤ 5)
  | .core => decide (p = 1) || decide (p = 2)
  | .gate | .clk | .host | .med | .peer | .lct => decide (p = 1)
  | .sup => decide (1 ≤ p) && decide (p ≤ 7)
  | .orr => decide (p = 1) || (decide (0x40 ≤ p) && decide (p < 0x80))
  | _ => false

/-- The points that fire at once. -/
def pointNow (s : State) (k : PageKind) (p : Nat) : State :=
  let f := injFire s k 0
  match k with
  | .ras => if p = 4 ∨ p = 5 then swdExpire f (p - 4) else s
  | .sup =>
    let (n, f') := freeNat f
    let depth := fld (Config.freeWord n) 15 0
    if p ≤ 5 then holdEnter f' (p - 1) depth
    else if p = 6 then stopOrderly (holdEnter f' 0 depth)
    else startUp f .supply
  | .clk => lockLost f
  | .lct => tamperCause f 3
  | _ => s

/-- A write of INJECT. -/
def injectReg (s : State) (k : PageKind) (i : Nat) (v : Word) : State :=
  let off := pg k i + 0x040
  if fld v 63 48 ≠ 0x494A then s
  else
    let m := fld v 5 4
    let p := fld v 15 8
    let fired := rbit s off 1 && !bitAt v 1
    if m = 3 ∨ (m ≠ 0 ∧ pointDefined k p = false) then rset s off (wd (b2n fired * 2))
    else
      let s := rset s off (wd (p * 256 + m * 16 + b2n fired * 2))
      if m = 0 then s else pointNow s k p

end Sys2Proof.Machine
end

