-- ==== Sys2Proof/Machine/PageAccess.lean ====
section
/-! DEFINITION. Accesses to register space (R441 to R455): the header, the access codes, the registers computed on
a read, the registers with an action of their own, digests (R423, R424) and the counters of R450. -/

namespace Sys2Proof.Machine
open Sys2Proof

/-! ### Digests (R423) -/

/-- mix64 of R252. -/
def mix64 (x : Word) : Word :=
  let x := (x ^^^ (x >>> 30)) * 0x8F3A6C1D54B92E07
  let x := (x ^^^ (x >>> 27)) * 0xE5C713A96D204BF1
  x ^^^ (x >>> 31)

/-- The class C bits of a register. -/
def cMask (fs : List FieldDef) : Word := maskOf fs fun f => decide (f.cls = .c)

/-- The term of one register in its page's digest. -/
def digestTerm (off : Nat) (v : Word) : Word :=
  let m := cMask (fieldsAt off)
  if m = 0 then 0 else mix64 (wd off) ^^^ mix64 (v &&& m)

/-- DIGEST of a page under the values that `val` gives its registers. -/
def digestOf (k : PageKind) (i : Nat) (val : Nat → Word) : Word :=
  (regsOf k).foldl (fun d r => d + digestTerm (pg k i + r.off) (val (pg k i + r.off))) 0

/-- DIGEST now, and with the page at its reset values. -/
def digestNow (s : State) (k : PageKind) (i : Nat) : Word := digestOf k i (rget s)
def digestReset (k : PageKind) (i : Nat) : Word := digestOf k i regReset

/-! ### Registers computed on a read -/

/-- LOST.VALID of a CORE page and CMSTAT.DONE of a CLU page are INT_RAW bit 0 (R447). -/
def sharedBit (k : PageKind) (off : Nat) : Option Nat :=
  match k with
  | .core => if off = 0x120 then some 31 else none
  | .clu => if off = 0x108 then some 1 else none
  | _ => none

/-- CXSTATE of a core (R67). -/
def cxStates (s : State) (core : Nat) : Word :=
  wd (((List.range 16).map fun x =>
    (match (ctxAt s (BitVec.ofNat 11 (core * 16 + x))).run with
      | .empty => 0 | .ready => 1 | .stalled => 2 | .waiting => 3 | .parked => 4) * 2 ^ (4 * x)).sum)

/-- The pending bells 64n to 64n + 63 (R120). -/
def bellWord (s : State) (n : Nat) : Word :=
  wd (s.bells.foldl (fun a b => if b / 64 = n then a + 2 ^ (b % 64) else a) 0)

/-- MER.FSTAT.BUSY: the operation that the Meridian unit performs is a FOLD (R428). -/
def foldBusy (s : State) : Bool := match smGet [] s.islQ 1 with
  | o :: _ => decide (fld (capWord (smGet Cap.null o.vals 0x10)) 7 0 = 2)
  | [] => false

/-- DSLOT[k].HELD: a dictionary operation of the slot waits under R288. -/
def dslotHeld (s : State) (k : Nat) : Bool :=
  (engOpen s .cdn).any fun d => isDictOp d && d.fin.isNone && decide (cdnSlot d.raw = k) && dictHeld s d

/-- PMSTAT.HELD: a PLOAD waits (R310). -/
def ploadWaits (s : State) : Bool :=
  (engOpen s .cdr).any fun d => decide (edOp d.raw = 2) && d.fin.isNone && cdrBefore s d [1, 2]

/-- The value that a read of the register at `o` of page `k`, instance `i`, finds, before its access codes. -/
def regValue (s : State) (k : PageKind) (i o : Nat) : Word :=
  let off := pg k i + o
  let v := rget s off
  if o = 0 then wd (pageType k * 2 ^ 16 + (if pageCount k = 1 then 0 else i) * 2 ^ 8 + 1)
  else if o = 0x010 then
    wd (fld v 63 32 * 2 ^ 32 + b2n (rbit s (pg k i + 8) 0) * 2 +
      b2n (decide (rget s (pg k i + 0x018) &&& rget s (pg k i + 0x020) ≠ 0)))
  else if o = 0x040 then v ||| wd (b2n (decide (fld v 5 4 ≠ 0)))
  else if o = 0x048 then digestNow s k i
  else match sharedBit k o with
    | some b => setFld v b b (b2n (intRaw s k i 0))
    | none => match k with
      | .sys => if o = 0x118 then Config.serial else v
      | .pwr => if o = 0x110 then wd (pwrState s) else v
      | .mer => if o = 0x128 then wd (b2n (foldBusy s)) else v
      | .lct => if o = 0x100 then setFld v 2 0 s.life.state else if o = 0x120 then wd s.life.count else v
      | .tb => if o = 0x100 then s.tb else v
      | .core =>
        if o = 0x110 then cxStates s i
        else if o = 0x128 then
          match (coreAt s (BitVec.ofNat 7 i)).holder with
          | some h => wd (16 + h.toNat)
          | none => 0
        else if o = 0x138 then wd ((s.cclk - smGet 0 s.cclkAt (i / 16)) / 27720)
        else v
      | .car => if 0x500 ≤ o ∧ o < 0x700 then bellWord s ((o - 0x500) / 8) else v
      | .gate => if o = 0x108 then setFld (setFld v 8 8 (b2n (setValid s i 0))) 9 9 (b2n (setValid s i 1)) else v
      | .mc => if o = 0x118 then setFld v 31 24 (rfld s (pg .orr + 0x300 + 8 * (32 + i)) 9 2) else v
      | .cdn =>
        if o = 0x110 then laneBits s .cdn
        else if 0x200 ≤ o ∧ o < 0x280 then setFld v 61 61 (b2n (dslotHeld s ((o - 0x200) / 8)))
        else v
      | .cdr =>
        if o = 0x108 then laneBits s .cdr else if o = 0x110 then setFld v 63 63 (b2n (ploadWaits s)) else v
      | .cph => if o = 0x108 then laneBits s .cph else v
      | _ => v

/-- A read of the register at `o` of a present page: what it returns, and the fields that reading clears (RC), or
pops from a FIFO. -/
def pageRead (s : State) (k : PageKind) (i o : Nat) : Word × State :=
  let off := pg k i + o
  if k = .mgmt ∧ o = 0x110 then uartTake s
  else if k = .mgmt ∧ o = 0x130 then spiPop s
  else
    let fs := fieldsAt off
    let v := regValue s k i o &&& maskOf fs fun f => decide (f.acc ≠ .wo)
    let rc := maskOf fs fun f => decide (f.acc = .rc)
    let s := if rc = 0 then s else rset s off (rget s off &&& ~~~ rc)
    (v, if k = .ras ∧ o = 0x108 then { s with lastRead := true } else s)

/-! ### Writes -/

/-- The INT_RAW bits that hold the record of a page's ERR_INFO with a MORE bit (R204, R226, R244, R375, R452). -/
def recordBits : PageKind → Nat
  | .gate | .mov | .chk | .idx | .cdn | .cdr | .cph => 1
  | .host => 0x18
  | .med | .peer => 0x0C
  | .clu => 6
  | _ => 0

/-- A write of INT_RAW: bits written as 1 clear (R447), and a record's MORE with them. A page never rings on it. -/
def intClear (s : State) (k : PageKind) (i : Nat) (v : Word) : State :=
  let off := pg k i + 0x018
  let now := rget s off &&& ~~~ v
  let s' := rset s off now
  let s' := if recordBits k ≠ 0 ∧ v.toNat &&& recordBits k ≠ 0 ∧ now.toNat &&& recordBits k = 0 then
      rsetB s' (pg k i + 0x038) 63 false else s'
  if k = .mgmt then ibiIfFell s s' else s'

/-- A field of access `a` takes a write, for a register of page `k` at `o` (R4, R194, R230, R244). -/
def fieldTakes (s : State) (k : PageKind) (i o : Nat) (v : Word) (ic : InitClass) (a : Acc) : Bool :=
  let lock := rbit s (pg k i + 8) 0
  match a with
  | .rw => true
  | .rwl => !lock
  | .rwa =>
    let st := pg k i + 0x108
    !lock && decide (rfld s st 3 1 ≠ 1) && decide (rfld s st 0 0 ≠ (o - 0x200) / 0x100)
  | .rwi =>
    let b := (o - 0x120) / 8
    let st := chState s i
    let busy := decide (b = chBank s i) && (decide (st = 2) || decide (st = 3) || decide (st = 4))
    let armed := rbit s (chStatOff i) 7 && decide (b ≠ chBank s i)
    !busy && !armed && (decide (ic = 2) || decide (ic = 3) || !(bitAt v 14 || rbit s (pg k i + o) 14))
  | .rwr =>
    decide (rfld s (pg k i + o - 0x880 + 0x980) 1 0 = 0) &&
      (decide (ic = 2) || decide (ic = 3) || !(bitAt v 14 || rbit s (pg k i + o) 14))
  | _ => false

/-- The register value after a write under its access codes. -/
def writeFields (s : State) (k : PageKind) (i o : Nat) (v : Word) (ic : InitClass) : Word :=
  let off := pg k i + o
  let fs := fieldsAt off
  let set := maskOf fs fun f => fieldTakes s k i o v ic f.acc
  let w1c := maskOf fs fun f => decide (f.acc = .w1c)
  let w1s := maskOf fs fun f => decide (f.acc = .w1s)
  let now := rget s off
  ((now &&& ~~~ set) ||| (v &&& set) ||| (v &&& w1s)) &&& ~~~ (v &&& w1c)

/-- Registers written under their access codes alone. -/
def plainWrite (s : State) (k : PageKind) (i o : Nat) (v : Word) (ic : InitClass) : State :=
  rset s (pg k i + o) (writeFields s k i o v ic)

/-- The header registers with an action: rings on INT_EN and INT_BELL (R448). -/
def headerWrite (s : State) (k : PageKind) (i o : Nat) (v : Word) (ic : InitClass) : State :=
  if o = 0x018 then intClear s k i v
  else if o = 0x040 then injectReg s k i v
  else
    let raw := rget s (pg k i + 0x018)
    let en := rget s (pg k i + 0x020)
    let bell := rget s (pg k i + 0x028)
    let s := plainWrite s k i o v ic
    let en' := rget s (pg k i + 0x020)
    let bell' := rget s (pg k i + 0x028)
    if o = 0x020 ∧ (en' &&& ~~~ en) &&& raw ≠ 0 then pageRing s k i
    else if o = 0x028 ∧ raw &&& en ≠ 0 ∧ bitAt bell' 12 = true ∧
        (bitAt bell 12 = false ∨ fld bell 8 0 ≠ fld bell' 8 0) then pageRing s k i
    else s

/-- The bells of a BELL_PEND write are rung, lowest first. -/
def bellPendWrite (s : State) (n : Nat) (v : Word) : State :=
  (List.range 64).foldl (fun s j => if bitAt v j then ringBell s (64 * n + j) else s) s

/-- SYS.PHASE (R451). -/
def phaseWrite (s : State) (v : Word) (ic : InitClass) : State :=
  let off := pg .sys + 0x108
  let p := fld v 1 0
  if ic = 3 ∧ (p = 1 ∨ p = 2) then
    let s := if p = 2 then rsetF s (pg .pwr + 0x128) 7 0 11 else s
    if rfld s off 1 0 = p then s else intSet (rset s off (wd (256 + p))) .sys 0 0
  else s

/-- A write of IANCHOR: EN rising opens the window, EN falling closes it (R372, R388). -/
def ianchorWrite (s : State) (k : PageKind) (i : Nat) (v : Word) (ic : InitClass) : State :=
  let was := rbit s (ianchorOff k i) 0
  let s := plainWrite s k i 0x188 v ic
  if bitAt v 0 && !was then anchorOpen s k i
  else if !bitAt v 0 && was then anchorClose s k i
  else s

/-- A write of PEER[p].CTRL (R384, R389). -/
def peerCtrlWrite (s : State) (p : Nat) (v : Word) (ic : InitClass) : State :=
  let was := rbit s (pg .peer p + 0x100) 0
  let s := plainWrite s .peer p 0x100 v ic
  if bitAt v 0 && !was then rsetF s (pg .peer p + 0x108) 42 40 1
  else if !bitAt v 0 && was then peerDown s p
  else s

/-- A write of the block register at `o` of page `k`, instance `i`. -/
def blockWrite (s : State) (k : PageKind) (i o : Nat) (v : Word) (ic : InitClass) (src : Nat) : State :=
  let plain := plainWrite s k i o v ic
  match k with
  | .sys => if o = 0x108 then phaseWrite s v ic else plain
  | .pwr => if o = 0x100 then dreqWrite s v else if o = 0x118 then pwrCmd s v ic src else plain
  | .orr =>
    if o = 0x168 then dackWrite s v
    else if 0x800 ≤ o ∧ o < 0xC00 ∧ o % 16 = 0 then reqAWrite s ((o - 0x800) / 16) v
    else plain
  | .keep => if o = 0x100 ∧ bitAt v 0 = true then recalStart s else plain
  | .lct => if o = 0x108 then advWrite s v else plain
  | .ras =>
    if o = 0x140 ∨ o = 0x148 then
      let w := (o - 0x140) / 8
      if swdClass w ic then swdSet s w v else s
    else if o = 0x150 then swdKick s v ic
    else plain
  | .tb =>
    if o = 0x108 then { plain with power := { s.power with alarmed := false } }
    else if o = 0x110 then tbSet s v
    else plain
  | .clu =>
    if o = 0x100 then cmaint s i (fld v 1 0)
    else if o = 0x108 then (if bitAt v 1 then intClear plain .clu i 1 else plain)
    else if o = 0x110 then wayen s i v
    else plain
  | .core => if o = 0x120 ∧ bitAt v 31 = true then intClear plain .core i 1 else plain
  | .car => if 0x500 ≤ o ∧ o < 0x700 ∧ o % 8 = 0 then bellPendWrite s ((o - 0x500) / 8) v else plain
  | .gate => if o = 0x100 then (if bitAt v 0 then gateSwap s i else s) else plain
  | .mc => if o = 0x120 then (if bitAt v 0 then retrainMark s i else s) else plain
  | .spad => if 0x100 ≤ o ∧ o < 0x140 ∧ o % 8 = 0 then bankReqWrite s ((o - 0x100) / 8) v else plain
  | .mov => if o = 0x108 then (if bitAt v 0 then movClear s else s) else plain
  | .movch => if o = 0x100 then chCmd s i v else plain
  | .chk =>
    if 0x900 ≤ o ∧ o < 0x980 ∧ o % 8 = 0 then ringCmd s .chk ((o - 0x900) / 8) v
    else if o = 0x100 then (if ringsStopped s .chk then plain else s) else plain
  | .idx =>
    if 0x900 ≤ o ∧ o < 0x980 ∧ o % 8 = 0 then ringCmd s .idx ((o - 0x900) / 8) v
    else if o = 0x128 then (if bitAt v 0 then batchAbort s else s)
    else if o = 0x100 ∨ o = 0x108 ∨ o = 0x110 then (if s.batch.isSome then s else plain)
    else plain
  | .cdn => if 0x900 ≤ o ∧ o < 0x980 ∧ o % 8 = 0 then ringCmd s .cdn ((o - 0x900) / 8) v else plain
  | .cdr => if 0x900 ≤ o ∧ o < 0x980 ∧ o % 8 = 0 then ringCmd s .cdr ((o - 0x900) / 8) v else plain
  | .cph => if 0x900 ≤ o ∧ o < 0x980 ∧ o % 8 = 0 then ringCmd s .cph ((o - 0x900) / 8) v else plain
  | .host =>
    if o = 0x180 then msixRaise s i (fld v 10 0)
    else if o = 0x188 then (List.range 64).foldl (fun s a => if bitAt v a then closeAp s i a 5 else s) s
    else plain
  | .med => if o = 0x188 then ianchorWrite s .med i v ic else plain
  | .peer =>
    if o = 0x188 then ianchorWrite s .peer i v ic
    else if o = 0x100 then peerCtrlWrite s i v ic
    else plain
  | .mgmt =>
    if o = 0x108 then uartQueue s (BitVec.ofNat 8 v.toNat)
    else if o = 0x120 then ibiIfFell s plain
    else if o = 0x128 then spiCmd s v
    else if o = 0x130 then spiPush s v
    else plain
  | _ => plain

/-- Class C bits of the register at `off` now. -/
def cBits (s : State) (off : Nat) : Word := rget s off &&& cMask (fieldsAt off)

/-- A write to a present page, counted by R450 when it changes a class C bit. -/
def pageWrite (s : State) (k : PageKind) (i o : Nat) (v : Word) (ic : InitClass) (src : Nat) : State :=
  let off := pg k i + o
  let was := cBits s off
  let s := if o < 0x100 then headerWrite s k i o v ic else blockWrite s k i o v ic src
  if cBits s off = was then s
  else rset s (pg k i + 0x050) (wd (ic.toNat * 2 ^ 36 + (rfld s (pg k i + 0x050) 31 0 + 1) % 2 ^ 32))

/-! ### Accesses of register space (R441) -/

/-- The page is powered: its domain is on, and the memory field is ON for MC and GATE[0] to GATE[4]. -/
def pageOn (s : State) (k : PageKind) (i : Nat) : Bool :=
  let d := pageDom k i
  domOn s d && (!(decide (11 ≤ d) && decide (d < 16)) || memOn s)

/-- A read of 8 bytes of register space; none is an error response. -/
def regRead (s : State) (off : Nat) : Option Word × State :=
  match pageAt off with
  | none => (none, s)
  | some (k, i) =>
    if pageOn s k i then
      let (v, s) := pageRead s k i (off % 0x1000)
      (some v, s)
    else (none, s)

/-- A write of 8 bytes of register space; false is an error response. -/
def regWrite (s : State) (off : Nat) (v : Word) (ic : InitClass) (src : Nat) : Bool × State :=
  match pageAt off with
  | none => (false, s)
  | some (k, i) => if pageOn s k i then (true, pageWrite s k i (off % 0x1000) v ic src) else (false, s)

/-- A transaction that G6 allowed arrives at register space (R441): only a read or a write of 8 aligned bytes is
performed. -/
def regTarget (s : State) (off n : Nat) (op : TxnOp) (ic : InitClass) (src : Nat) : Resp × State :=
  if n ≠ 8 ∨ off % 8 ≠ 0 then (.err 6, s)
  else match op with
    | .read | .exec =>
      match regRead s off with
      | (some v, s) => (.ok { bytes := leBytes 8 v.toNat, tags := [false], poison := [false] }, s)
      | (none, s) => (.err 6, s)
    | .write d _ _ =>
      match regWrite s off (wd (leNat d)) ic src with
      | (true, s) => (.ok noData, s)
      | (false, s) => (.err 6, s)
    | _ => (.err 6, s)

/-- A command that is one write of a register of its own. -/
def regRow (s : State) (k : PageKind) (i o : Nat) (v : Word) (ic : InitClass) (src : Nat) : Out :=
  .next (regWrite s (pg k i + o) v ic src).2

end Sys2Proof.Machine
end

