-- ==== Sys2Proof/Machine/Fabric.lean ====
section
/-! DEFINITION. The fabric (R11, R191, R469): every transaction through its gate to its target, with the port
windows (R368 to R370, R387) and the transmit side of a Tambour port (R385, R386). -/

namespace Sys2Proof.Machine
open Sys2Proof

/-! ### Records of a port page (R375, R395) -/

/-- A refusal or error at a port: the record and its INT_RAW bit, what AER logs with it, and one ring for both (R448). -/
def portEvent (s : State) (k : PageKind) (i : Nat) (addr cause kind reqid bar : Nat) (out : Bool) (aer : Option Nat) :
    State :=
  let lo := if k = .host then 3 else 2
  let base := pg k i
  let held := intRaw s k i lo || intRaw s k i (lo + 1)
  let info := kind * 2 ^ 40 + cause * 2 ^ 32 + reqid % 2 ^ 16 * 2 ^ 16 + b2n out * 8 + bar
  let s := if held then rsetB s (base + 0x038) 63 true
    else rset (rset s (base + 0x030) (wd addr)) (base + 0x038) (wd info)
  let bit := if out then lo + 1 else lo
  let s := rsetB s (base + 0x018) bit true
  match aer with
  | some b => ringBits (aerMark s k i b) k i (if k = .host then [bit, 5] else [bit])
  | none => ringBits s k i [bit]

/-- One that AER does not log. -/
def portRecord (s : State) (k : PageKind) (i : Nat) (addr cause kind reqid bar : Nat) (out : Bool) : State :=
  portEvent s k i addr cause kind reqid bar out none

/-! ### Transmit side of a Tambour port -/

/-- The stamp of R390: TB × 256 plus its fraction. -/
def stamp (s : State) : Word := wd (s.tb.toNat * 256 + s.tbFrac)

/-- Virtual lane of a sequenced stroke (R383). -/
def laneOf (typ : Nat) : Nat := if typ = 0x20 then 1 else if typ = 0x30 then 2 else if typ = 0x40 then 3 else 0

/-- Credits available on a lane (R386). -/
def credits (x : PeerPort) (l : Nat) : Nat :=
  (x.credInit.getD l 0 + x.cred.getD l 0 + 256 - x.sent.getD l 0 % 256) % 256

/-- CRED of a stroke sent now. -/
def credWord (x : PeerPort) : BitVec 32 :=
  BitVec.ofNat 32 (leNat ((List.range 4).map fun l => BitVec.ofNat 8 (x.freed.getD l 0)))

/-- Bytes 0x00 to 0x9B of a stroke (R383), and the CRC-32C of them that it carries. -/
def strokeBytes (typ : Nat) (k : Stroke) : List Byte :=
  leBytes 1 typ ++ leBytes 1 k.vl.toNat ++ leBytes 2 k.seq.toNat ++ leBytes 2 k.rtag.toNat ++ leBytes 2 k.wmask.toNat ++
    leBytes 8 k.arg.toNat ++ k.payload ++ leBytes 2 k.ack.toNat ++ leBytes 2 k.pad.toNat ++ leBytes 4 k.cred.toNat ++
    leBytes 4 (k.pad.toNat / 2 ^ 16)
def strokeCrc (typ : Nat) (k : Stroke) : BitVec 32 := crc32c (strokeBytes typ k)

/-- A stroke with its lane, and its CRC computed last. -/
def sealStroke (typ : Nat) (k : Stroke) : Stroke :=
  let k := { k with vl := BitVec.ofNat 8 (laneOf typ), pad := 0 }
  { k with crc := strokeCrc typ k }

/-- A stroke as it is put on the link: ACK, CRED, the stamp that a TSYNC takes at every transmission, and its CRC. -/
def emitStroke (s : State) (x : PeerPort) (t : TxStroke) : TxStroke :=
  let k := t.stroke
  let pay := if t.typ = 0x30 then
      patch k.payload (if k.payload.headD 0 = 0 then 8 else 24) (leBytes 8 (stamp s).toNat)
    else k.payload
  { t with stroke := sealStroke t.typ { k with ack := x.expect - 1, cred := credWord x, payload := pay } }

/-- Place in the transmit queue of the stroke sent next (R386, R387): lanes 2, 1, 3 and 0, each in its order and with
credit. A stroke of lanes 1 to 3 never passes an MWR queued before it. After an orderly stop (R404), no MWR and no BELL
is sent. -/
def pumpPick (halt : Bool) (x : PeerPort) : Option Nat :=
  [2, 1, 3, 0].findSome? fun l =>
    match x.txq.findIdx? fun t => decide (laneOf t.typ = l) with
    | none => none
    | some i =>
      let typ := ((x.txq[i]?).map (·.typ)).getD 0
      if 0 < credits x l ∧ (l = 0 ∨ ((x.txq.take i).all fun t => decide (t.typ ≠ 0x10)) = true) ∧
          (halt = false ∨ (typ ≠ 0x10 ∧ typ ≠ 0x20)) then some i
      else none

/-- Queued strokes are sent while the window and the credits of their lanes allow, each taking its SEQ. -/
def peerPump (s : State) : Nat → PeerPort → PeerPort
  | 0, x => x
  | n + 1, x =>
    match if x.held.length < 512 then pumpPick (stopped s) x else none with
    | none => x
    | some i =>
      match x.txq[i]? with
      | none => x
      | some t =>
        let l := laneOf t.typ
        let e := emitStroke s x { t with stroke := { t.stroke with seq := x.nextSeq } }
        peerPump s n { x with
          txq := x.txq.eraseIdx i, nextSeq := x.nextSeq + 1, held := x.held ++ [e], out := x.out ++ [e]
          sent := x.sent.set l (x.sent.getD l 0 + 1), ackTb := if x.held = [] then s.tb else x.ackTb }

/-- A sequenced stroke enters the transmit queue. -/
def peerSend (s : State) (p : Nat) (typ : Nat) (k : Stroke) : State :=
  let x := peerAt s p
  let x := { x with txq := x.txq ++ [{ typ := typ, stroke := k }] }
  setPeer s p (peerPump s x.txq.length x)

/-- A stroke with nothing in it. -/
def Stroke.blank : Stroke :=
  { vl := 0, seq := 0, rtag := 0, wmask := 0, arg := 0, payload := List.replicate 128 0, ack := 0, pad := 0, cred := 0
    crc := 0 }

/-- PEER[p].LINK.UP. -/
def peerUp (s : State) (p : Nat) : Bool := rbit s (pg .peer p + 0x108) 0

/-! ### Windows -/

/-- The answer waiting for a read, and the list without it. -/
def takeDone (ds : List ReadDone) (src pa n : Nat) : Option (ReadDone × List ReadDone) :=
  (ds.find? fun d => decide (d.src = src) && decide (d.pa = pa) && decide (d.n = n)).map fun d => (d, ds.erase d)

/-- A read of that name is outstanding. -/
def isWaiting (rs : List OutRead) (src pa n : Nat) : Bool :=
  rs.any fun r => decide (r.src = src) && decide (r.pa = pa) && decide (r.n = n)

/-- The lowest of `n` tags that no outstanding request has. -/
def freeTag (rs : List OutRead) (n : Nat) : Option Nat :=
  (List.range n).find? fun t => !(rs.any fun r => decide (r.tag = t))

/-- The fabric side of a PCIe port. -/
def ioAt (s : State) (k : PageKind) (i : Nat) : PortIo :=
  match k with
  | .host => (hostAt s i).io
  | _ => (medAt s i).io
def setIo (s : State) (k : PageKind) (i : Nat) (io : PortIo) : State :=
  match k with
  | .host => setHost s i { hostAt s i with io := io }
  | _ => setMed s i { medAt s i with io := io }

/-- Number of a port in FE3 (R147). -/
def portNum (k : PageKind) (i : Nat) : Nat := match k with
  | .host => i | .med => 2 + i | _ => 6 + i

/-- A non-posted request is sent under a tag, while fewer than 768 are outstanding (R358); otherwise it waits. -/
def ioAsk (io : PortIo) (r : OutRead) : PortIo :=
  match if io.reads.length < 768 then freeTag io.reads 1024 else none with
  | some t => { io with reads := io.reads ++ [{ r with tag := t }] }
  | none => { io with waitR := io.waitR ++ [r] }

/-- The first request that waits is sent, now that another has ended. -/
def ioNext (io : PortIo) : PortIo :=
  match io.waitR with
  | [] => io
  | r :: rs => if io.reads.length < 768 then ioAsk { io with waitR := rs } r else io

/-- A read sent to PCIe, its answer taken, or the initiator still waiting (R369). -/
def ioRead (s : State) (k : PageKind) (i kind addr dev src pa n : Nat) : Resp × State :=
  let io := ioAt s k i
  match takeDone io.dones src pa n with
  | some (d, ds) =>
    let s := setIo s k i { io with dones := ds }
    match d.data with
    | some r => (.ok r, s)
    | none => (.port (portNum k i), s)
  | none =>
    if isWaiting (io.reads ++ io.waitR) src pa n then (.pending, s)
    else
      (.pending, setIo s k i (ioAsk io
        { tag := 0, kind := kind, addr := addr, dev := dev, src := src, pa := pa, n := n, data := [], xl := none
          old := false }))

/-- A write sent to PCIe, acknowledged as it is queued (R369): a memory write is posted; a configuration write waits for
its completion, which no initiator sees. -/
def ioWrite (s : State) (k : PageKind) (i kind addr dev : Nat) (d : List Byte) : State :=
  let io := ioAt s k i
  setIo s k i (if kind = 0 then { io with tx := io.tx ++ [{ kind := 0, addr := addr, data := d }] }
    else ioAsk io { tag := 0, kind := kind + 2, addr := addr, dev := dev, src := noOne, pa := 0, n := d.length, data := d, xl := none, old := false })

/-- The Type of a configuration access at segment offset `o`: 1 for Type 0, 2 for Type 1, 0 for none (R370). -/
def cfgType (s : State) (m o n : Nat) : Nat :=
  let bus := nfld o 27 20
  let b := pg .med m + 0x110
  if 2 ^ 28 ≤ o ∨ (n ≠ 1 ∧ n ≠ 2 ∧ n ≠ 4) ∨ 4 < o % 4 + n then 0
  else if bus = rfld s b 7 0 then 1
  else if rfld s b 7 0 < bus ∧ bus ≤ rfld s b 15 8 then 2
  else 0

def isRead : TxnOp → Bool
  | .read => true
  | _ => false

/-- A PCIe window (R368 to R370): `k` is .host or .med, `o` the window offset. A read whose answer is there takes it,
also where the link has gone down since (R369). -/
def pcieWindow (s : State) (k : PageKind) (i o n : Nat) (op : TxnOp) (src pa : Nat) : Resp × State :=
  let seg := rget s (pg k i + 0x140 + 8 * (o / 2 ^ 36))
  let off := o % 2 ^ 36
  let addr := fld seg 63 12 * 0x1000 + off
  let cfg := decide (k = .med) && bitAt seg 1
  let kind := if cfg then cfgType s i off n else 0
  let bad (s : State) : Resp × State := (.port (portNum k i), portRecord s k i (addr % 2 ^ 64) 12 0 0 0 true)
  let dev := if cfg then off else 0
  if isRead op && (takeDone (ioAt s k i).dones src pa n).isSome then ioRead s k i kind addr dev src pa n
  else if !bitAt seg 0 || decide (2 ^ 64 < addr + n) || !rbit s (pg k i + 0x108) 0 || (cfg && decide (kind = 0)) then bad s
  else match op with
    | .read => ioRead s k i kind addr dev src pa n
    | .write d _ _ => (.ok noData, ioWrite s k i kind addr dev d)
    | _ => bad s

/-- WMASK of `n` bytes at an offset of a 128-byte block. -/
def wmaskOf (o n : Nat) : Nat :=
  ((List.range 16).map fun w => if o % 128 < 8 * w + 8 ∧ 8 * w < o % 128 + n then 2 ^ w else 0).sum

/-- The MWR of a write (R387): its words, and the poison of its granules. Bytes of its words that the write does not
give are free values. -/
def mwrOf (s : State) (o : Nat) (d : List Byte) (po : List Bool) : Stroke × State :=
  let lo := o % 128
  let hi := lo + d.length
  let (f, s) := if lo % 8 = 0 ∧ hi % 8 = 0 then (0, s) else (Config.freeWord s.free, { s with free := s.free + 1 })
  let head := (leBytes 8 f.toNat).take (lo % 8)
  let tail := (leBytes 8 f.toNat).drop (if hi % 8 = 0 then 8 else hi % 8)
  let g := ((grans o d.length).zipIdx.map fun p => if po.getD p.2 false then 2 ^ (p.1 % 8) else 0).sum
  ({ Stroke.blank with
    wmask := BitVec.ofNat 16 (wmaskOf o d.length)
    arg := wd (g * 2 ^ 40 + alignDown o 128)
    payload := sliceZ (List.replicate (lo / 8 * 8) 0 ++ head ++ d ++ tail) 0 128 }, s)

/-- An MRD is issued while a completion buffer and a tag are free (R386); otherwise the read waits. -/
def peerAsk (s : State) (p : Nat) (r : OutRead) : State :=
  let x := peerAt s p
  match if x.reads.length < 128 then freeTag x.reads 256 else none with
  | none => setPeer s p { x with waitR := x.waitR ++ [r] }
  | some t =>
    let s := setPeer s p { x with reads := x.reads ++ [{ r with tag := t }] }
    peerSend s p 0x11 { Stroke.blank with
      rtag := BitVec.ofNat 16 t, wmask := BitVec.ofNat 16 (wmaskOf r.addr r.n), arg := wd (alignDown r.addr 128) }

/-- The first read that waits is issued, now that another has ended. -/
def peerNext (s : State) (p : Nat) : State :=
  let x := peerAt s p
  match x.waitR with
  | [] => s
  | r :: rs => if x.reads.length < 128 then peerAsk (setPeer s p { x with waitR := rs }) p r else s

/-- A peer window (R387). -/
def peerWindow (s : State) (p o n : Nat) (op : TxnOp) (src pa : Nat) : Resp × State :=
  let bad (s : State) : Resp × State := (.port (6 + p), portRecord s .peer p o 12 0 0 0 true)
  let x := peerAt s p
  let take : Option (Resp × State) := (takeDone x.dones src pa n).map fun (d, ds) =>
    let s := setPeer s p { x with dones := ds }
    match d.data with
    | some r => (.ok r, s)
    | none => (.port (6 + p), s)
  match op, take with
  | .read, some r => r
  | .exec, some r => r
  | _, _ =>
    if !peerUp s p then bad s
    else if o + n ≤ 0x7FFFFF8000 then
      match op with
      | .write d _ po =>
        let (k, s) := mwrOf s o d po
        (.ok noData, peerSend s p 0x10 k)
      | .read | .exec =>
        if isWaiting (x.reads ++ x.waitR) src pa n then (.pending, s)
        else (.pending, peerAsk s p
          { tag := 0, kind := 0, addr := o, dev := 0, src := src, pa := pa, n := n, data := [], xl := none, old := false })
      | _ => bad s
    else if 0x7FFFFF8000 ≤ o ∧ o % 8 = 0 ∧ (o - 0x7FFFFF8000) / 8 < 2080 then
      match op with
      | .write _ _ _ =>
        if n = 4 ∨ n = 8 then (.ok noData, peerSend s p 0x20 { Stroke.blank with arg := wd ((o - 0x7FFFFF8000) / 8) })
        else bad s
      | .read =>
        (.ok { bytes := List.replicate n 0, tags := (grans pa n).map fun _ => false, poison := (grans pa n).map fun _ => false }, s)
      | _ => bad s
    else bad s

/-- What a target behind gate `g` does with a transaction its gate allowed; `key` names its initiator (`initKey`). -/
def targetDo (s : State) (t : Target) (a n : Nat) (op : TxnOp) (cls : InitClass) (key src esrc : Nat) : Resp × State :=
  match t with
  | .regs off => regTarget s off n op cls src
  | .host h o => pcieWindow s .host h o n op key a
  | .media m o => pcieWindow s .med m o n op key a
  | .peer p o => peerWindow s p o n op key a
  | _ => memTarget s t a n op esrc

/-- What a port window holds of the reads in its name: outstanding, waiting, and answers. -/
def winReads (s : State) (t : Target) : List OutRead × List ReadDone :=
  match t with
  | .host h _ => ((hostAt s h).io.reads ++ (hostAt s h).io.waitR, (hostAt s h).io.dones)
  | .media m _ => ((medAt s m).io.reads ++ (medAt s m).io.waitR, (medAt s m).io.dones)
  | .peer p _ => ((peerAt s p).reads ++ (peerAt s p).waitR, (peerAt s p).dones)
  | _ => ([], [])

/-- The answer to the window read named `key` of [a, a + n) is there. -/
def answered (s : State) (key a n : Nat) : Bool := (takeDone (winReads s (targetOf a)).2 key a n).isSome

/-- The window read named `key` of [a, a + n) is outstanding or answered: it was judged before. -/
def asked (s : State) (key a n : Nat) : Bool := isWaiting (winReads s (targetOf a)).1 key a n || answered s key a n

/-- An answer that a window gave goes back to it, since its initiator waits for another line. -/
def putBack (s : State) (key a n : Nat) (d : RData) : State :=
  let dn : ReadDone := { src := key, pa := a, n := n, data := some d }
  match targetOf a with
  | .host h _ => setIo s .host h { ioAt s .host h with dones := (ioAt s .host h).dones ++ [dn] }
  | .media m _ => setIo s .med m { ioAt s .med m with dones := (ioAt s .med m).dones ++ [dn] }
  | .peer p _ => setPeer s p { peerAt s p with dones := (peerAt s p).dones ++ [dn] }
  | _ => s

/-- The window read named `key` of [a, a + n), if it waits, was translated with `e` (R167). -/
def tagRead (s : State) (key a n : Nat) (e : Option TlbEnt) : State :=
  let f (r : OutRead) : OutRead := if r.src = key ∧ r.pa = a ∧ r.n = n then { r with xl := e } else r
  let io (x : PortIo) : PortIo := { x with reads := x.reads.map f, waitR := x.waitR.map f }
  if e = none then s
  else match targetOf a with
    | .host h _ => setIo s .host h (io (ioAt s .host h))
    | .media m _ => setIo s .med m (io (ioAt s .med m))
    | .peer p _ =>
      let x := peerAt s p
      setPeer s p { x with reads := x.reads.map f, waitR := x.waitR.map f }
    | _ => s

/-- A write that a port takes only later: media ports take none in HOLD (R403), and none leaves after an orderly stop
(R404). -/
def writeHeld (s : State) (t : Target) (op : TxnOp) : Bool :=
  match op, t with
  | .write _ _ _, .media _ _ => inHold s || stopped s
  | .write _ _ _, .host _ _ | .write _ _ _, .peer _ _ => stopped s
  | _, _ => false

/-- A port window whose domain is off has no link (R368, R387). -/
def domainOffResp (t : Target) (g : Nat) : Resp :=
  match t with
  | .host h _ => .port h
  | .media m _ => .port (2 + m)
  | .peer p _ => .port (6 + p)
  | _ => .err g

/-- SOURCE of R204: an engine names its number, whichever ring it works for. -/
def sourceOf (cls : InitClass) (src : Nat) : Nat := if cls = 5 then src % 16 else src

/-- A read of a window that was judged before and whose initiator waits for it. -/
def retried (s : State) (a n : Nat) (op : TxnOp) (key : Nat) : Bool :=
  match op with
  | .read | .exec => asked s key a n
  | _ => false

/-- A fabric transaction (R11) judged for the kinds `k` by the gate of its target, and performed there; `src` is the
SOURCE of R204, to which an engine adds 16 times its ring's number plus 16, and `esrc` that of R185. -/
def fabricTxnK (k : Kinds) (s : State) (a n : Nat) (op : TxnOp) (cls : InitClass) (colour : BitVec 4) (src esrc : Nat) :
    Resp × State :=
  let t := targetOf a
  let key := txnKey k cls colour src
  match t with
  | .nowhere => (.noTarget, s)
  | _ =>
    let g := gateOf t
    if retried s a n op key then targetDo s t a n op cls key src esrc
    else if !gateDomainOn s g then (domainOffResp t g, s)
    else if writeHeld s t op then (.pending, s)
    else
      let (ok, s) := judge s g a cls k colour (sourceOf cls src)
      if ok then targetDo s t a n op cls key src esrc else (.refused g, s)

/-- A fabric transaction with the kinds of its operation (R192). -/
def fabricTxn (s : State) (a n : Nat) (op : TxnOp) (cls : InitClass) (colour : BitVec 4) (src esrc : Nat) :
    Resp × State :=
  fabricTxnK (opKinds op) s a n op cls colour src esrc

/-- A read judged for the kinds `k` that need not wait: its target is no port window, or the answer is there, or it fails at
once. Otherwise it is sent, as translated with `e`. -/
def readReadyK (k : Kinds) (s : State) (a n : Nat) (cls : InitClass) (colour : BitVec 4) (src : Nat) (e : Option TlbEnt) :
    Bool × State :=
  let key := txnKey k cls colour src
  match targetOf a with
  | .host _ _ | .media _ _ | .peer _ _ =>
    if answered s key a n then (true, s)
    else match fabricTxnK k s a n .read cls colour src 0 with
      | (.pending, s') => (false, tagRead s' key a n e)
      | _ => (true, s)
  | _ => (true, s)

def readReady (s : State) (a n : Nat) (cls : InitClass) (colour : BitVec 4) (src : Nat) (e : Option TlbEnt) : Bool × State :=
  readReadyK kR s a n cls colour src e

/-- The operation of a transaction from class `cls`: of a write, only contexts, the Mover and the Custodian island
carry tags (R26). -/
def tagged (cls : InitClass) (op : TxnOp) : TxnOp :=
  if cls.toNat < 5 ∨ cls = 14 then op
  else match op with
    | .write d _ po => .write d [] po
    | .atomicCap c => .atomicCap { c with tag := false }
    | op => op

/-- A transaction performed through its gate. -/
def txnDo (t : Txn) (s : State) : State := (fabricTxn s t.pa t.n (tagged t.cls t.op) t.cls t.colour t.src.toNat 0).2

/-- FABRIC_TRANSACTION (R196): a transaction that arrives at a gate. What others than the engines write, software writes
(R246). -/
def execFabricTransaction (t : Txn) (s : State) : Out :=
  match fabricTxn s t.pa t.n (tagged t.cls t.op) t.cls t.colour t.src.toNat 0 with
  | (.ok _, s) => .next (if t.cls = 5 || !(opKinds t.op).w then s else softWrite s t.pa t.n)
  | (_, s) => .next s

/-- OUTBOUND_WINDOW_REQUEST (R368): a transaction to a host or media window. -/
def execOutboundWindowRequest (t : Txn) (s : State) : Out :=
  match targetOf t.pa with
  | .host _ _ | .media _ _ => .next (txnDo t s)
  | _ => .next s

/-- MEDIA_CONFIG_REQUEST (R370): a transaction to a configuration segment of a media window. -/
def execMediaConfigRequest (t : Txn) (s : State) : Out :=
  match targetOf t.pa with
  | .media m o => if rbit s (pg .med m + 0x140 + 8 * (o / 2 ^ 36)) 1 then .next (txnDo t s) else .next s
  | _ => .next s

/-- PEER_WINDOW_REQUEST (R387): a transaction to a peer window. -/
def execPeerWindowRequest (t : Txn) (s : State) : Out :=
  match targetOf t.pa with
  | .peer _ _ => .next (txnDo t s)
  | _ => .next s

end Sys2Proof.Machine
end

