-- ==== Sys2Proof/Machine/HostPorts.lean ====
section
/-! DEFINITION. The host and media ports (R358 to R375): resets, configuration requests, inbound requests,
doorbells, apertures, completions of outbound reads. -/

namespace Sys2Proof.Machine
open Sys2Proof

/-! ### Configuration space of a host port -/

/-- A dword of configuration space as it reads (R3, R358). The Subsystem IDs are those that start-up loaded from the Keep
(assumption log 74). -/
def cfgRead (s : State) (h off : Nat) : BitVec 32 :=
  if off = 0x00 then 0x72001D7E
  else if off = 0x08 then 0x120000B1
  else if off = 0x2C then s.mgmt.ssid
  else if off = 0x04 then smGet 0 (hostAt s h).cfg off
  else if off = 0x10 ∨ off = 0x18 then smGet 4 (hostAt s h).cfg off
  else if off = 0x20 then smGet 12 (hostAt s h).cfg off
  else if off = 0x14 ∨ off = 0x1C ∨ off = 0x24 ∨ off = Config.aerCap + 4 ∨ off = Config.aerCap + 0x10 then
    smGet 0 (hostAt s h).cfg off
  else if off = Config.pmCap + 4 then
    (cfgDword s h off &&& 0xFFFFFFFC) ||| BitVec.ofNat 32 (rfld s (pg .host h + 0x108) 21 20)
  else cfgDword s h off

/-- Base address of BAR `b` (0, 2 or 4). -/
def barBase (s : State) (h b : Nat) : Nat :=
  (cfgRead s h (0x14 + 4 * b)).toNat * 2 ^ 32 + (cfgRead s h (0x10 + 4 * b)).toNat / 16 * 16

/-- Memory Space Enable of the Command register. -/
def memSpace (s : State) (h : Nat) : Bool := (cfgRead s h 4).toNat.testBit 1

/-- LINK.UP of a port. -/
def linkUp (s : State) (k : PageKind) (i : Nat) : Bool := rbit s (pg k i + 0x108) 0

/-- Entry to D3hot (R360): the effects of R360 but for CTRL.OPEN, and DSTATE 3. -/
def enterD3 (s : State) (h : Nat) : State :=
  rsetF (hostReset s h false 6) (pg .host h + 0x108) 21 20 3

/-- The host port's power state returns to D0 with a reset of its function. -/
def toD0 (s : State) (h : Nat) : State := rsetF s (pg .host h + 0x108) 21 20 0

/-- Function Level Reset (R360). -/
def funcReset (s : State) (h : Nat) : State := toD0 (hostReset s h true 7) h

/-- A configuration write. The dwords whose layout PCIe and the spec settle take it as PCIe has it; any other
reads as a free value afterwards. -/
def cfgWrite (s : State) (h off : Nat) (v : BitVec 32) : State :=
  if off = 0x00 ∨ off = 0x08 ∨ off = 0x2C then s
  else if off = 0x04 then putCfg s h off (v &&& 0x547)
  else if off = 0x10 then putCfg s h off (v &&& 0xFF000000 ||| 4)
  else if off = 0x18 then putCfg s h off (v &&& 0xFFFE0000 ||| 4)
  else if off = 0x20 then putCfg s h off (v &&& 0xFC000000 ||| 12)
  else if off = 0x14 ∨ off = 0x1C ∨ off = 0x24 then putCfg s h off v
  else if off = Config.aerCap + 4 ∨ off = Config.aerCap + 0x10 then putCfg s h off (cfgRead s h off &&& ~~~ v)
  else if off = Config.pcieCap + 4 ∨ off = Config.pcieCap + 0x24 then s
  else if off = Config.pcieCap + 8 then
    let s := putCfg s h off ((cfgDword s h off &&& 0xFFFF0000 &&& ~~~ (v &&& 0x000F0000)) ||| (v &&& 0x7FFF))
    if v.toNat.testBit 15 then funcReset s h else s
  else if off = Config.pcieCap + 0x28 then putCfg s h off ((cfgDword s h off &&& 0xFFFF0000) ||| (v &&& 0xFFFF))
  else if off = Config.msixCap then
    msixFlush (putCfg s h off ((cfgDword s h off &&& 0x3FFFFFFF) ||| (v &&& 0xC0000000))) h
  else if off = Config.pmCap + 4 then
    let d3 := decide (rfld s (pg .host h + 0x108) 21 20 = 3)
    if v.toNat % 4 = 3 ∧ d3 = false then enterD3 s h
    else if v.toNat % 4 = 0 ∧ d3 = true then intSet (rsetF s (pg .host h + 0x108) 21 20 0) .host h 6
    else s
  else
    let (n, s) := freeNat s
    putCfg s h off ((Config.freeWord n).truncate 32)

/-- A completion sent by a port. -/
def sendCpl (s : State) (k : PageKind) (i reqid : Nat) (st : CplStatus) (d : List Byte) : State :=
  let io := ioAt s k i
  setIo s k i { io with cpls := io.cpls ++ [{ reqid := reqid, st := st, data := d }] }

/-- A PCIe port receives a TLP, or a DLLP, that fails its LCRC (R431): bit 6 or 7 of Correctable Error Status as PCIe
numbers it; replay recovers it. -/
def tlpBad (s : State) (k : PageKind) (i : Nat) (inj dllp : Bool) : State :=
  let b : BitVec 32 := if dllp then 0x80 else 0x40
  let s := match k with
    | .host => intSet (putCfg s i (Config.aerCap + 0x10) (cfgRead s i (Config.aerCap + 0x10) ||| b)) .host i 5
    | _ => setMed s i { medAt s i with aer := (medAt s i).aer ||| b }
  rasEvent s 0 (injTyp inj) 0 (pg k i)

/-- The port receives a TLP: where its injection point is armed, the first transmission fails its LCRC, and the TLP arrives
with the replay (R438). -/
def tlpIn (s : State) (k : PageKind) (i : Nat) : State :=
  if linkUp s k i && injArmed s k i 1 then tlpBad (injFire s k i) k i true false else s

/-- CONFIG_REQUEST (R358, R359). -/
def execConfigRequest (h : BitVec 1) (off : BitVec 12) (write : Option (BitVec 32)) (s : State) : Out :=
  let i := h.toNat
  let s := tlpIn s .host i
  let o := alignDown off.toNat 4
  if !linkUp s .host i then .next s
  else if !rbit s (pg .host i + 0x100) 0 then .next (sendCpl s .host i 0 .rrs [])
  else match write with
    | none => .next (sendCpl s .host i 0 .sc (leBytes 4 (cfgRead s i o).toNat))
    | some v => .next (sendCpl (cfgWrite s i o v) .host i 0 .sc [])

/-! ### Resets and links -/

/-- PERST_N low (R359). -/
def execPerstNAssert (h : BitVec 1) (s : State) : Out :=
  let i := h.toNat
  let s := setHost s i { hostAt s i with perst := false }
  if domOn s 16 then
    let s := closeAps (pcieDown s .host i) i 4 fun _ => true
    .next (intSet s .host i 2)
  else .next s

/-- PERST_N rises (R359): training may begin, and the device wakes from NADIR when PWR.WAKE.PERST is 1 (R401). -/
def execPerstNRise (h : BitVec 1) (s : State) : Out :=
  let i := h.toNat
  let s := setHost s i { hostAt s i with perst := true }
  .next (wakeEvent s 1)

/-- CFGREADY written as 1, with OPEN as it stands. -/
def execCfgready (h : BitVec 1) (ic : InitClass) (s : State) : Out :=
  regRow s .host h.toNat 0x100 (wd (1 + 2 * b2n (rbit s (pg .host h.toNat + 0x100) 1))) ic 0

/-- FUNCTION_LEVEL_RESET (R360): a configuration write asks for it. -/
def execFunctionLevelReset (h : BitVec 1) (s : State) : Out :=
  if linkUp s .host h.toNat then .next (funcReset (tlpIn s .host h.toNat) h.toNat) else .next s

/-- Hot reset (R360): reported as a link down. -/
def execHotReset (h : BitVec 1) (s : State) : Out :=
  if linkUp s .host h.toNat then .next (toD0 (hostReset s h.toNat true 1) h.toNat) else .next s

/-- Entry to D3hot (R360). -/
def execD3hotEntry (h : BitVec 1) (s : State) : Out :=
  if linkUp s .host h.toNat then .next (enterD3 (tlpIn s .host h.toNat) h.toNat) else .next s

/-- LINK of a PCIe port that came up (R373). -/
def linkWord (speed : BitVec 3) (width : BitVec 5) (flit : Bool) : Word :=
  wd (b2n flit * 2 ^ 19 + speed.toNat * 2 ^ 16 + width.toNat * 2 ^ 8 + 1)

/-- A rate and width that a port of up to `most` lanes supports (R358): FLIT mode at 64 GT/s. -/
def trained (most : Nat) (speed : BitVec 3) (width : BitVec 5) (flit : Bool) : Bool :=
  decide (1 ≤ speed.toNat) && decide (speed.toNat ≤ 6) && (flit || decide (speed.toNat ≠ 6)) &&
    [1, 2, 4, 8, 16].contains width.toNat && decide (width.toNat ≤ most)

/-- PCIE_LINK_UP (R358, R359): a host port trains while PERST_N is high, a media port while CTRL.EN is 1. -/
def execPcieLinkUp (p : Port) (speed : BitVec 3) (width : BitVec 5) (flit : Bool) (s : State) : Out :=
  match p with
  | .host h =>
    let i := h.toNat
    if domOn s 16 && (hostAt s i).perst && !linkUp s .host i && trained 16 speed width flit then
      .next (intSet (rset s (pg .host i + 0x108) (linkWord speed width flit)) .host i 0)
    else .next s
  | .med m =>
    let i := m.toNat
    if domOn s (17 + i) && rbit s (pg .med i + 0x100) 0 && !linkUp s .med i && trained 8 speed width flit then
      .next (intSet (rset s (pg .med i + 0x108) (linkWord speed width flit)) .med i 0)
    else .next s
  | .peer _ => .next s

/-- PCIE_LINK_DOWN (R360). -/
def execPcieLinkDown (p : Port) (s : State) : Out :=
  match p with
  | .host h => .next (pcieDown s .host h.toNat)
  | .med m => .next (pcieDown s .med m.toNat)
  | .peer p => .next (peerDown s p.toNat)

/-! ### Inbound requests (R361, R365, R367, R372) -/

/-- The BARs of a host port are decoded: link up, CTRL.OPEN, D0, and Memory Space Enable. -/
def barsOpen (s : State) (h : Nat) : Bool :=
  linkUp s .host h && rbit s (pg .host h + 0x100) 1 && decide (rfld s (pg .host h + 0x108) 21 20 = 0) && memSpace s h

/-- AER logs what R367 calls an error: an Unsupported Request, a Completer Abort of a read, and that of a BAR0 write of
the wrong size. -/
def refuseAer (q : PortReq) (cause : Nat) (st : CplStatus) : Option Nat :=
  match st with
  | .ur => some aerUr
  | _ => if q.write ∧ cause ≠ 2 then none else some aerCa

/-- A refused inbound request: recorded, and a read answered with `st`. -/
def refuseIn (s : State) (k : PageKind) (i : Nat) (q : PortReq) (addr cause kind bar : Nat) (st : CplStatus) : State :=
  let s := portEvent s k i addr cause kind q.reqid.toNat bar false (refuseAer q cause st)
  if q.write then s else sendCpl s k i q.reqid.toNat st []

/-- An inbound write that arrives with EP set is recorded (R375), and AER logs the poisoned TLP. -/
def epNote (s : State) (k : PageKind) (i : Nat) (q : PortReq) (addr bar : Nat) : State :=
  if q.write && q.ep then portEvent s k i addr 8 0 q.reqid.toNat bar false (some aerPoison) else s

/-- The line transactions of [a, a + n) (R11): address and length of each. -/
def lineParts : Nat → Nat → Nat → List (Nat × Nat)
  | 0, _, _ => []
  | fuel + 1, a, n =>
    if n = 0 then []
    else
      let k := Nat.min n (64 - a % 64)
      (a, k) :: lineParts fuel (a + k) (n - k)

/-- The pieces of [a, a + n) by line. -/
def linesOf (a n : Nat) : List (Nat × Nat) := lineParts (n / 64 + 2) a n

/-- The lines of an inbound read: their data, or the CAUSE of the first that fails; none while one waits at a window,
which keeps what it has answered. -/
def readLines (cls : InitClass) (colour : BitVec 4) : List (Nat × Nat) → RData → State →
    Option (Except Nat RData) × State
  | [], acc, s => (some (.ok acc), s)
  | (a, n) :: ls, acc, s =>
    match fabricTxn s a n .read cls colour 0 0 with
    | (.ok d, s) =>
      match readLines cls colour ls
        { bytes := acc.bytes ++ d.bytes, tags := acc.tags ++ d.tags, poison := acc.poison ++ d.poison } s with
      | (none, s) => (none, putBack s (initKey cls colour 0) a n d)
      | r => r
    | (.refused _, s) => (some (.error 6), s)
    | (.pending, s) => (none, s)
    | (_, s) => (some (.error 14), s)

/-- The lines of an inbound write that begins at `x`: each is written or discarded by itself, the failures recorded; the
lines left where one waits. -/
def writeLines (k : PageKind) (i addr x : Nat) (q : PortReq) (bar : Nat) (cls : InitClass) (colour : BitVec 4) :
    List (Nat × Nat) → State → List (Nat × Nat) × State
  | [], s => ([], s)
  | (a, n) :: ls, s =>
    let po := if q.ep then (grans a n).map fun _ => true else []
    match fabricTxn s a n (.write (sliceZ q.data (a - x) n) [] po) cls colour 0 0 with
    | (.pending, s) => ((a, n) :: ls, s)
    | (.ok _, s) => writeLines k i addr x q bar cls colour ls (softWrite s a n)
    | (.refused _, s) => writeLines k i addr x q bar cls colour ls (portRecord s k i addr 6 0 q.reqid.toNat bar false)
    | (_, s) => writeLines k i addr x q bar cls colour ls (portRecord s k i addr 14 0 q.reqid.toNat bar false)

/-- An inbound request at device address `x` that was let through: performed line by line (R365, R372); what is left of it
where it waits at a port window. -/
def inbound (s : State) (k : PageKind) (i : Nat) (q : PortReq) (addr x bar : Nat) (cls : InitClass)
    (colour : BitVec 4) (left : List (Nat × Nat)) : Option (List (Nat × Nat)) × State :=
  if q.write then
    match writeLines k i addr x q bar cls colour left s with
    | ([], s) => (none, s)
    | (ls, s) => (some ls, s)
  else
    match readLines cls colour left noData s with
    | (none, s) => (some left, s)
    | (some (.error c), s) => (none, refuseIn s k i q addr c 0 bar .ca)
    | (some (.ok d), s) =>
      (none, sendCpl s k i q.reqid.toNat (if d.poison.any id then .ep else .sc) d.bytes)

/-- An inbound request of a host port: its targets lie in register space and in the scratchpad, where none waits. -/
def hostInbound (s : State) (h : Nat) (q : PortReq) (addr x bar : Nat) (colour : BitVec 4) : State :=
  (inbound (epNote s .host h q addr bar) .host h q addr x bar (BitVec.ofNat 4 (6 + h)) colour (linesOf x q.n)).2

/-- BAR0_REQUEST (R361, R367): `q.addr` is the offset in the BAR. -/
def execBar0Request (h : BitVec 1) (q : PortReq) (s : State) : Out :=
  let i := h.toNat
  let s := tlpIn s .host i
  let addr := barBase s i 0 + q.addr
  if !barsOpen s i || decide (0x1000000 < q.addr + q.n) then .next (refuseIn s .host i q addr 1 0 0 .ur)
  else if q.n ≠ 8 ∨ q.addr % 8 ≠ 0 then .next (refuseIn s .host i q addr 2 0 0 .ca)
  else .next (hostInbound s i q addr (regBase + q.addr) 0 0)

/-- The KIND of an inbound request that its capability refuses (R20). -/
def inboundCheck (c : Cap) (q : PortReq) (x : Nat) : Option Nat :=
  capCheck c [if q.write then rStore else rLoad] true false x q.n

/-- BAR4_REQUEST (R365, R367): aperture `q.addr / 2^20`, offset `q.addr % 2^20`. -/
def execBar4Request (h : BitVec 1) (q : PortReq) (s : State) : Out :=
  let i := h.toNat
  let s := tlpIn s .host i
  let addr := barBase s i 4 + q.addr
  let ap := apAt s i (q.addr / 2 ^ 20)
  let x := capCursor ap.cap + q.addr % 2 ^ 20
  if !barsOpen s i || decide (2 ^ 26 < q.addr + q.n) then .next (refuseIn s .host i q addr 1 0 4 .ur)
  else if ap.state ≠ 2 then .next (refuseIn s .host i q addr 3 0 4 .ca)
  else match inboundCheck ap.cap q x with
    | some kind => .next (refuseIn s .host i q addr 4 kind 4 .ca)
    | none =>
      if x < spadBase ∨ spadBase + 0x4000000 < x + q.n then .next (refuseIn s .host i q addr 5 0 4 .ca)
      else .next (hostInbound s i q addr x 4 (BitVec.ofNat 4 (capColour ap.cap)))

/-- The window of a media port is open and holds [a, a + n) (R372). -/
def iwinHit (s : State) (m a n : Nat) : Bool :=
  let w := rget s (pg .med m + 0x180)
  let z := fld w 5 0
  let base := fld w 63 12 * 0x1000
  decide (12 ≤ z) && decide (z ≤ 47) && decide (base ≤ a) && decide (a + n ≤ base + 2 ^ z)

/-- An inbound request of media port `m` is taken up: what is left of it where it waits. -/
def mediaDo (s : State) (m : Nat) (r : InReq) : Option InReq × State :=
  match r with
  | .bell b => (none, ringBell s b)
  | .mem q x colour left =>
    match inbound s .med m q q.addr x 0 (BitVec.ofNat 4 (8 + m)) colour left with
    | (none, s) => (none, s)
    | (some ls, s) => (some (.mem q x colour ls), s)

/-- The inbound requests of media port `m` are taken up in order, until one waits (assumption log 51). -/
def mediaPump (m : Nat) : Nat → State → State
  | 0, s => s
  | fuel + 1, s =>
    match (medAt s m).inq with
    | [] => s
    | r :: rs =>
      match mediaDo s m r with
      | (none, s) => mediaPump m fuel (setMed s m { medAt s m with inq := rs })
      | (some r, s) => setMed s m { medAt s m with inq := r :: rs }

/-- An inbound request that media port `m` let through joins those that wait. -/
def mediaTake (s : State) (m : Nat) (r : InReq) : State :=
  let p := medAt s m
  mediaPump m (p.inq.length + 1) (setMed s m { p with inq := p.inq ++ [r] })

/-- MEDIA_INBOUND_REQUEST (R372): `q.addr` is the PCIe address. -/
def execMediaInboundRequest (m : BitVec 2) (q : PortReq) (s : State) : Out :=
  let i := m.toNat
  let s := tlpIn s .med i
  let base := rfld s (pg .med i + 0x180) 63 12 * 0x1000
  if !linkUp s .med i then .next s
  else if !iwinHit s i q.addr q.n then .next (refuseIn s .med i q q.addr 1 0 0 .ur)
  else match (medAt s i).anchor with
    | none => .next (refuseIn s .med i q q.addr 3 0 0 .ca)
    | some c =>
      let x := capCursor c + (q.addr - base)
      match inboundCheck c q x with
      | some kind => .next (refuseIn s .med i q q.addr 4 kind 0 .ca)
      | none =>
        .next (mediaTake (epNote s .med i q q.addr 0) i (.mem q x (BitVec.ofNat 4 (capColour c)) (linesOf x q.n)))

/-! ### Doorbells and bell windows (R362, R371) -/

/-- The bell that word `j` of a bell window rings, if R362 lets it; `off` is the window's register. -/
def windowBell (s : State) (off j : Nat) : Option Nat :=
  let b := rfld s off 11 0 + j
  if j < rfld s off 43 32 ∧ b ≤ 4095 ∧ rbit s (pg .car + 0x100 + b / 64 * 8) (b % 64) = false then some b else none

/-- A write of word `j` of a port's bell window. -/
def windowWrite (s : State) (k : PageKind) (i off j addr reqid bar : Nat) : State :=
  match windowBell s off j with
  | some b => ringBell s b
  | none => portRecord s k i addr 7 0 reqid bar false

/-- MEDIA_DOORBELL_WRITE (R371): `off` is the offset in the doorbell page, and the write is poisoned where `req.val` is
true (R375). The bell rings behind the writes received before it. -/
def execMediaDoorbellWrite (m : BitVec 2) (off : BitVec 16) (req : Requested Bool) (s : State) : Out :=
  let i := m.toNat
  let reqid := req.reqid
  let s := tlpIn s .med i
  let o := off.toNat
  let idb := rget s (pg .med i + 0x190)
  let addr := fld idb 63 16 * 2 ^ 16 + o
  if !linkUp s .med i then .next s
  else if !bitAt idb 0 then
    .next (portEvent s .med i addr 1 0 reqid.toNat 0 false (some aerUr))
  else
    let s := if req.val then portEvent s .med i addr 8 0 reqid.toNat 0 false (some aerPoison) else s
    if o % 4 ≠ 0 then .next s
    else if o < 64 then .next (mediaTake s i (.bell (1664 + 16 * i + o / 4)))
    else if 0x8000 ≤ o then
      match windowBell s (pg .med i + 0x400) ((o - 0x8000) / 4) with
      | some b => .next (mediaTake s i (.bell b))
      | none => .next (portRecord s .med i addr 7 0 reqid.toNat 0 false)
    else .next s

/-- MSIX (R363): a write of HOST[h].MSIX. -/
def execMsix (h : BitVec 1) (v : BitVec 11) (ic : InitClass) (s : State) : Out :=
  regRow s .host h.toNat 0x180 (v.zeroExtend 64) ic 0

/-! ### BAR2 (R361 to R364, R366) -/

/-- ASTAT of aperture `a` (R364). -/
def astat (s : State) (h a : Nat) : Nat :=
  let x := apAt s h a
  x.closed * 2 ^ 17 + b2n x.refused * 2 ^ 16 + x.verdict * 2 ^ 8 + x.state

/-- The 8 bytes at offset 8w of BAR2 as they read (R361): doorbells, aperture slots, the MSI-X table and its Pending
Bit Array; everything else reads as zero. -/
def bar2Word (s : State) (h w : Nat) : Nat :=
  let p := hostAt s h
  if w < 0x40 then (rget s (pg .host h + 0x200 + 8 * w)).toNat
  else if 0x1000 ≤ w ∧ w < 0x1200 then
    let a := (w - 0x1000) / 8
    let k := (w - 0x1000) % 8
    if k < 4 then nfld (apAt s h a).writ.toNat (64 * k + 63) (64 * k) else if k = 5 then astat s h a else 0
  else if 0x2000 ≤ w ∧ w < 0x3000 then
    nfld (smGet msixReset p.msix ((w - 0x2000) / 2)).toNat (64 * (w % 2) + 63) (64 * (w % 2))
  else if 0x3000 ≤ w ∧ w < 0x3020 then (p.pba.filter fun v => decide (v / 64 = w - 0x3000)).foldl (fun a v => a + 2 ^ (v % 64)) 0
  else 0

/-- Bytes [o, o + n) of BAR2. -/
def bar2Bytes (s : State) (h o n : Nat) : List Byte :=
  sliceZ ((List.range (n / 8 + 2)).flatMap fun i => leBytes 8 (bar2Word s h (o / 8 + i))) (o % 8) n

/-- A write of doorbell `d`: 4 or 8 bytes (R362). -/
def doorbell (s : State) (h d : Nat) (v : List Byte) : State :=
  if v.length = 4 ∨ v.length = 8 then ringBell (rset s (pg .host h + 0x200 + 8 * d) (wd (leNat v))) (1536 + 64 * h + d)
  else s

/-- ACMD LOAD of aperture `a` (R364): it closes, takes a copy of WRIT and queues its check at the seal unit. -/
def apLoad (s : State) (h a : Nat) : State :=
  let x := apAt s h a
  if x.state = 1 then setAp s h a { x with refused := true }
  else
    let s := closeAp s h a 1
    let s := setAp s h a { apAt s h a with copy := x.writ, state := 1, refused := false, cap := Cap.null }
    let op : IslOp :=
      { src := .aperture h a, port := 0x10, wiped := false, snap := none
        vals := [(0, { bits := x.writ.truncate 128, tag := false }),
          (1, { bits := (x.writ >>> 128).truncate 128, tag := false }), (0x10, intCap 4)] }
    { s with islQ := smSet [] s.islQ 0 (smGet [] s.islQ 0 ++ [op]) }

/-- ACMD CLOSE of aperture `a`. -/
def apClose (s : State) (h a : Nat) : State :=
  let s := closeAp s h a 1
  setAp s h a { apAt s h a with closed := 1 }

/-- A write of ACMD: values other than LOAD and CLOSE are discarded. -/
def acmd (s : State) (h a v : Nat) : State := if v = 1 then apLoad s h a else if v = 2 then apClose s h a else s

/-- A write of bytes at offset `o` of aperture slot `a`: WRIT takes its bytes, then ACMD acts. -/
def apSlotWrite (s : State) (h a o : Nat) (d : List Byte) : State :=
  let x := apAt s h a
  let s := if o < 0x20 then
      let w := patch (leBytes 32 x.writ.toNat) o (d.take (0x20 - o))
      setAp s h a { x with writ := BitVec.ofNat 256 (leNat w) }
    else s
  if o ≤ 0x20 ∧ 0x20 < o + d.length then acmd s h a (leAt d (0x20 - o) 8) else s

/-- The MSI-X table entries after a write of bytes at offset `o` of the table. -/
def tableWrite (p : HostPort) (o : Nat) (d : List Byte) : HostPort :=
  (List.range (d.length / 16 + 2)).foldl (fun p i =>
    let v := o / 16 + i
    let lo := if i = 0 then o % 16 else 0
    let b := if i = 0 then d.take (16 - lo) else (d.drop (16 * i - o % 16)).take 16
    if b = [] then p
    else
      let e := patch (leBytes 16 (smGet msixReset p.msix v).toNat) lo b
      { p with msix := smSet msixReset p.msix v (BitVec.ofNat 128 (leNat e)) }) p

/-- A request to BAR2 of an open port (R361), whose offsets without a meaning read as zero and discard writes. -/
def bar2Do (s : State) (h : Nat) (q : PortReq) : State :=
  let o := q.addr
  if !q.write then sendCpl s .host h q.reqid.toNat .sc (bar2Bytes s h o q.n)
  else if o < 0x200 then (if o % 8 = 0 then doorbell s h (o / 8) q.data else s)
  else if 0x1000 ≤ o ∧ o < 0x5000 then
    windowWrite s .host h (pg .host h + 0x400) ((o - 0x1000) / 8) (barBase s h 2 + o) q.reqid.toNat 2
  else if 0x8000 ≤ o ∧ o < 0x9000 then apSlotWrite s h ((o - 0x8000) / 64) (o % 64) q.data
  else if 0x10000 ≤ o ∧ o < 0x18000 then msixFlush (setHost s h (tableWrite (hostAt s h) (o - 0x10000) q.data)) h
  else s

/-- A request to BAR2. -/
def bar2 (s : State) (h : Nat) (q : PortReq) : State :=
  let s := tlpIn s .host h
  let addr := barBase s h 2 + q.addr
  if !barsOpen s h || decide (0x20000 < q.addr + q.n) then refuseIn s .host h q addr 1 0 2 .ur
  else bar2Do (epNote s .host h q addr 2) h q

/-- A write of bytes at offset `o` of BAR2. -/
def bar2Write (s : State) (h o : Nat) (d : List Byte) (ep : Bool) (reqid : BitVec 16) : State :=
  bar2 s h { write := true, addr := o, n := d.length, data := d, ep := ep, reqid := reqid }

/-- DOORBELL_WRITE (R361, R362): a write to BAR2. -/
def execDoorbellWrite (h : BitVec 1) (off : Requested Nat) (data : List Byte) (ep : Bool) (s : State) : Out :=
  .next (bar2Write s h.toNat off.val data ep off.reqid)

/-- DOORBELL_READ (R361, R362): a read of BAR2. -/
def execDoorbellRead (h : BitVec 1) (q : PortReq) (s : State) : Out :=
  .next (bar2 s h.toNat { q with write := false })

/-- BELL_WINDOW_WRITE (R362): a write of bell window word `j`, whose data is discarded. -/
def execBellWindowWrite (h : BitVec 1) (j : BitVec 11) (reqid : BitVec 16) (s : State) : Out :=
  .next (bar2Write s h.toNat (0x1000 + 8 * j.toNat) (List.replicate 8 0) false reqid)

/-- MSIX_TABLE_WRITE (R363): an entry is written, and its vector sent if that unmasks it. -/
def execMsixTableWrite (h : BitVec 1) (v : BitVec 11) (entry : Requested (BitVec 128)) (s : State) : Out :=
  .next (bar2Write s h.toNat (0x10000 + 16 * v.toNat) (leBytes 16 entry.val.toNat) false entry.reqid)

/-- APERTURE_LOAD (R364): the host writes WRIT, then LOAD. -/
def execApertureLoad (h : BitVec 1) (a : BitVec 6) (writ : Requested (BitVec 256)) (s : State) : Out :=
  let o := 0x8000 + 64 * a.toNat
  .next (bar2Write (bar2Write s h.toNat o (leBytes 32 writ.val.toNat) false writ.reqid) h.toNat (o + 0x20) (leBytes 8 1) false writ.reqid)

/-- APERTURE_CLOSE (R364, R366): the host's CLOSE. -/
def execApertureClose (h : BitVec 1) (a : Requested (BitVec 6)) (s : State) : Out :=
  .next (bar2Write s h.toNat (0x8000 + 64 * a.val.toNat + 0x20) (leBytes 8 2) false a.reqid)

/-- APCLOSE: firmware closes the apertures of the bits written as 1. -/
def execApclose (h : BitVec 1) (mask : Word) (ic : InitClass) (s : State) : Out :=
  regRow s .host h.toNat 0x188 mask ic 0

/-! ### Completions of outbound reads (R369, R370) -/

/-- Request `r` of a port ends with `d`, and the next that waits is sent. -/
def endRead (s : State) (k : PageKind) (i : Nat) (r : OutRead) (d : Option RData) : State :=
  let io := ioAt s k i
  let s := setIo s k i (ioNext { io with
    reads := io.reads.filter fun x => decide (x.tag ≠ r.tag)
    dones := io.dones ++ answerOf r d })
  wakeReader s r.src

/-- The data a completion gives to a read, every granule poisoned under EP. -/
def cplData (r : OutRead) (d : List Byte) (ep : Bool) : RData :=
  { bytes := sliceZ d 0 r.n, tags := (grans r.pa r.n).map fun _ => false, poison := (grans r.pa r.n).map fun _ => ep }

/-- A completion with status `st` for request `r` (R369, R370). -/
def completeRead (s : State) (k : PageKind) (i : Nat) (r : OutRead) (st : CplStatus) (d : List Byte) : State :=
  match st with
  | .sc => endRead s k i r (some (cplData r d false))
  | .ep => endRead (portEvent s k i r.addr 8 0 0 0 true (some aerPoison)) k i r (some (cplData r d true))
  | .ur => endRead (portRecord s k i r.addr 9 0 0 0 true) k i r none
  | .ca => endRead (portRecord s k i r.addr 10 0 0 0 true) k i r none
  | .rrs =>
    if r.kind = 0 then endRead (portRecord s k i r.addr 9 0 0 0 true) k i r none
    else if k = .med ∧ rbit s (pg .med i + 0x100) 1 = true ∧ r.kind < 3 ∧ r.n = 4 ∧ r.dev % 0x1000 = 0 then
      endRead s k i r (some (cplData r (leBytes 4 0xFFFF0001) false))
    else s

/-- The page of a PCIe port. -/
def pciePort : Port → Option (PageKind × Nat)
  | .host h => some (.host, h.toNat)
  | .med m => some (.med, m.toNat)
  | .peer _ => none

/-- The outstanding read of a port with this tag. -/
def findRead (s : State) (k : PageKind) (i tag : Nat) : Option OutRead :=
  (ioAt s k i).reads.find? fun r => decide (r.tag = tag)

/-- PCIE_COMPLETION (R369). -/
def execPcieCompletion (p : Port) (tag : Nat) (st : CplStatus) (data : List Byte) (s : State) : Out :=
  match pciePort p with
  | none => .next s
  | some (k, i) =>
    let s := tlpIn s k i
    match findRead s k i tag with
    | none => .next s
    | some r => .next (completeRead s k i r st data)

/-- Completion Timeout Disable of Device Control 2 (R358); the spec gives a media port no configuration access. -/
def timeoutOff (s : State) (k : PageKind) (i : Nat) : Bool :=
  decide (k = .host) && (cfgDword s i (Config.pcieCap + 0x28)).toNat.testBit 4

/-- COMPLETION_TIMEOUT (R369). -/
def execCompletionTimeout (p : Port) (tag : Nat) (s : State) : Out :=
  match pciePort p with
  | none => .next s
  | some (k, i) => match findRead s k i tag with
    | none => .next s
    | some r =>
      if timeoutOff s k i then .next s
      else .next (endRead (portEvent s k i r.addr 11 0 0 0 true (some aerTimeout)) k i r none)

/-- CONFIG_RETRY (R370): the request is sent again, until 1 s has passed. -/
def execConfigRetry (m : BitVec 2) (tag : Nat) (expired : Bool) (s : State) : Out :=
  match findRead s .med m.toNat tag with
  | none => .next s
  | some r =>
    if r.kind ≠ 0 ∧ expired = true then
      .next (endRead (portRecord s .med m.toNat r.addr 11 0 0 0 true) .med m.toNat r none)
    else .next s

/-! ### Anchors, errors -/

/-- A write of IANCHOR with EN as given and SPA as it stands. -/
def ianchorRow (p : Port) (en : Bool) (ic : InitClass) (s : State) : Out :=
  match p with
  | .med m => regRow s .med m.toNat 0x188 (setFld (rget s (ianchorOff .med m.toNat)) 0 0 (b2n en)) ic 0
  | .peer q => regRow s .peer q.toNat 0x188 (setFld (rget s (ianchorOff .peer q.toNat)) 0 0 (b2n en)) ic 0
  | .host _ => .next s

/-- IANCHOR_ENABLE (R372, R388). -/
def execIanchorEnable (p : Port) (ic : InitClass) (s : State) : Out := ianchorRow p true ic s

/-- IANCHOR_DISABLE (R372, R388). -/
def execIanchorDisable (p : Port) (ic : InitClass) (s : State) : Out := ianchorRow p false ic s

/-- BAD_TLP (R431, R438): a received TLP or DLLP fails its LCRC; an armed injection point fires on the TLP. -/
def execBadTlp (q : BadRx) (s : State) : Out :=
  match pciePort q.port with
  | none => .next s
  | some (k, i) =>
    let inj := injArmed s k i 1 && !q.dllp
    .next (tlpBad (if inj then injFire s k i else s) k i inj q.dllp)

/-- DOWNSTREAM_ERROR_MESSAGE (R374): INT_RAW bit 4; which bits of Root Error Status it sets is not stated. -/
def execDownstreamErrorMessage (m : BitVec 2) (s : State) : Out :=
  let i := m.toNat
  let (n, s) := freeNat (tlpIn s .med i)
  let s := setMed s i { medAt s i with root := (medAt s i).root ||| ((Config.freeWord n).truncate 32 &&& 0x7F) }
  .next (intSet s .med i 4)

end Sys2Proof.Machine
end

