-- ==== Sys2Proof/Machine/Translate.lean ====
section
/-! DEFINITION. Address translation (R154 to R168): tables and their walk, the TLBs, and invalidations (R92). -/

namespace Sys2Proof.Machine
open Sys2Proof

/-! ### TLBs (R164) -/

/-- Numbers of the TLBs: L1 instruction 0 to 127, L1 data 128 to 255, second-level 256 to 263, Mover 264. -/
def tlbNum : TlbId → Nat
  | .l1i k => k.toNat
  | .l1d k => 128 + k.toNat
  | .l2 c => 256 + c.toNat
  | .mover => 264

def tlbCount : Nat := 265

def tlbAt (s : State) (id : Nat) : List TlbEnt := smGet [] s.tlbs id
def setTlb (s : State) (id : Nat) (es : List TlbEnt) : State := { s with tlbs := smSet [] s.tlbs id es }

/-- Entries of a TLB. -/
def tlbCap (id : Nat) : Nat := if id < 128 then 32 else if id < 256 then 48 else if id < 264 then 2048 else 256

/-- The index a fill replaces among `len` held of at most `cap`: R55 and R164 leave it open, so it is a free value,
which may also take no entry while there is room. -/
def pickVictim (s : State) (len cap : Nat) : Option Nat × State :=
  if len = 0 then (none, s)
  else
    let (n, s) := freeNat s
    let v := Config.victim n len
    if v < len then (some v, s) else if len < cap then (none, s) else (some (v % len), s)

/-- An invalidation of R92 covers an entry: one of an address, every entry made from the leaf that maps it, whatever part
of the leaf the entry holds. -/
def covers (i : Inval) (e : TlbEnt) : Bool :=
  (e.world == i.world) &&
  (match i.op.val with
    | 0 => decide (e.asid = i.asid) && e.s1.any fun l => decide (i.addr / 2 ^ (39 - 9 * l.lvl) = e.va / 2 ^ (39 - 9 * l.lvl))
    | 1 => e.s1.isSome && decide (e.asid = i.asid)
    | 2 => e.s1.isSome
    | 3 => e.s2.any fun l => decide (i.addr / 2 ^ (39 - 9 * l.lvl) = e.ipa / 2 ^ (39 - 9 * l.lvl))
    | _ => e.s2.isSome)

/-- An invalidation that is pending elsewhere has completed at TLB `id` and covers `e` (R167): `e` may come from a TLB
that still holds it, so it does not enter. -/
def staleAt (s : State) (id : Nat) (e : TlbEnt) : Bool := (s.invals.take (smGet 0 s.tlbDone id)).any fun i => covers i e

/-- An entry enters a TLB. -/
def tlbInsert (s : State) (id : Nat) (e : TlbEnt) : State :=
  if (tlbAt s id).contains e || staleAt s id e then s
  else
    let (v, s) := pickVictim s (tlbAt s id).length (tlbCap id)
    let es := tlbAt s id
    setTlb s id (e :: (match v with
      | some i => es.eraseIdx i
      | none => es))

/-- The first entry of the TLBs `ids` for which `p` holds, with its TLB. -/
def tlbFind (s : State) (p : TlbEnt → Bool) : List Nat → Option (Nat × TlbEnt)
  | [] => none
  | id :: ids => match (tlbAt s id).find? p with
    | some e => some (id, e)
    | none => tlbFind s p ids

/-- An entry found in the second-level TLB alone enters the first-level one. -/
def tlbPromote (s : State) (ids : List Nat) (hit : Nat × TlbEnt) : State :=
  match ids with
  | id :: _ => if id = hit.1 then s else tlbInsert s id hit.2
  | [] => s

/-! ### Who translates -/

/-- An access to translate: its world, ASID and XLAT, whether at user level, and the walker: class and SOURCE of its
reads, and the TLBs it uses, nearest first. -/
structure XReq where
  world : Bool
  asid  : BitVec 16
  xlat  : Bool
  user  : Bool
  cls   : InitClass
  src   : Nat
  ids   : List Nat
  deriving Repr

/-- A failure: XLAT with STAGE, LEVEL and XKIND, or a walk read from `pa` that was answered with an error. -/
inductive XErr where
  | xlat (stage level xkind : Nat)
  | bus (pa : Nat) (r : Resp)
  deriving Repr

/-- What a translation gives: the PA, UC, and the entry used; no answer yet, for want of a walk; or a failure. -/
inductive XRes where
  | ok (pa : Nat) (uc : Bool) (e : Option TlbEnt)
  | miss
  | bad (e : XErr)
  deriving Repr

def s2rootOff (w : Bool) : Nat := pg .sys + 0x190 + 8 * b2n w
def s1dirOff (w : Bool) : Nat := pg .sys + 0x180 + 8 * b2n w
/-- S2EN of R154. -/
def s2en (s : State) (w : Bool) : Bool := rbit s (s2rootOff w) 0

/-- The permissions of R162: R 1, W 2, X 4, as a sum. -/
abbrev needR : Nat := 1
abbrev needW : Nat := 2
abbrev needX : Nat := 4

/-- A leaf permits an access. -/
def permits (l : Leaf) (need : Nat) : Bool :=
  (!need.testBit 0 || l.r) && (!need.testBit 1 || l.w) && (!need.testBit 2 || l.x)

/-- The entry is a combined one for `va`. -/
def isCombined (q : XReq) (va : Nat) (e : TlbEnt) : Bool :=
  e.s1.isSome && (e.world == q.world) && decide (e.asid = q.asid) && decide (va / 2 ^ e.log2 = e.va / 2 ^ e.log2)

/-- The entry is a stage-2 one for `ipa`. -/
def isStage2 (w : Bool) (ipa : Nat) (e : TlbEnt) : Bool :=
  e.s1.isNone && (e.world == w) && decide (ipa / 2 ^ e.log2 = e.ipa / 2 ^ e.log2)

/-- The permission of a leaf, as a failure at its stage. -/
def leafFail (l : Option Leaf) (stage : Nat) (need : Nat) (user : Bool) : Option XErr :=
  match l with
  | none => none
  | some l => if !permits l need || (user && !l.u) then some (.xlat stage l.lvl 1) else none

/-- What entry `e` gives for an access at offset `o` of what it maps. -/
def entRes (e : TlbEnt) (o need : Nat) (user : Bool) : XRes :=
  match leafFail e.s1 1 need user with
  | some x => .bad x
  | none => match leafFail e.s2 2 need false with
    | some x => .bad x
    | none => .ok (e.pa + o % 2 ^ e.log2) ((e.s1.any (·.uc)) || (e.s2.any (·.uc))) (some e)

/-- Translation from the TLBs (R154, R158). -/
def xlateTry (s : State) (q : XReq) (va need : Nat) : XRes × State :=
  if !q.xlat && !s2en s q.world then (.ok va false none, s)
  else if 2 ^ 48 ≤ va then (.bad (.xlat (if q.xlat then 1 else 2) 0 4), s)
  else match tlbFind s (if q.xlat then isCombined q va else isStage2 q.world va) q.ids with
    | some hit => (entRes hit.2 va need (q.user && q.xlat), tlbPromote s q.ids hit)
    | none => (.miss, s)

/-! ### The walk (R160, R161) -/

/-- The state of a walk, with the entries it has made and the stage-1 leaf it has reached. -/
structure Walk where
  s    : State
  news : List TlbEnt
  leaf : Option Leaf

/-- XKIND of an entry that fails R160 at a level, if it does. -/
def entryBad (v : Word) (stage l : Nat) : Option Nat :=
  let table := bitAt v 1 && decide (l < 3)
  if !bitAt v 0 || decide (fld v 63 48 ≠ 0) || decide (fld v 11 7 ≠ 0) then some 0
  else if table then (if fld v 6 2 ≠ 0 then some 0 else none)
  else if l = 0 ∨ (l = 3 ∧ bitAt v 1 = false) ∨ (stage = 2 ∧ bitAt v 5 = true) then some 0
  else if fld v 47 12 * 0x1000 % 2 ^ (39 - 9 * l) ≠ 0 then some 4
  else none

/-- The leaf that an entry is. -/
def leafOf (v : Word) (l : Nat) : Leaf :=
  { lvl := l, r := bitAt v 2, w := bitAt v 3, x := bitAt v 4, u := bitAt v 5, uc := bitAt v 6 }

/-- The cluster that the requests of a walker come from: none for the Mover and the engines. -/
def walkCluster (q : XReq) : Nat := (q.ids.getD 1 264) - 256

/-- A walk read at a PA, for stage and level. -/
def walkReadPa (q : XReq) (pa st l : Nat) (w : Walk) : Except XErr Word × Walk :=
  if !(isDram pa || isSpad pa) then (.error (.xlat st l 2), w)
  else match memTxn w.s pa 8 .read q.cls 0 q.src 4 with
    | (.ok d, s) =>
      let (d, s) := linkDeliver s (walkCluster q) pa d
      if d.poison.any id then (.error (.xlat st l 3), { w with s := s }) else (.ok (wd (leNat d.bytes)), { w with s := s })
    | (r, s) => (.error (.bus pa r), { w with s := s })

/-- The stage-2 levels from table `t` on. -/
def s2Levels (q : XReq) (ipa : Nat) : Nat → Nat → Nat → Walk → Except XErr TlbEnt × Walk
  | 0, _, _, w => (.error (.xlat 2 3 0), w)
  | n + 1, l, t, w =>
    match walkReadPa q (t + ipa / 2 ^ (39 - 9 * l) % 512 * 8) 2 l w with
    | (.error e, w) => (.error e, w)
    | (.ok v, w) =>
      match entryBad v 2 l with
      | some k => (.error (.xlat 2 l k), w)
      | none =>
        let a := fld v 47 12 * 0x1000
        if bitAt v 1 && decide (l < 3) then s2Levels q ipa n (l + 1) a w
        else
          let z := 39 - 9 * l
          let e : TlbEnt :=
            { world := q.world, asid := 0, s1 := none, s2 := some (leafOf v l), va := 0, ipa := alignDown ipa (2 ^ z), pa := a, log2 := z }
          (.ok e, { w with news := w.news ++ [e] })

/-- Stage 2 of an IPA, from an entry held or made or by its levels; none where stage 2 is off. -/
def s2Entry (q : XReq) (ipa : Nat) (w : Walk) : Except XErr (Option TlbEnt) × Walk :=
  if !s2en w.s q.world then (.ok none, w)
  else match w.news.find? (isStage2 q.world ipa) with
    | some e => (.ok (some e), w)
    | none => match tlbFind w.s (isStage2 q.world ipa) q.ids with
      | some hit => (.ok (some hit.2), w)
      | none => match s2Levels q ipa 4 0 (rfld w.s (s2rootOff q.world) 47 12 * 0x1000) w with
        | (.ok e, w) => (.ok (some e), w)
        | (.error x, w) => (.error x, w)

/-- The PA of an IPA under an entry of stage 2. -/
def s2Pa (e : Option TlbEnt) (ipa : Nat) : Nat :=
  match e with
  | some e => e.pa + ipa % 2 ^ e.log2
  | none => ipa

/-- A stage-1 walk read at an IPA. -/
def walkReadIpa (q : XReq) (ipa l : Nat) (w : Walk) : Except XErr Word × Walk :=
  match s2Entry q ipa w with
  | (.error x, w) => (.error x, w)
  | (.ok e, w) =>
    match leafFail (e.bind (·.s2)) 2 needR false with
    | some x => (.error x, w)
    | none => walkReadPa q (s2Pa e ipa) 1 l w

/-- The combined entry of a stage-1 leaf and what stage 2 makes of its output. -/
def combine (q : XReq) (va z a : Nat) (leaf : Leaf) (e2 : Option TlbEnt) : TlbEnt :=
  let ipa := a + va % 2 ^ z
  let log2 := match e2 with
    | some e => Nat.min z e.log2
    | none => z
  { world := q.world, asid := q.asid, s1 := some leaf, s2 := e2.bind (·.s2), va := alignDown va (2 ^ log2)
    ipa := alignDown ipa (2 ^ log2), pa := alignDown (s2Pa e2 ipa) (2 ^ log2), log2 := log2 }

/-- The leaf reached at stage 1: its permission, then stage 2 of its output. -/
def s1Leaf (q : XReq) (va need : Nat) (v : Word) (l : Nat) (w : Walk) : XRes × Walk :=
  let leaf := leafOf v l
  let w := { w with leaf := some leaf }
  let a := fld v 47 12 * 0x1000
  let z := 39 - 9 * l
  if !permits leaf need || (q.user && !leaf.u) then
    let w := if s2en w.s q.world then w else { w with news := w.news ++ [combine q va z a leaf none] }
    (.bad (.xlat 1 l 1), w)
  else match s2Entry q (a + va % 2 ^ z) w with
    | (.error x, w) => (.bad x, w)
    | (.ok e2, w) =>
      let e := combine q va z a leaf e2
      (entRes e va need q.user, { w with news := w.news ++ [e] })

/-- The stage-1 levels from the table at IPA `t` on. -/
def s1Levels (q : XReq) (va need : Nat) : Nat → Nat → Nat → Walk → XRes × Walk
  | 0, _, _, w => (.bad (.xlat 1 3 0), w)
  | n + 1, l, t, w =>
    match walkReadIpa q (t + va / 2 ^ (39 - 9 * l) % 512 * 8) l w with
    | (.error x, w) => (.bad x, w)
    | (.ok v, w) =>
      match entryBad v 1 l with
      | some k => (.bad (.xlat 1 l k), w)
      | none =>
        if bitAt v 1 && decide (l < 3) then s1Levels q va need n (l + 1) (fld v 47 12 * 0x1000) w
        else s1Leaf q va need v l w

/-- translate of R161. -/
def walkFrom (q : XReq) (va need : Nat) (w : Walk) : XRes × Walk :=
  if !q.xlat then
    match s2Entry q va w with
    | (.error x, w) => (.bad x, w)
    | (.ok (some e), w) => (entRes e va need false, w)
    | (.ok none, w) => (.ok va false none, w)
  else if !rbit w.s (s1dirOff q.world) 0 then (.bad (.xlat 1 0 0), w)
  else match walkReadIpa q (rfld w.s (s1dirOff q.world) 47 19 * 0x80000 + q.asid.toNat * 8) 0 w with
    | (.error x, w) => (.bad x, w)
    | (.ok d, w) =>
      if !bitAt d 0 || decide (fld d 63 48 ≠ 0) || decide (fld d 11 1 ≠ 0) then (.bad (.xlat 1 0 0), w)
      else s1Levels q va need 4 0 (fld d 47 12 * 0x1000) w

/-- The walk for `va`, with what it made. -/
def walkAll (s : State) (q : XReq) (va need : Nat) : XRes × Walk := walkFrom q va need { s := s, news := [], leaf := none }

/-- A walk, and its entries installed, those of a nested walk too, in the TLBs of both levels: a walk that failed installs
nothing (R164, assumption log 80). -/
def walkRun (s : State) (q : XReq) (va need : Nat) : XRes × State :=
  let (r, w) := walkAll s q va need
  let keep := match r with
    | .bad (.xlat _ _ k) => decide (k = 1)
    | .bad (.bus _ _) => false
    | _ => true
  if keep then (r, w.news.foldl (fun s e => q.ids.foldl (fun s id => tlbInsert s id e) s) w.s) else (r, w.s)

/-- Translation with the walk at once, for the Mover and the engines (R155). -/
def xlateNow (s : State) (q : XReq) (va need : Nat) : XRes × State :=
  match xlateTry s q va need with
  | (.miss, s) => walkRun s q va need
  | r => r

/-! ### Invalidation (R92, R167) -/

/-- Context `n` uses TLB `id`. -/
def tlbUser (id n : Nat) : Bool :=
  if id < 128 then decide (n / 16 = id) else if id < 256 then decide (n / 16 = id - 128)
  else decide (id < 264) && decide (n / 256 = id - 256)

/-- An access of a context that was translated with a covered entry has not completed. -/
def coveredOut (i : Inval) (c : Ctx) : Bool :=
  (c.stores.any fun e => e.xl.any (covers i)) || (c.loads.any fun l => l.xl.any (covers i)) ||
    (match c.fetch with
      | some f => f.xl.any (covers i)
      | none => false)

/-- A read that waits at a port window was translated with a covered entry. -/
def coveredRead (s : State) (i : Inval) : Bool :=
  let any' (rs : List OutRead) : Bool := rs.any fun r => r.xl.any (covers i)
  (s.hosts.any fun p => any' (p.2.io.reads ++ p.2.io.waitR)) || (s.meds.any fun p => any' (p.2.io.reads ++ p.2.io.waitR)) ||
    s.peers.any fun p => any' (p.2.reads ++ p.2.waitR)

/-- The Mover or an engine keeps the address of a line for its read-back, translated with a covered entry. -/
def coveredBack (s : State) (i : Inval) : Bool :=
  (s.movs.any fun p => p.2.lastXl.any (covers i)) || s.rings.any fun p => p.2.descs.any fun d => d.lastXl.any (covers i)

/-- Every access of the users of TLB `id` that was translated with a covered entry has completed (R167). -/
def accessesDone (s : State) (id : Nat) (i : Inval) : Bool :=
  !(s.ctxs.any fun p => tlbUser id p.1 && coveredOut i p.2) && !coveredRead s i && !(decide (id = 264) && coveredBack s i)

/-- The TLB is in a domain that is off, and holds nothing. -/
def tlbOff (s : State) (id : Nat) : Bool :=
  if id < 264 then !domOn s (3 + (if id < 256 then id % 128 / 16 else id - 256)) else !domOn s 1

/-- Invalidations that a TLB has completed. -/
def tlbDoneOf (s : State) (id : Nat) : Nat := if tlbOff s id then s.invals.length else smGet 0 s.tlbDone id

/-- Invalidation number `n` has completed at every TLB. -/
def invalDone (s : State) (n : Nat) : Bool := (List.range tlbCount).all fun id => decide (n < tlbDoneOf s id)

/-- Every invalidation that `cx` issued has completed everywhere. -/
def synced (s : State) (cx : CtxId) : Bool :=
  s.invals.zipIdx.all fun p => decide (p.1.issuer ≠ cx) || invalDone s p.2

/-- INVALIDATION_COMPLETE (R167): the oldest invalidation pending at a TLB. -/
def execInvalidationComplete (tlb : TlbId) (s : State) : Out :=
  let id := tlbNum tlb
  match s.invals[smGet 0 s.tlbDone id]? with
  | none => .next s
  | some i =>
    if !accessesDone s id i then .next s
    else
      let s := setTlb s id ((tlbAt s id).filter fun e => !covers i e)
      let s := { s with tlbDone := smSet 0 s.tlbDone id (smGet 0 s.tlbDone id + 1) }
      let s := if (List.range tlbCount).all fun t => decide (s.invals.length ≤ tlbDoneOf s t) then
          { s with invals := [], tlbDone := [] }
        else s
      .next (s.ctxs.foldl (fun s p => if p.2.why = some .tlbsync then wakeIf s (BitVec.ofNat 11 p.1) .tlbsync else s) s)

end Sys2Proof.Machine
end

