-- ==== Sys2Proof/Machine/Access.lean ====
section
/-! DEFINITION. How a core reaches memory: translation of an access by lines (R54, R161), cached and uncached reads
(R55 to R57, R199), the store buffer (R52, R53, R198), and instruction fetch (R48). -/

namespace Sys2Proof.Machine
open Sys2Proof

/-! ### Faults of an access -/

/-- The fault of an access at `a` through register `reg`; `half` is 1 or 2 for a split access. -/
def accFault (kind a reg half : Nat) : FaultInfo :=
  { kind := kind, addr := some (wd a), reg := reg, half := half, split := decide (half ≠ 0) }

/-- A response that is not data, as a fault (R203, R469, R368). -/
def respFault (r : Resp) (f : FaultInfo) : FaultInfo :=
  match r with
  | .refused g | .err g => { f with kind := kGate, detail := g }
  | .noTarget => { f with kind := kGate, detail := 16 }
  | .port p => { f with kind := kPort, detail := p }
  | _ => f

/-- A failed translation, as a fault (R161, R163). -/
def xFault (asid : BitVec 16) (e : XErr) (f : FaultInfo) : FaultInfo :=
  match e with
  | .xlat st l k => { f with kind := kXlat, detail := asid.toNat, stage := st, level := l, xkind := k }
  | .bus _ r => respFault r f

/-- The translation of an access by a context (R154, R163); `fetch` chooses the instruction side. -/
def coreX (cx : CtxId) (c : Ctx) (fetch : Bool) : XReq :=
  let k := (coreOf cx).toNat
  let m := if fetch then fetchMode c else effMode c
  { world := c.cust, asid := m.asid, xlat := m.xlat, user := !c.super
    cls := BitVec.ofNat 4 (1 + 2 * b2n c.cust), src := (cxidWord cx c).toNat
    ids := [if fetch then k else 128 + k, 256 + clusterOf (coreOf cx)] }

/-- A part of an access within one line, translated. -/
structure Piece where
  va  : Nat
  n   : Nat
  pa  : Nat
  uc  : Bool
  ent : Option TlbEnt
  deriving Repr

/-- An access that a context makes: its authority's register, and the instruction word for a fault found by a
walk. -/
structure CoreAcc where
  cx   : CtxId
  c    : Ctx
  reg  : Nat
  cap  : Cap
  word : BitVec 32
  deriving Repr

/-- The SPLIT half of part `i` of `m` parts. -/
def halfOf (split : Bool) (i : Nat) : Nat := if split then i + 1 else 0

/-- The parts of an access translated in order; a miss leaves a walk to be made and stalls. -/
def xlateParts (a : CoreAcc) (need : Nat) (split : Bool) : Nat → List (Nat × Nat) → State → Except Res (List Piece × State)
  | _, [], s => .ok ([], s)
  | i, (va, n) :: ps, s =>
    let f := accFault kXlat va a.reg (halfOf split i)
    match xlateTry s (coreX a.cx a.c false) va need with
    | (.ok pa uc e, s) =>
      match xlateParts a need split (i + 1) ps s with
      | .ok (r, s) => .ok ({ va := va, n := n, pa := pa, uc := uc, ent := e } :: r, s)
      | .error r => .error r
    | (.bad e, s) => .error (.fault s (xFault (effMode a.c).asid e f))
    | (.miss, s) =>
      let c := ctxAt s a.cx
      let w : WalkReq := { va := wd va, mode := effMode a.c, need := need, fetch := false, info := f, word := a.word }
      .error (.stall (setCtx s a.cx { c with walk := some w }) .walk)

/-- The lines of [x, x + n), translated. -/
def xlateAcc (a : CoreAcc) (need x n : Nat) (s : State) : Except Res (List Piece × State) :=
  let ps := linesOf x n
  xlateParts a need (decide (1 < ps.length)) 0 ps s

/-! ### Caches (R55 to R57, R199) -/

/-- A DRAM access that the caches serve (R56, R60). -/
def cacheable (s : State) (k : CoreId) (pa : Nat) (uc : Bool) : Bool := isDram pa && !uc && !detOn s k

/-- The line's record grants this access. -/
def granted (l : CLine) (cls : InitClass) (colour : BitVec 4) (k : Kinds) : Bool :=
  decide (l.cls = cls) && decide (l.colour = colour) && (!k.r || l.gr) && (!k.w || l.gw) && (!k.x || l.gx)

/-- The record replaced with a new grant. -/
def regrant (l : CLine) (cls : InitClass) (colour : BitVec 4) (k : Kinds) : CLine :=
  { l with cls := cls, colour := colour, gr := k.r, gw := k.w, gx := k.x }

/-- [pa, pa + n) of a cached line. -/
def lineData (l : CLine) (pa n : Nat) : RData :=
  let g := (grans pa n).map (· % 4)
  { bytes := sliceZ l.data.bytes (pa % 64) n, tags := g.map fun i => l.data.tags.getD i false
    poison := g.map fun i => l.data.poison.getD i false }

/-- A line enters a level-1 cache, which may lose another. -/
def l1Fill (s : State) (k : CoreId) (instr : Bool) (l : CLine) : State :=
  let old (c : Core) : List CLine := dropLine (if instr then c.l1i else c.l1d) l.pa
  let (v, s) := pickVictim s (old (coreAt s k)).length 256
  let c := coreAt s k
  let ls := l :: (match v with
    | some i => (old c).eraseIdx i
    | none => old c)
  setCore s k (if instr then { c with l1i := ls } else { c with l1d := ls })

/-- A line enters the cluster cache, which may evict another, written back if dirty. -/
def l2Fill (s : State) (cl : Nat) (l : CLine) : State :=
  let (v, s) := pickVictim s (clusterAt s cl).lines.length 32768
  let s := match v with
    | none => s
    | some i => match (clusterAt s cl).lines[i]? with
      | none => s
      | some o =>
        let s := setCluster s cl { clusterAt s cl with lines := dropLine (clusterAt s cl).lines o.pa }
        if o.dirty then writeBack s cl o else s
  setCluster s cl { clusterAt s cl with lines := putLine (clusterAt s cl).lines l }

/-- The check-only request of R199, or the judgement of a fill. -/
def judgeLine (s : State) (pa : Nat) (cls : InitClass) (colour : BitVec 4) (k : Kinds) (src : Nat) : Bool × State :=
  judge s (pa / 256 % 5) pa cls k colour src

/-- The line at `pa` of the cluster cache as an access finds it, its codewords decoded (R175). -/
def l2Look (s : State) (cl pa : Nat) : Option CLine × State :=
  match findLine (clusterAt s cl).lines (lineOf pa) with
  | none => (none, s)
  | some l =>
    let (l', s) := lineScan s cl true l
    let ls := (clusterAt s cl).lines
    match l' with
    | some x => (some x, if x = l then s else setCluster s cl { clusterAt s cl with lines := putLine ls x })
    | none => (none, setCluster s cl { clusterAt s cl with lines := dropLine ls l.pa })

/-- The line at `pa` of a level-1 cache as an access finds it, its codewords decoded (R175). -/
def l1Look (s : State) (core : CoreId) (instr : Bool) (pa : Nat) : Option CLine × State :=
  let lines (s : State) : List CLine := if instr then (coreAt s core).l1i else (coreAt s core).l1d
  let put (s : State) (ls : List CLine) : State :=
    setCore s core (if instr then { coreAt s core with l1i := ls } else { coreAt s core with l1d := ls })
  match findLine (lines s) (lineOf pa) with
  | none => (none, s)
  | some l =>
    let (l', s) := lineScan s (clusterOf core) false l
    match l' with
    | some x => (some x, if x = l then s else put s (putLine (lines s) x))
    | none => (none, put s (dropLine (lines s) l.pa))

/-- The line of the cluster cache that an access of kinds `k` uses: granted, granted anew, or filled. What is judged of a
fill is the line's first byte (R199, R204). -/
def l2Line (s : State) (cl pa : Nat) (cls : InitClass) (colour : BitVec 4) (k : Kinds) (src : Nat) :
    Except Resp CLine × State :=
  let g := pa / 256 % 5
  let (found, s) := l2Look s cl pa
  match found with
  | some l =>
    if granted l cls colour k then (.ok l, s)
    else
      let (ok, s) := judgeLine s pa cls colour k src
      if ok then
        let l := regrant l cls colour k
        (.ok l, setCluster s cl { clusterAt s cl with lines := putLine (clusterAt s cl).lines l })
      else (.error (.refused g), s)
  | none =>
    if !gateDomainOn s g then (.error (.err g), s)
    else
      let (ok, s) := judgeLine s (lineOf pa) cls colour k src
      if !ok then (.error (.refused g), s)
      else match memTarget s (targetOf pa) (lineOf pa) 64 .read 0 with
        | (.ok d, s) =>
          let (d, s) := linkDeliver s cl (lineOf pa) d
          let l := regrant { pa := lineOf pa, data := d, err := [], dirty := false, cls := cls, colour := colour, gr := false, gw := false, gx := false }
            cls colour k
          (.ok l, l2Fill s cl l)
        | (r, s) => (.error r, s)

/-- A cached read: level 1, then the cluster cache. -/
def cachedRead (s : State) (core : CoreId) (instr : Bool) (pa n : Nat) (cls : InitClass) (colour : BitVec 4)
    (k : Kinds) (src : Nat) : Resp × State :=
  let (found, s) := l1Look s core instr pa
  match found with
  | some l =>
    if granted l cls colour k then (.ok (lineData l pa n), s)
    else
      let (ok, s) := judgeLine s pa cls colour k src
      if ok then
        let l := regrant l cls colour k
        let c := coreAt s core
        (.ok (lineData l pa n), setCore s core
          (if instr then { c with l1i := putLine c.l1i l } else { c with l1d := putLine c.l1d l }))
      else (.refused (pa / 256 % 5), s)
  | none =>
    match l2Line s (clusterOf core) pa cls colour k src with
    | (.ok l, s) => (.ok (lineData l pa n), l1Fill s core instr { l with err := [], dirty := false })
    | (.error r, s) => (r, s)

/-- A read of one line's part by a context. -/
def readPiece (a : CoreAcc) (p : Piece) (s : State) : Resp × State :=
  let k := coreOf a.cx
  let cls := ctxClass a.c
  let colour := BitVec.ofNat 4 (capColour a.cap)
  let src := (cxidWord a.cx a.c).toNat
  if cacheable s k p.pa p.uc then cachedRead s k false p.pa p.n cls colour kR src
  else match fabricTxn s p.pa p.n .read cls colour src 0 with
    | (.ok d, s) => let (d, s) := linkDeliver s (clusterOf k) p.pa d; (.ok d, s)
    | r => r

/-! ### Loads (R51, R53, R86) -/

/-- A store-buffer entry overlaps a part. -/
def overlaps (e : StoreEnt) (p : Piece) : Bool := decide (e.pa < p.pa + p.n) && decide (p.pa < e.pa + e.data.length)

/-- The entry covers a part. -/
def coversPiece (e : StoreEnt) (p : Piece) : Bool := decide (e.pa ≤ p.pa) && decide (p.pa + p.n ≤ e.pa + e.data.length)

/-- The name of a context's window reads. -/
def pieceKey (a : CoreAcc) : Nat := txnKey kR (ctxClass a.c) (BitVec.ofNat 4 (capColour a.cap)) (cxidWord a.cx a.c).toNat

/-- What a load reads: bytes, tag, whether a cache was used, the entry it was translated with, and the gates of its parts. -/
structure Loaded where
  bytes  : List Byte
  tag    : Bool
  cached : Bool
  ent    : Option TlbEnt
  gates  : List Nat

/-- The parts of a load read from the caches or memory, in order. -/
def readParts (a : CoreAcc) (split : Bool) : Nat → List Piece → State → Except Res (Loaded × State)
  | _, [], s => .ok ({ bytes := [], tag := false, cached := false, ent := none, gates := [] }, s)
  | i, p :: ps, s =>
    let f := accFault kPoison p.va a.reg (halfOf split i)
    let key := pieceKey a
    match readPiece a p s with
    | (.ok d, s') =>
      if d.poison.any id then .error (.fault s' { f with half := 0 })
      else match readParts a split (i + 1) ps s' with
        | .error (.stall s'' w) => .error (.stall (putBack s'' key p.pa p.n d) w)
        | .error r => .error r
        | .ok (l, s'') =>
          .ok ({ bytes := d.bytes ++ l.bytes, tag := d.tags.headD false
                 cached := cacheable s (coreOf a.cx) p.pa p.uc || l.cached, ent := p.ent
                 gates := gateOf (targetOf p.pa) :: l.gates }, s'')
    | (.pending, s') => .error (.stall (tagRead s' key p.pa p.n p.ent) .port)
    | (r, s') => .error (.fault s' (respFault r f))

/-- A load of translated parts: forwarded from the store buffer, held up by it, or read (R53). What is forwarded is the
entry's own data, whatever poison its granule holds in memory (assumption log 76). -/
def loadParts (a : CoreAcc) (ps : List Piece) (s : State) : Except Res (Loaded × State) :=
  let met := (ctxAt s a.cx).stores.filter fun e => ps.any (overlaps e)
  match met.getLast?, ps with
  | none, _ => readParts a (decide (1 < ps.length)) 0 ps s
  | some e, [p] =>
    if coversPiece e p then
      .ok ({ bytes := sliceZ e.data (p.pa - e.pa) p.n, tag := e.tag, cached := e.cached, ent := p.ent, gates := [] }, s)
    else .error (.stall s .store)
  | some _, _ => .error (.stall s .store)

/-- A load of [x, x + n) that its capability allowed. -/
def loadVa (a : CoreAcc) (x n : Nat) (s : State) : Except Res (Loaded × State) :=
  match xlateAcc a needR x n s with
  | .error r => .error r
  | .ok (ps, s) => loadParts a ps s

/-! ### Stores (R52, R198) -/

/-- The tags that a store of `n` bytes leaves: the one of an STC, none otherwise. -/
def storeTags (tag : Bool) : List Bool := if tag then [true] else []

/-- An entry's bytes and tag in a line (R26, R86). -/
def lineStore (l : CLine) (e : StoreEnt) : CLine :=
  let gs := (grans e.pa e.data.length).map (· % 4)
  let full (g : Nat) : Bool := decide (e.pa % 64 ≤ 16 * g) && decide (16 * g + 16 ≤ e.pa % 64 + e.data.length)
  { l with
    dirty := true
    data :=
      { bytes := patch l.data.bytes (e.pa % 64) e.data
        tags := gs.foldl (fun t g => t.set g e.tag) l.data.tags
        poison := gs.foldl (fun t g => if full g then t.set g false else t) l.data.poison } }

/-- The verdict on one part of a store, and any error its target would answer with, met at the store (R198, R469). -/
def storeCheck (a : CoreAcc) (p : Piece) (op : TxnOp) (s : State) : Option Resp × State :=
  let cls := ctxClass a.c
  let colour := BitVec.ofNat 4 (capColour a.cap)
  let src := (cxidWord a.cx a.c).toNat
  if cacheable s (coreOf a.cx) p.pa p.uc then
    match l2Line s (clusterOf (coreOf a.cx)) p.pa cls colour kW src with
    | (.ok _, s) => (none, s)
    | (.error r, s) => (some r, s)
  else
    let t := targetOf p.pa
    let g := gateOf t
    match t with
    | .nowhere => (some .noTarget, s)
    | _ =>
      if !gateDomainOn s g then (some (domainOffResp t g), s)
      else
        let (ok, s) := judge s g p.pa cls kW colour src
        if !ok then (some (.refused g), s)
        else match targetDo s t p.pa p.n op cls (txnKey kW cls colour src) src 0 with
          | (.ok _, _) => (none, s)
          | (.pending, _) => (none, s)
          | (r, s) => (some r, s)

/-- A drained store to cacheable DRAM in the level-1 data caches of the cluster: the core's own copy takes it, every
other one is invalidated (R55, R57). -/
def l1Store (s : State) (core : CoreId) (e : StoreEnt) : State :=
  let s := dropL1d s (clusterOf core) (lineOf e.pa) (some core)
  let (found, s) := l1Look s core false e.pa
  match found with
  | some o => setCore s core { coreAt s core with l1d := putLine (coreAt s core).l1d { lineStore o e with dirty := false } }
  | none => s

/-- A store of a core accepted by its line of the cluster cache (R52, R57). -/
def l2Store (s : State) (core : CoreId) (l : CLine) (e : StoreEnt) : State :=
  let cl := clusterOf core
  l1Store (setCluster s cl { clusterAt s cl with lines := putLine (clusterAt s cl).lines (lineStore l e) }) core e

/-- The oldest entry of a store buffer drains (R52), unless its target does not take it yet. A store whose line has
left the cluster cache is written through. -/
def drainOne (s : State) (cx : CtxId) : State :=
  let c := ctxAt s cx
  match c.stores with
  | [] => s
  | e :: es =>
    let core := coreOf cx
    let gone (s : State) : State := softWrite (setCtx s cx { ctxAt s cx with stores := es }) e.pa e.data.length
    let op : TxnOp := .write e.data (storeTags e.tag) []
    let (found, s) := if e.cached then l2Look s (clusterOf core) e.pa else (none, s)
    match found with
    | some l => gone (l2Store s core l e)
    | none =>
      let t := targetOf e.pa
      if writeHeld s t op then s
      else
        let s := (targetDo s t e.pa e.data.length op e.cls noOne (cxidWord cx c).toNat 0).2
        gone (if e.cached then l1Store s core e else s)

/-- The entry of one part of a store. -/
def storeEnt (a : CoreAcc) (p : Piece) (d : List Byte) (tag : Bool) (s : State) : StoreEnt :=
  { pa := p.pa, data := d, tag := tag, cls := ctxClass a.c, colour := BitVec.ofNat 4 (capColour a.cap)
    cached := cacheable s (coreOf a.cx) p.pa p.uc, xl := p.ent, old := false }

/-- An entry joins the store buffer. -/
def pushStore (s : State) (cx : CtxId) (e : StoreEnt) : State :=
  let c := ctxAt s cx
  setCtx s cx { c with stores := c.stores ++ [e] }

/-- The parts of a store judged in order, each entering the store buffer with those before it (R198). -/
def storeParts (a : CoreAcc) (tag split : Bool) : Nat → List Piece → List Byte → State → Except Res State
  | _, [], _, s => .ok s
  | i, p :: ps, d, s =>
    let bytes := d.take p.n
    match storeCheck a p (.write bytes (storeTags tag) []) s with
    | (some r, s) => .error (.fault s (respFault r (accFault kGate p.va a.reg (halfOf split i))))
    | (none, s) => storeParts a tag split (i + 1) ps (d.drop p.n) (pushStore s a.cx (storeEnt a p bytes tag s))

/-- A store of bytes at `x` that its capability allowed; it needs free entries for all its parts. -/
def storeVa (a : CoreAcc) (x : Nat) (d : List Byte) (tag : Bool) (s : State) : Res :=
  let parts := (linesOf x d.length).length
  if 4 < (ctxAt s a.cx).stores.length + parts then .stall s .store
  else match xlateAcc a needW x d.length s with
    | .error r => r
    | .ok (ps, s) =>
      match storeParts a tag (decide (1 < ps.length)) 0 ps d s with
      | .ok s => .done s
      | .error r => r

/-! ### Fetch and prediction (R48, R49) -/

/-- The address of the word fetched after the one at `va`: the target of an unconditional branch with an immediate
target, of a CALLW, or of a conditional branch that does not go forward, else the next word (R49); in deterministic
mode always the next word (R60). -/
def predicted (det : Bool) (va : Nat) (w : BitVec 32) : Nat :=
  let far {n : Nat} (imm : BitVec n) : Nat := (BitVec.ofNat 64 va + sextImm imm * 4).toNat
  let back {n : Nat} (imm : BitVec n) : Bool := imm.msb || decide (imm = 0)
  let fall := (va + 4) % 2 ^ 64
  if det then fall
  else match w.toNat / 2 ^ 26 with
    | 0x08 | 0x20 => far (w.truncate 26)
    | 0x09 => if back (w.truncate 22) then far (w.truncate 22 : BitVec 22) else fall
    | 0x0A => if back (w.truncate 11) then far (w.truncate 11 : BitVec 11) else fall
    | _ => fall

/-- At most `n` words of a 16-byte group, from the one at `va` on: each passes R20 as it enters the queue, and none is
taken past one that fails a check or whose successor lies elsewhere. -/
def groupWords (det : Bool) (pcc : Cap) (d : RData) : Nat → Nat → List PqWord
  | 0, _ => []
  | n + 1, va =>
    let bad : Option Nat :=
      match capCheck pcc [rExec] true false va 4 with
      | some k => some k
      | none => if d.poison.headD false then some kPoison else none
    let word := BitVec.ofNat 32 (leAt d.bytes (va % 16) 4)
    let q : PqWord :=
      { va := va, next := predicted det va word, word := word
        bad := bad.map fun k => { kind := k, addr := some (wd va), fetch := true } }
    if bad.isSome || decide (va % 16 = 12) || decide (q.next ≠ va + 4) then [q]
    else q :: groupWords det pcc d n (va + 4)

/-- A word that could not be fetched, with the failure recorded. -/
def badWord (va : Nat) (f : FaultInfo) : PqWord := { va := va, next := va + 4, word := 0, bad := some f }

/-- Words join a prefetch queue of four; during a shadow, only those of the shadow (R98). A context STALLED for want of
a word is READY. -/
def enqueue (c : Ctx) (ws : List PqWord) : Ctx :=
  let c := { c with queue := (c.queue ++ ws).take (fetchRoom c) }
  if c.queue ≠ [] ∧ c.run = .stalled ∧ c.why = some .fetch then { c with run := .ready, why := none } else c

/-- The address of the next word that a context's queue needs. -/
def fetchAddr (c : Ctx) : Nat :=
  match c.queue.getLast? with
  | some q => q.next
  | none => pcOf c

/-- Words that a context's queue may take now. -/
def fetchWant (c : Ctx) : Nat := fetchRoom c - c.queue.length

/-- The group at PA `pa` for a context whose next word lies there: from the L1 instruction cache at once, from any other
target as a read outstanding. -/
def fetchGroupAt (s : State) (cx : CtxId) (pa : Nat) (uc : Bool) (e : Option TlbEnt) : State :=
  let c := ctxAt s cx
  let core := coreOf cx
  let cls := ctxClass c
  let colour := BitVec.ofNat 4 (capColour c.pcc)
  let src := (cxidWord cx c).toNat
  let g := alignDown pa 16
  let va := fetchAddr c
  let words (d : RData) : List PqWord := groupWords (detOn s core) c.pcc d (fetchWant c) va
  let bad (r : Resp) : PqWord := badWord va (respFault r { kind := kGate, addr := some (wd va), fetch := true })
  if cacheable s core pa uc then
    match cachedRead s core true g 16 cls colour kX src with
    | (.ok d, s) => setCtx s cx (enqueue (ctxAt s cx) (words d))
    | (r, s) => setCtx s cx (enqueue (ctxAt s cx) [bad r])
  else
    let out (ws : List PqWord) (s : State) : State :=
      setCtx s cx (starve { ctxAt s cx with fetch := some { va := va, pa := g, words := ws, xl := e, old := false } })
    match fabricTxn s g 16 .exec cls colour src 0 with
    | (.ok d, s) => let (d, s) := linkDeliver s (clusterOf core) g d; out (words d) s
    | (.pending, s) => out [] (tagRead s (txnKey kX cls colour src) g 16 e)
    | (r, s) => out [bad r] s

/-- A context whose queue wants a word: not EMPTY, with room, nothing outstanding for it, and no recorded failure at the
end of its queue. -/
def wantsFetch (c : Ctx) : Bool :=
  decide (c.run ≠ .empty) && decide (0 < fetchWant c) && c.fetch.isNone && c.walk.isNone &&
    (match c.queue.getLast? with
      | some q => q.bad.isNone
      | none => true)

/-- The fetch unit may serve a context now: a group that no cache serves is read once the queue has room for every word
of it that the context needs. -/
def servable (s : State) (cx : CtxId) : Bool :=
  let c := ctxAt s cx
  let va := fetchAddr c
  wantsFetch c &&
    (match (xlateTry s (coreX cx c true) va needX).1 with
      | .ok pa uc _ =>
        cacheable s (coreOf cx) pa uc || c.shadow.any (fun p => decide (c.queue.length < p.2)) ||
          decide (c.queue.length + (4 - va % 16 / 4) ≤ 4)
      | _ => true)

/-- The context with the fewest queued words, lowest number first. -/
def fetchPick (s : State) (core : CoreId) : Option CtxId :=
  let cs := (ctxsOn core).filter (servable s)
  ([0, 1, 2, 3].findSome? fun n => cs.find? fun x => decide ((ctxAt s x).queue.length = n))

/-- FETCH_GROUP: a capability check or translation that fails is recorded with the word. A stopped device fetches nothing
(R404). -/
def execFetchGroup (core : CoreId) (s : State) : Out :=
  match if s.power.halted then none else fetchPick s core with
  | none => .next s
  | some cx =>
    let c := ctxAt s cx
    let va := fetchAddr c
    let f : FaultInfo := { kind := kXlat, addr := some (wd va), fetch := true }
    let bad (s : State) (f : FaultInfo) : State := setCtx s cx (enqueue (ctxAt s cx) [badWord va f])
    match capCheck c.pcc [rExec] true false va 4 with
    | some k => .next (bad s { f with kind := k })
    | none => match xlateTry s (coreX cx c true) va needX with
      | (.ok pa uc e, s) => .next (fetchGroupAt s cx pa uc e)
      | (.bad e, s) => .next (bad s (xFault (fetchMode c).asid e f))
      | (.miss, s) =>
        let w : WalkReq := { va := wd va, mode := fetchMode c, need := needX, fetch := true, info := f, word := 0 }
        .next (setCtx s cx (starve { c with walk := some w }))

/-- FETCH_RETURN: the words of an uncached group arrive. Words that the context no longer wants next are dropped. A group
without words waits at a peer window, which is asked for its answer. A stopped device takes nothing up (R404). -/
def execFetchReturn (cx : CtxId) (s : State) : Out :=
  let c := ctxAt s cx
  match if s.power.halted then none else c.fetch with
  | none => .next s
  | some r =>
    let c' := { c with fetch := none }
    let s' := setCtx s cx c'
    .next (if r.va ≠ fetchAddr c then abandon (cxReads cx) s'
      else if r.words = [] then fetchGroupAt s' cx r.pa false r.xl
      else setCtx s cx (enqueue c' r.words))

/-- The walk of a context ends, in a failure or not. On the data side a failure faults the instruction; on the fetch
side it is recorded with the word. -/
def walkEnd (s : State) (cx : CtxId) (e : Option XErr) : State :=
  let c := ctxAt s cx
  match c.walk with
  | none => s
  | some w =>
    let c' := { c with walk := none }
    let s := setCtx s cx c'
    match e, w.fetch with
    | some e, false => deliver (countIssue s cx) cx (xFault w.mode.asid e w.info) (w.word.zeroExtend 64)
    | some e, true =>
      if fetchAddr c = w.va.toNat ∧ fetchMode c = w.mode ∧ 0 < fetchWant c then
        setCtx s cx (enqueue c' [badWord w.va.toNat (xFault w.mode.asid e w.info)])
      else s
    | none, false => wakeIf s cx .walk
    | none, true => s

/-- The failure that a walk ends in for the access that started it. -/
def walkErr : XRes → Option XErr
  | .bad e => some e
  | _ => none

/-- The failure of an access merged with a walk (R165): its own at the stage-1 leaf that the walk reached, else the walk's,
unless that is a permission, which the walk's access alone lacked. -/
def mergedErr (leaf : Option Leaf) (need : Nat) (user : Bool) (r : XRes) : Option XErr :=
  match leafFail leaf 1 need user, r with
  | some e, _ => some e
  | none, .bad (.xlat st l k) => if k = 1 then none else some (.xlat st l k)
  | none, r => walkErr r

/-- The contexts of the cluster whose miss on the same page ends with the walk of `cx`, itself among them, in the order of
their numbers (R165). -/
def walkMerged (s : State) (cx : CtxId) (w : WalkReq) : List CtxId :=
  (s.ctxs.filter fun p =>
    decide (p.1 = cx.toNat) || decide (p.1 / 256 = clusterOf (coreOf cx)) && (p.2.cust == (ctxAt s cx).cust) &&
      p.2.walk.any fun v => decide (v.mode = w.mode) && decide (v.va.toNat / 4096 = w.va.toNat / 4096)).map
    fun p => BitVec.ofNat 11 p.1

/-- What the walk `r` of `cx`, which reached the stage-1 leaf `leaf`, comes to for context `x`. -/
def walkErrFor (s : State) (cx : CtxId) (leaf : Option Leaf) (r : XRes) (x : CtxId) : Option XErr :=
  let c := ctxAt s x
  if x = cx then walkErr r
  else match c.walk with
    | some w => mergedErr leaf w.need (!c.super && w.mode.xlat) r
    | none => none

/-- TRANSLATION_WALK (R161, R164, R165): the walk that a context waits for, with those merged with it; faults of one walk
join the queues by context number (R143). A stopped device leaves each context as it is (R404). -/
def execTranslationWalk (who : WalkFor) (s : State) : Out :=
  let (cx, fetch) := match who with
    | .data cx => (cx, false)
    | .fetch cx => (cx, true)
  let c := ctxAt s cx
  match c.walk with
  | none => .next s
  | some w =>
    if w.fetch != fetch || (!fetch && decide (c.why ≠ some .walk)) || s.power.halted then .next s
    else
      let q := { coreX cx c fetch with asid := w.mode.asid, xlat := w.mode.xlat }
      let (r, s') := walkRun s q w.va.toNat w.need
      let leaf := (walkAll s q w.va.toNat w.need).2.leaf
      .next ((walkMerged s cx w).foldl (fun u x => walkEnd u x (walkErrFor s cx leaf r x)) s')

end Sys2Proof.Machine
end

