-- ==== Sys2Proof/Machine/Alu.lean ====
section
/-! DEFINITION. Integer operations, multiply, divide and DSTEP (R74 to R80). -/

namespace Sys2Proof.Machine
open Sys2Proof

/-- An integer result into `rd`, with the flags when S is 1 (R74). -/
def putAlu (s : State) (cx : CtxId) (c : Ctx) (rd : Reg) (sf : Bool) (r : Alu) : Res :=
  let c := writeInt c rd r.res
  .done (setCtx s cx (if sf then { c with flags := r.flags } else c))

/-- An ALU instruction of two registers (op 0x01, R74). -/
def aluRR (cx : CtxId) (func : Nat) (sf : Bool) (rd rs1 rs2 : Reg) (f : Flags → Word → Word → Alu)
    (s : State) : Out :=
  issue cx { word := wReg 0x01 rd rs1 rs2 (b2n sf * 0x400 + func), rep := 2, reads := [rs1, rs2], writes := [rd] }
    (fun c s => putAlu s cx c rd sf (f c.flags (readInt c rs1) (readInt c rs2))) s

/-- An ALU instruction of one register: rs2 is 0 (R74). -/
def aluR (cx : CtxId) (func : Nat) (sf : Bool) (rd rs1 : Reg) (f : Word → Word) (s : State) : Out :=
  issue cx { word := wReg 0x01 rd rs1 0 (b2n sf * 0x400 + func), rep := 2, reads := [rs1], writes := [rd] }
    (fun c s => putAlu s cx c rd sf (aluNz c.flags (f (readInt c rs1)))) s

/-- An ALU instruction with an immediate (op 0x02, R76); `bad` is a shift amount out of its field. -/
def aluRI (cx : CtxId) (sub : Nat) (bad : Bool) (sf : Bool) (rd rs1 : Reg) (imm : BitVec 11)
    (f : Flags → Word → Word → Alu) (s : State) : Out :=
  issue cx { word := wImm 0x02 rd rs1 (b2n sf * 16 + sub) imm, bad := bad, rep := 2, reads := [rs1], writes := [rd] }
    (fun c s => putAlu s cx c rd sf (f c.flags (readInt c rs1) (sextImm imm))) s

/-- A shift amount of R76 with bits above [5:0]. -/
def shiftBad (imm : BitVec 11) : Bool := decide (64 ≤ imm.toNat)

/-- ADD (R74): a + b. -/
def execAdd (cx : CtxId) (sf : Bool) (rd rs1 rs2 : Reg) (s : State) : Out :=
  aluRR cx 0x00 sf rd rs1 rs2 (fun _ a b => aluAdd a b false) s

/-- ADDC (R74): a + b + C. -/
def execAddc (cx : CtxId) (sf : Bool) (rd rs1 rs2 : Reg) (s : State) : Out :=
  aluRR cx 0x01 sf rd rs1 rs2 (fun f a b => aluAdd a b f.c) s

/-- SUB (R74): a − b. -/
def execSub (cx : CtxId) (sf : Bool) (rd rs1 rs2 : Reg) (s : State) : Out :=
  aluRR cx 0x02 sf rd rs1 rs2 (fun _ a b => aluAdd a (~~~b) true) s

/-- SUBC (R74): a − b − (1 − C). -/
def execSubc (cx : CtxId) (sf : Bool) (rd rs1 rs2 : Reg) (s : State) : Out :=
  aluRR cx 0x03 sf rd rs1 rs2 (fun f a b => aluAdd a (~~~b) f.c) s

/-- AND (R74): a & b. -/
def execAnd (cx : CtxId) (sf : Bool) (rd rs1 rs2 : Reg) (s : State) : Out :=
  aluRR cx 0x04 sf rd rs1 rs2 (fun f a b => aluNz f (a &&& b)) s

/-- OR (R74): a | b. -/
def execOr (cx : CtxId) (sf : Bool) (rd rs1 rs2 : Reg) (s : State) : Out :=
  aluRR cx 0x05 sf rd rs1 rs2 (fun f a b => aluNz f (a ||| b)) s

/-- XOR (R74): a ^ b. -/
def execXor (cx : CtxId) (sf : Bool) (rd rs1 rs2 : Reg) (s : State) : Out :=
  aluRR cx 0x06 sf rd rs1 rs2 (fun f a b => aluNz f (a ^^^ b)) s

/-- ANDN (R74): a & ~b. -/
def execAndn (cx : CtxId) (sf : Bool) (rd rs1 rs2 : Reg) (s : State) : Out :=
  aluRR cx 0x07 sf rd rs1 rs2 (fun f a b => aluNz f (a &&& ~~~b)) s

/-- SHL (R74): a << (b & 63). -/
def execShl (cx : CtxId) (sf : Bool) (rd rs1 rs2 : Reg) (s : State) : Out :=
  aluRR cx 0x08 sf rd rs1 rs2 (fun f a b => aluNz f (a <<< (b.toNat % 64))) s

/-- SHR (R74): a >> (b & 63), logical. -/
def execShr (cx : CtxId) (sf : Bool) (rd rs1 rs2 : Reg) (s : State) : Out :=
  aluRR cx 0x09 sf rd rs1 rs2 (fun f a b => aluNz f (a >>> (b.toNat % 64))) s

/-- SAR (R74): a >> (b & 63), arithmetic. -/
def execSar (cx : CtxId) (sf : Bool) (rd rs1 rs2 : Reg) (s : State) : Out :=
  aluRR cx 0x0A sf rd rs1 rs2 (fun f a b => aluNz f (a.sshiftRight (b.toNat % 64))) s

/-- ROR (R74): a rotated right by b & 63. -/
def execRor (cx : CtxId) (sf : Bool) (rd rs1 rs2 : Reg) (s : State) : Out :=
  aluRR cx 0x0B sf rd rs1 rs2 (fun f a b => aluNz f (rorW a (b.toNat % 64))) s

/-- MIN (R74): signed minimum. -/
def execMin (cx : CtxId) (sf : Bool) (rd rs1 rs2 : Reg) (s : State) : Out :=
  aluRR cx 0x0C sf rd rs1 rs2 (fun f a b => aluNz f (if a.slt b then a else b)) s

/-- MAX (R74): signed maximum. -/
def execMax (cx : CtxId) (sf : Bool) (rd rs1 rs2 : Reg) (s : State) : Out :=
  aluRR cx 0x0D sf rd rs1 rs2 (fun f a b => aluNz f (if a.slt b then b else a)) s

/-- MINU (R74): unsigned minimum. -/
def execMinu (cx : CtxId) (sf : Bool) (rd rs1 rs2 : Reg) (s : State) : Out :=
  aluRR cx 0x0E sf rd rs1 rs2 (fun f a b => aluNz f (if a < b then a else b)) s

/-- MAXU (R74): unsigned maximum. -/
def execMaxu (cx : CtxId) (sf : Bool) (rd rs1 rs2 : Reg) (s : State) : Out :=
  aluRR cx 0x0F sf rd rs1 rs2 (fun f a b => aluNz f (if a < b then b else a)) s

/-- CLZ (R74): leading zeros. -/
def execClz (cx : CtxId) (sf : Bool) (rd rs1 : Reg) (s : State) : Out :=
  aluR cx 0x10 sf rd rs1 (fun a => wd (clzW a)) s

/-- CTZ (R74): trailing zeros. -/
def execCtz (cx : CtxId) (sf : Bool) (rd rs1 : Reg) (s : State) : Out :=
  aluR cx 0x11 sf rd rs1 (fun a => wd (ctzN 64 a.toNat)) s

/-- POPC (R74): one bits. -/
def execPopc (cx : CtxId) (sf : Bool) (rd rs1 : Reg) (s : State) : Out :=
  aluR cx 0x12 sf rd rs1 (fun a => wd (popcount 64 a.toNat)) s

/-- BSWAP (R74): bytes in reverse order. -/
def execBswap (cx : CtxId) (sf : Bool) (rd rs1 : Reg) (s : State) : Out :=
  aluR cx 0x13 sf rd rs1 (bswapW) s

/-- SEXTB (R74): a[7:0] sign-extended. -/
def execSextb (cx : CtxId) (sf : Bool) (rd rs1 : Reg) (s : State) : Out :=
  aluR cx 0x14 sf rd rs1 (sextW 8) s

/-- SEXTH (R74): a[15:0] sign-extended. -/
def execSexth (cx : CtxId) (sf : Bool) (rd rs1 : Reg) (s : State) : Out :=
  aluR cx 0x15 sf rd rs1 (sextW 16) s

/-- SEXTW (R74): a[31:0] sign-extended. -/
def execSextw (cx : CtxId) (sf : Bool) (rd rs1 : Reg) (s : State) : Out :=
  aluR cx 0x16 sf rd rs1 (sextW 32) s

/-- ZEXTH (R74): a[15:0] zero-extended. -/
def execZexth (cx : CtxId) (sf : Bool) (rd rs1 : Reg) (s : State) : Out :=
  aluR cx 0x17 sf rd rs1 (fun a => a &&& 0xFFFF) s

/-- ZEXTW (R74): a[31:0] zero-extended. -/
def execZextw (cx : CtxId) (sf : Bool) (rd rs1 : Reg) (s : State) : Out :=
  aluR cx 0x18 sf rd rs1 (fun a => a &&& 0xFFFFFFFF) s

/-- SLT (R74): 1 if a < b signed. -/
def execSlt (cx : CtxId) (sf : Bool) (rd rs1 rs2 : Reg) (s : State) : Out :=
  aluRR cx 0x19 sf rd rs1 rs2 (fun f a b => aluNz f (boolW (a.slt b))) s

/-- SLTU (R74): 1 if a < b unsigned. -/
def execSltu (cx : CtxId) (sf : Bool) (rd rs1 rs2 : Reg) (s : State) : Out :=
  aluRR cx 0x1A sf rd rs1 rs2 (fun f a b => aluNz f (boolW (decide (a < b)))) s

/-- ADDI (R76). -/
def execAddi (cx : CtxId) (sf : Bool) (rd rs1 : Reg) (imm : BitVec 11) (s : State) : Out :=
  aluRI cx 0 false sf rd rs1 imm (fun _ a b => aluAdd a b false) s

/-- SUBI (R76). -/
def execSubi (cx : CtxId) (sf : Bool) (rd rs1 : Reg) (imm : BitVec 11) (s : State) : Out :=
  aluRI cx 1 false sf rd rs1 imm (fun _ a b => aluAdd a (~~~b) true) s

/-- ANDI (R76). -/
def execAndi (cx : CtxId) (sf : Bool) (rd rs1 : Reg) (imm : BitVec 11) (s : State) : Out :=
  aluRI cx 2 false sf rd rs1 imm (fun f a b => aluNz f (a &&& b)) s

/-- ORI (R76). -/
def execOri (cx : CtxId) (sf : Bool) (rd rs1 : Reg) (imm : BitVec 11) (s : State) : Out :=
  aluRI cx 3 false sf rd rs1 imm (fun f a b => aluNz f (a ||| b)) s

/-- XORI (R76). -/
def execXori (cx : CtxId) (sf : Bool) (rd rs1 : Reg) (imm : BitVec 11) (s : State) : Out :=
  aluRI cx 4 false sf rd rs1 imm (fun f a b => aluNz f (a ^^^ b)) s

/-- SHLI (R76). -/
def execShli (cx : CtxId) (sf : Bool) (rd rs1 : Reg) (imm : BitVec 11) (s : State) : Out :=
  aluRI cx 5 (shiftBad imm) sf rd rs1 imm (fun f a b => aluNz f (a <<< (b.toNat % 64))) s

/-- SHRI (R76). -/
def execShri (cx : CtxId) (sf : Bool) (rd rs1 : Reg) (imm : BitVec 11) (s : State) : Out :=
  aluRI cx 6 (shiftBad imm) sf rd rs1 imm (fun f a b => aluNz f (a >>> (b.toNat % 64))) s

/-- SARI (R76). -/
def execSari (cx : CtxId) (sf : Bool) (rd rs1 : Reg) (imm : BitVec 11) (s : State) : Out :=
  aluRI cx 7 (shiftBad imm) sf rd rs1 imm (fun f a b => aluNz f (a.sshiftRight (b.toNat % 64))) s

/-- RORI (R76). -/
def execRori (cx : CtxId) (sf : Bool) (rd rs1 : Reg) (imm : BitVec 11) (s : State) : Out :=
  aluRI cx 8 (shiftBad imm) sf rd rs1 imm (fun f a b => aluNz f (rorW a (b.toNat % 64))) s

/-- SLTI (R76). -/
def execSlti (cx : CtxId) (sf : Bool) (rd rs1 : Reg) (imm : BitVec 11) (s : State) : Out :=
  aluRI cx 9 false sf rd rs1 imm (fun f a b => aluNz f (boolW (a.slt b))) s

/-- SLTIU (R76). -/
def execSltiu (cx : CtxId) (sf : Bool) (rd rs1 : Reg) (imm : BitVec 11) (s : State) : Out :=
  aluRI cx 10 false sf rd rs1 imm (fun f a b => aluNz f (boolW (decide (a < b)))) s

/-- MOVI (R77): imm21 sign-extended. -/
def execMovi (cx : CtxId) (rd : Reg) (imm : BitVec 21) (s : State) : Out :=
  issue cx { word := wWide 0x03 rd imm.toNat, writes := [rd] }
    (fun c s => .done (setCtx s cx (writeInt c rd (sextImm imm)))) s

/-- MOVSH (R77): (rd << 21) | imm21. -/
def execMovsh (cx : CtxId) (rd : Reg) (imm : BitVec 21) (s : State) : Out :=
  issue cx { word := wWide 0x04 rd imm.toNat, reads := [rd], writes := [rd] }
    (fun c s => .done (setCtx s cx (writeInt c rd ((readInt c rd <<< 21) ||| imm.zeroExtend 64)))) s

/-- A multiply of R78. -/
def mulRR (cx : CtxId) (func : Nat) (rd rs1 rs2 : Reg) (f : Word → Word → Word) (s : State) : Out :=
  issue cx { word := wReg 0x05 rd rs1 rs2 func, rep := 2, reads := [rs1, rs2], writes := [rd] }
    (fun c s => .done (setCtx s cx (writeInt c rd (f (readInt c rs1) (readInt c rs2))))) s

/-- MUL (R78): low 64 bits of the product. -/
def execMul (cx : CtxId) (rd rs1 rs2 : Reg) (s : State) : Out := mulRR cx 0 rd rs1 rs2 mulLo s

/-- MULHU (R78): high 64 bits of the unsigned product. -/
def execMulhu (cx : CtxId) (rd rs1 rs2 : Reg) (s : State) : Out := mulRR cx 1 rd rs1 rs2 mulHiU s

/-- MULHS (R78): high 64 bits of the signed product. -/
def execMulhs (cx : CtxId) (rd rs1 rs2 : Reg) (s : State) : Out := mulRR cx 2 rd rs1 rs2 mulHiS s

/-- A divide (R78, R79): it occupies the context's divider, and its value arrives with DIVIDE_RESULT. A divide
that faults does so at issue and writes nothing; a second one waits for the first. -/
def divRR (cx : CtxId) (func : Nat) (rd rs1 rs2 : Reg) (f : Ctx → Word → Word → DivRes) (s : State) : Out :=
  issue cx { word := wReg 0x05 rd rs1 rs2 func, rep := 1, reads := [rs1, rs2], writes := [rd] }
    (fun c s =>
      if c.div.isSome then .stall s .divider
      else match f c (readInt c rs1) (readInt c rs2) with
        | .error k => .fault s (flt k)
        | .ok v => .done (setCtx s cx { c with div := some ((regKey c.cwp rd.toNat).getD 0, v) })) s

/-- DIVU (R79). -/
def execDivu (cx : CtxId) (rd rs1 rs2 : Reg) (s : State) : Out :=
  divRR cx 4 rd rs1 rs2 (fun c a b => divU c.dze a b) s

/-- DIV (R79). -/
def execDiv (cx : CtxId) (rd rs1 rs2 : Reg) (s : State) : Out :=
  divRR cx 5 rd rs1 rs2 (fun c a b => divS c.dze c.ove a b) s

/-- REMU (R79). -/
def execRemu (cx : CtxId) (rd rs1 rs2 : Reg) (s : State) : Out :=
  divRR cx 6 rd rs1 rs2 (fun c a b => remU c.dze a b) s

/-- REM (R79). -/
def execRem (cx : CtxId) (rd rs1 rs2 : Reg) (s : State) : Out :=
  divRR cx 7 rd rs1 rs2 (fun c a b => remS c.dze c.ove a b) s

/-- DIVIDE_RESULT (R78): the divider delivers into its destination and is free. -/
def execDivideResult (cx : CtxId) (s : State) : Out :=
  let c := ctxAt s cx
  match c.div with
  | none => .next s
  | some (k, v) =>
    let c := if k = 0 then c else writeKey c k (intCap v)
    .next (wakeIf (setCtx s cx { c with div := none }) cx .divider)

/-- DSTEP (R80): rd even and 8 to 30. -/
def execDstep (cx : CtxId) (rd rs2 : Reg) (s : State) : Out :=
  let bad := decide (rd.toNat % 2 = 1) || decide (rd.toNat < 8)
  issue cx { word := wReg 0x06 rd 0 rs2 0, bad := bad, rep := 2, reads := [rd, rd + 1, rs2], writes := [rd, rd + 1] }
    (fun c s =>
      let r := dstepW (readInt c rd) (readInt c (rd + 1)) (readInt c rs2)
      .done (setCtx s cx (writeInt (writeInt c rd r.1) (rd + 1) r.2))) s

end Sys2Proof.Machine
end

