-- ==== Sys2Proof/Machine/Calls.lean ====
section
/-! DEFINITION. Window calls and returns (R100 to R102, R116) and repeat prefixes (R105 to R108). -/

namespace Sys2Proof.Machine
open Sys2Proof

/-- Register number of l7 and l6. -/
abbrev l7 : Reg := 23
abbrev l6 : Reg := 22

/-- The context in its callee's frame, the link in the callee's l7 (R101). -/
def enterFrame (c : Ctx) : Ctx :=
  writeReg { c with cwp := (c.cwp + 1) % 8, depth := c.depth + 1 } l7 (pccAt c (pcOf c + 4))

/-- A window call whose target check answers `bad` (R101): it goes on as `go` says. -/
def callWindow (s : State) (cx : CtxId) (c : Ctx) (bad : Option FaultInfo) (go : State → Res) : Res :=
  match bad with
  | some f => .fault s f
  | none => if c.depth = 7 then .fault s (flt kWinDepth) else go (setCtx s cx (enterFrame c))

/-- CALLW (R101). -/
def execCallw (cx : CtxId) (imm : BitVec 26) (s : State) : Out :=
  issue cx { word := wJump 0x20 imm }
    (fun c s =>
      let x := relTarget c imm
      callWindow s cx c ((targetCheckAt c.pcc x).map fun k => { kind := k, addr := some (wd x) }) fun s => .branch s x) s

/-- CALLWR (R101). -/
def execCallwr (cx : CtxId) (rs1 : Reg) (s : State) : Out :=
  issue cx { word := wReg 0x21 0 rs1 0 0, reads := [rs1] }
    (fun c s =>
      let t := readReg c rs1
      callWindow s cx c ((targetCheck t).map (targetFault t rs1)) fun s => .jump s (targetPcc t)) s

/-- The frame below (R102). -/
def popFrame (c : Ctx) : Ctx := { c with cwp := (c.cwp + 7) % 8, depth := c.depth - 1 }

/-- RETW (R102). -/
def execRetw (cx : CtxId) (s : State) : Out :=
  issue cx { word := wReg 0x21 0 0 0 1, reads := [l7] }
    (fun c s =>
      if c.depth = 0 then .fault s (flt kWinUnder)
      else
        let t := readReg c l7
        match targetCheck t with
        | some k => .fault s (targetFault t l7 k)
        | none => .jump (setCtx s cx (popFrame c)) (targetPcc t)) s

/-- RETA (R116): the flags and the repeat state come back from l6, EM is cleared. -/
def execReta (cx : CtxId) (s : State) : Out :=
  issue cx { word := wReg 0x21 0 0 0 2, reads := [l6, l7] }
    (fun c s =>
      let w := readInt c l6
      let act := bitAt w 31
      let cnt := fld w 63 32
      let t := readReg c l7
      if c.depth = 0 then .fault s (flt kWinUnder)
      else if fld w 30 4 ≠ 0 ∨ act = decide (cnt = 0) then .fault s (flt kIllegal)
      else match targetCheck t with
        | some k => .fault s (targetFault t l7 k)
        | none =>
          .jump (setCtx s cx { popFrame c with
            flags := flagsOf w, repAct := act, repCnt := BitVec.ofNat 32 cnt, repU := false, em := false }) (targetPcc t)) s

/-! ### Repeat prefixes (R105, R106) -/

/-- A prefix with its count: a count of 0 skips the next instruction, and within a shadow what follows it is fetched
again, under the MODE of R98. -/
def repeatWith (s : State) (cx : CtxId) (c : Ctx) (u : Bool) (cnt : Nat) : Res :=
  let c := { c with shadow := shadowNext c }
  let skip := pccAt c (pcOf c + 8)
  if cnt = 0 then .hold (setCtx s cx (if c.shadow.isNone then goTo c skip (c.queue.drop 2) else flushTo c skip))
  else
    let c := goTo c (pccAt c (pcOf c + 4)) c.queue.tail
    let s := setCtx s cx { c with repAct := true, repCnt := BitVec.ofNat 32 cnt, repU := u }
    if u && !detOn s (coreOf cx) then
      .hold (setCore s (coreOf cx) { coreAt s (coreOf cx) with hold := some (cxLow cx) })
    else .hold s

/-- A repeat prefix (op 0x24). -/
def repeatPrefix (cx : CtxId) (u : Bool) (rs1 : Reg) (imm : BitVec 11) (s : State) : Out :=
  issue cx { word := wImm 0x24 0 rs1 (b2n u) imm, bad := decide (rs1 ≠ 0) && decide (imm ≠ 0), reads := [rs1] }
    (fun c s =>
      let cnt := if rs1 = 0 then imm.toNat else (readInt c rs1).toNat
      if 2 ^ 32 ≤ cnt ∨ (u = true ∧ 64 < cnt) then .fault s (flt kIllegal)
      else repeatWith s cx c u cnt) s

/-- REPI (R105). -/
def execRepi (cx : CtxId) (rs1 : Reg) (imm : BitVec 11) (s : State) : Out := repeatPrefix cx false rs1 imm s

/-- REPU (R105, R108): exclusive issue on the core outside deterministic mode. -/
def execRepu (cx : CtxId) (rs1 : Reg) (imm : BitVec 11) (s : State) : Out := repeatPrefix cx true rs1 imm s

end Sys2Proof.Machine
end

