-- ==== Sys2Proof/Machine/Bells.lean ====
section
/-! DEFINITION. Bell instructions (R112), alert sets and diversions (R113 to R115), the scheduler's ageing
(R47) and the entry to deterministic mode (R61). -/

namespace Sys2Proof.Machine
open Sys2Proof

/-- The bell an instruction of op 0x25 names. -/
def bellOf (c : Ctx) (rs1 : Reg) (imm : BitVec 11) : Nat := (readInt c rs1 + imm.zeroExtend 64).toNat

/-- BELL (R111): FE1 holds the bell value. -/
def bellFault (s : State) (b : Nat) : Res := .fault s { kind := kBell, addr := some (wd b) }

/-- The pending bit of bell `b` cleared. -/
def takeBell (s : State) (b : Nat) : State := { s with bells := setDel b s.bells }

/-- The context waits, on bell `b` if one is named. -/
def startWait (s : State) (cx : CtxId) (c : Ctx) (w : Wait) (b : Option Nat) : Res :=
  let s := setCtx s cx { c with run := .waiting, wait := some w }
  .hold (match b with
    | some b => { s with bellQ := smSet [] s.bellQ b (smGet [] s.bellQ b ++ [cx.toNat]) }
    | none => s)

/-- RING (R112). -/
def execRing (cx : CtxId) (rs1 : Reg) (imm : BitVec 11) (s : State) : Out :=
  issue cx { word := wImm 0x25 0 rs1 0 imm, reads := [rs1] }
    (fun c s =>
      let b := bellOf c rs1 imm
      if bellAllowed s c b then .done (ringBell s b) else bellFault s b) s

/-- WAITB (R112). -/
def execWaitb (cx : CtxId) (rs1 : Reg) (imm : BitVec 11) (s : State) : Out :=
  issue cx { word := wImm 0x25 0 rs1 1 imm, reads := [rs1] }
    (fun c s =>
      let b := bellOf c rs1 imm
      if !bellAllowed s c b then bellFault s b
      else if bellPending s b then .done (takeBell s b)
      else startWait s cx c (.bell b) (some b)) s

/-- BTAKE (R112). -/
def execBtake (cx : CtxId) (rd rs1 : Reg) (imm : BitVec 11) (s : State) : Out :=
  issue cx { word := wImm 0x25 rd rs1 2 imm, reads := [rs1], writes := [rd] }
    (fun c s =>
      let b := bellOf c rs1 imm
      if !bellAllowed s c b then bellFault s b
      else .done (takeBell (setCtx s cx (writeInt c rd (boolW (bellPending s b)))) b)) s

/-- YIELD (R112). -/
def execYield (cx : CtxId) (s : State) : Out :=
  issue cx { word := wImm 0x25 0 0 3 0 } (fun c s => .done (setCtx s cx { c with yielded := true })) s

/-- ALSET (R113): the block number is checked before the handler. -/
def execAlset (cx : CtxId) (rs1 : Reg) (imm : BitVec 11) (s : State) : Out :=
  issue cx { word := wImm 0x25 0 rs1 4 imm, bad := decide (63 < imm.toNat), reads := [rs1] }
    (fun c s =>
      let h := readReg c rs1
      match targetCheck h with
      | some k => .fault s (targetFault h rs1 k)
      | none => .done (setCtx s cx { c with alh := h, alb := imm.truncate 6 })) s

/-- The bells of an alert set (R113). -/
def alertBells (blk : BitVec 6) (m : Word) : List Nat :=
  ((List.range 64).filter fun j => bitAt m j).map fun j => blk.toNat * 64 + j

/-- ALMASK (R113): every bell of the new mask must be one the context may name; the fault names the lowest that is not
(assumption log 78). -/
def execAlmask (cx : CtxId) (rs1 : Reg) (s : State) : Out :=
  issue cx { word := wImm 0x25 0 rs1 5 0, reads := [rs1] }
    (fun c s =>
      let m := readInt c rs1
      match (alertBells c.alb m).find? fun b => !bellAllowed s c b with
      | some b => bellFault s b
      | none => .done (setCtx s cx { c with alm := m })) s

/-- WAITT (R112). -/
def execWaitt (cx : CtxId) (rs1 : Reg) (s : State) : Out :=
  issue cx { word := wImm 0x25 0 rs1 6 0, reads := [rs1] }
    (fun c s =>
      let t := readInt c rs1
      if t ≤ s.tb then .done s else startWait s cx c (.time t) none) s

/-- WAITBT (R112): a bell pending at issue wins over a deadline already reached. -/
def execWaitbt (cx : CtxId) (rd rs1 rs2 : Reg) (s : State) : Out :=
  issue cx { word := wReg 0x27 rd rs1 rs2 0, reads := [rs1, rs2], writes := [rd] }
    (fun c s =>
      let b := (readInt c rs1).toNat
      let t := readInt c rs2
      if !bellAllowed s c b then bellFault s b
      else if bellPending s b then .done (takeBell (setCtx s cx (writeInt c rd 1)) b)
      else if t ≤ s.tb then .done (setCtx s cx (writeInt c rd 0))
      else startWait s cx c (.bellTime b t rd.toNat) (some b)) s

/-- WAIT_DEADLINE (R112): TB has reached the deadline of a waiting context; a stopped device leaves it waiting (R404). -/
def execWaitDeadline (cx : CtxId) (s : State) : Out :=
  match if s.power.halted then none else (ctxAt s cx).wait with
  | some (.time t) => if t ≤ s.tb then .next (finishWait s cx 0) else .next s
  | some (.bellTime _ t _) => if t ≤ s.tb then .next (finishWait (leaveBells s cx) cx 0) else .next s
  | _ => .next s

/-! ### Diversion (R114, R115) -/

/-- A context meets the conditions of R114, and no compare that it issued has its flags still due. A stopped core diverts
nothing (R404), and a context that is to park does so first. -/
def divertible (s : State) (cx : CtxId) : Bool :=
  let c := ctxAt s cx
  !s.power.halted && !flagsDue c && !c.parkDue && !c.em && decide (c.depth ≤ 6) && (alertBells c.alb c.alm).any (bellPending s) &&
    (decide (c.run = .ready) || decide (c.run = .stalled) || decide (c.run = .waiting))

/-- The context diverted to its handler (R115). The link is the PCC, tagged as long as its CURSOR lies within its bounds (R19,
assumption log 92). -/
def divert (s : State) (cx : CtxId) : State :=
  let s := leaveBells s cx
  let c := ctxAt s cx
  let word := alertWord c
  let c1 := { c with
    run := .ready, shadow := none, why := none, wait := none, age := 0
    cwp := (c.cwp + 1) % 8, depth := c.depth + 1
    repAct := false, repCnt := 0, repU := false, em := true, yielded := false }
  setCtx s cx (flushTo (writeReg (writeReg c1 l7 c.pcc) l6 (intCap word)) (targetPcc c.alh))

/-- ALERT_DIVERSION (R114): no REPU holds the core, and no lower-numbered context of it is eligible. -/
def execAlertDiversion (cx : CtxId) (s : State) : Out :=
  let core := coreOf cx
  let lower := (List.range (cxLow cx).toNat).any fun i => divertible s (cxOn core (BitVec.ofNat 4 i))
  if divertible s cx && !lower && decide ((coreAt s core).hold = none) then .next (divert s cx) else .next s

/-! ### Scheduler and deterministic mode -/

/-- SCHEDULER_AGEING (R47 step 1): the lowest-numbered READY context that has gone 256 cycles unselected is selected
next. -/
def execSchedulerAgeing (core : CoreId) (s : State) : Out :=
  match agedOn s core with
  | some x => .next (setCore s core { coreAt s core with sel := some (cxLow x) })
  | none => .next s

/-- A cached access of the core is outstanding, or a REPU is in progress on it (R61). -/
def detBusy (s : State) (core : CoreId) : Bool :=
  decide ((coreAt s core).hold ≠ none) || (ctxsOn core).any fun x =>
    let c := ctxAt s x
    c.loads.any (·.cached) || c.stores.any (·.cached) || inRepu c

/-- DET_MODE_ENTRY (R61): DET_ACTIVE follows DET once no cached access of the core is outstanding and no REPU is
in progress; entering invalidates the level-1 caches, and the slots of R60 start at context 0: `slot` makes up for the
cycles counted until then. -/
def execDetModeEntry (core : CoreId) (s : State) : Out :=
  let off := corePg core 0x100
  let det := rbit s off 0
  if det = rbit s off 1 ∨ detBusy s core = true then .next s
  else
    let s := rsetB s off 1 det
    .next (if det then
        let k := coreAt s core
        setCore s core { k with l1d := [], l1i := [], slot := - BitVec.ofNat 4 (s.cclk / 27720 + k.issued) }
      else s)

end Sys2Proof.Machine
end

