-- ==== Sys2Proof/Machine/CapOps.lean ====
section
/-! DEFINITION. Capability instructions (R89, R90) and system registers (R94 to R98). -/

namespace Sys2Proof.Machine
open Sys2Proof

/-- A fault of a derivation, naming the source register. -/
def capFault (s : State) (rs1 : Reg) (k : Nat) : Res := .fault s { kind := k, reg := rs1.toNat }

/-- A capability into rd. -/
def putCap (s : State) (cx : CtxId) (c : Ctx) (rd : Reg) (v : Cap) : Res := .done (setCtx s cx (writeReg c rd v))

/-- AMOV (R89): a copy, tag and seal included. -/
def execAmov (cx : CtxId) (rd rs1 : Reg) (s : State) : Out :=
  issue cx { word := wReg 0x18 rd rs1 0 0, reads := [rs1], writes := [rd] }
    (fun c s => putCap s cx c rd (readReg c rs1)) s

/-- A move of CURSOR (R25): a sealed tagged source faults SEALED, an untagged one does not fault. -/
def moveCursor (s : State) (cx : CtxId) (c : Ctx) (rd rs1 : Reg) (x : Nat) : Res :=
  let v := readReg c rs1
  if v.tag && decide (capOtype v ≠ 0) then capFault s rs1 kSealed else putCap s cx c rd (capMove v x)

/-- ASTEP (R89): CURSOR + b. -/
def execAstep (cx : CtxId) (rd rs1 rs2 : Reg) (s : State) : Out :=
  issue cx { word := wReg 0x18 rd rs1 rs2 1, rep := 2, reads := [rs1, rs2], writes := [rd] }
    (fun c s => moveCursor s cx c rd rs1 (capWord (readReg c rs1) + readInt c rs2).toNat) s

/-- ASTEPI (R89): CURSOR + sext(imm11). -/
def execAstepi (cx : CtxId) (rd rs1 : Reg) (imm : BitVec 11) (s : State) : Out :=
  issue cx { word := wImm 0x19 rd rs1 0 imm, rep := 2, reads := [rs1], writes := [rd] }
    (fun c s => moveCursor s cx c rd rs1 (capWord (readReg c rs1) + sextImm imm).toNat) s

/-- APLACE (R89): CURSOR = b. -/
def execAplace (cx : CtxId) (rd rs1 rs2 : Reg) (s : State) : Out :=
  issue cx { word := wReg 0x18 rd rs1 rs2 2, reads := [rs1, rs2], writes := [rd] }
    (fun c s => moveCursor s cx c rd rs1 (readInt c rs2).toNat) s

/-- RIGHTS AND a mask (R25). -/
def maskRights (s : State) (cx : CtxId) (c : Ctx) (rd rs1 : Reg) (m : Nat) : Res :=
  let v := readReg c rs1
  if !v.tag then capFault s rs1 kTag
  else if capOtype v ≠ 0 then capFault s rs1 kSealed
  else putCap s cx c rd (capSet v 81 72 (capRights v &&& m))

/-- AMASK (R89). -/
def execAmask (cx : CtxId) (rd rs1 rs2 : Reg) (s : State) : Out :=
  issue cx { word := wReg 0x18 rd rs1 rs2 3, reads := [rs1, rs2], writes := [rd] }
    (fun c s => maskRights s cx c rd rs1 ((readInt c rs2).toNat % 2 ^ 10)) s

/-- AMASKI (R89): imm11[10] is 0. -/
def execAmaski (cx : CtxId) (rd rs1 : Reg) (imm : BitVec 11) (s : State) : Out :=
  issue cx { word := wImm 0x19 rd rs1 1 imm, bad := imm.msb, reads := [rs1], writes := [rd] }
    (fun c s => maskRights s cx c rd rs1 (imm.toNat % 2 ^ 10)) s

/-- Setting bounds (R22). -/
def setBounds (s : State) (cx : CtxId) (c : Ctx) (rd rs1 rs2 : Reg) (exact : Bool) : Res :=
  match capNarrow (readReg c rs1) (readInt c rs2).toNat exact with
  | .error k => capFault s rs1 k
  | .ok v => putCap s cx c rd v

/-- ANARROW (R89). -/
def execAnarrow (cx : CtxId) (rd rs1 rs2 : Reg) (s : State) : Out :=
  issue cx { word := wReg 0x18 rd rs1 rs2 4, reads := [rs1, rs2], writes := [rd] }
    (fun c s => setBounds s cx c rd rs1 rs2 false) s

/-- AFIT (R89). -/
def execAfit (cx : CtxId) (rd rs1 rs2 : Reg) (s : State) : Out :=
  issue cx { word := wReg 0x18 rd rs1 rs2 5, reads := [rs1, rs2], writes := [rd] }
    (fun c s => setBounds s cx c rd rs1 rs2 true) s

/-- AUNTAG (R89). -/
def execAuntag (cx : CtxId) (rd rs1 : Reg) (s : State) : Out :=
  issue cx { word := wReg 0x18 rd rs1 0 6, reads := [rs1], writes := [rd] }
    (fun c s => putCap s cx c rd { readReg c rs1 with tag := false }) s

/-- AHERE (R89). -/
def execAhere (cx : CtxId) (rd : Reg) (s : State) : Out :=
  issue cx { word := wReg 0x18 rd 0 0 16, writes := [rd] } (fun c s => putCap s cx c rd c.pcc) s

/-- AINFO (R90): one field of rs1, tagged or not. -/
def infoR (cx : CtxId) (sel : Nat) (rd rs1 : Reg) (f : Cap → Word) (s : State) : Out :=
  issue cx { word := wReg 0x18 rd rs1 (BitVec.ofNat 5 sel) 8, reads := [rs1], writes := [rd] }
    (fun c s => .done (setCtx s cx (writeInt c rd (f (readReg c rs1))))) s

/-- The base that AINFO shows: 0 for E 45 to 63. -/
def infoBase (v : Cap) : Word := if 44 < capE v then 0 else BitVec.ofInt 64 (capBase v)

/-- The length that AINFO shows. -/
def infoLength (v : Cap) : Word :=
  if 44 < capE v then 0
  else if capTop v - capBase v = (2 ^ 64 : Nat) then BitVec.allOnes 64
  else BitVec.ofInt 64 (capTop v - capBase v)

/-- AINFO cursor. -/
def execAinfoCursor (cx : CtxId) (rd rs1 : Reg) (s : State) : Out := infoR cx 0 rd rs1 capWord s
/-- AINFO base. -/
def execAinfoBase (cx : CtxId) (rd rs1 : Reg) (s : State) : Out := infoR cx 1 rd rs1 infoBase s
/-- AINFO length. -/
def execAinfoLength (cx : CtxId) (rd rs1 : Reg) (s : State) : Out := infoR cx 2 rd rs1 infoLength s
/-- AINFO rights. -/
def execAinfoRights (cx : CtxId) (rd rs1 : Reg) (s : State) : Out :=
  infoR cx 3 rd rs1 (fun v => wd (capRights v)) s
/-- AINFO tag. -/
def execAinfoTag (cx : CtxId) (rd rs1 : Reg) (s : State) : Out := infoR cx 4 rd rs1 (fun v => boolW v.tag) s
/-- AINFO type. -/
def execAinfoType (cx : CtxId) (rd rs1 : Reg) (s : State) : Out := infoR cx 5 rd rs1 (fun v => wd (capOtype v)) s
/-- AINFO colour. -/
def execAinfoColour (cx : CtxId) (rd rs1 : Reg) (s : State) : Out :=
  infoR cx 6 rd rs1 (fun v => wd (capColour v)) s

/-- AWITHIN's comparison (R90): `b` lies within `a`. -/
def capWithin (a b : Cap) : Bool :=
  a.tag && b.tag && decide (capOtype a = 0) && decide (capOtype b = 0) &&
    decide (capBase a ≤ capBase b) && decide (capTop b ≤ capTop a) &&
    decide (capRights b &&& capRights a = capRights b) && decide (capColour a = capColour b)

/-- AWITHIN (R90). -/
def execAwithin (cx : CtxId) (rd rs1 rs2 : Reg) (s : State) : Out :=
  issue cx { word := wReg 0x18 rd rs1 rs2 17, reads := [rs1, rs2], writes := [rd] }
    (fun c s => .done (setCtx s cx (writeInt c rd (boolW (capWithin (readReg c rs1) (readReg c rs2)))))) s

/-! ### System registers (R94) -/

/-- The value of a system register; none for a number R94 does not list. -/
def sysReg (s : State) (cx : CtxId) (c : Ctx) (n : Nat) : Option Word :=
  match n with
  | 0 => some (statusWord c)
  | 1 => some (flagsWord c.flags)
  | 2 => some (modeWord c.mode)
  | 3 => some (cxidWord cx c)
  | 4 => some s.tb
  | _ => none

/-- MRS (R94): rs1 is 0. -/
def execMrs (cx : CtxId) (rd : Reg) (num : BitVec 11) (s : State) : Out :=
  issue cx { word := wImm 0x1C rd 0 0 num, bad := decide (4 < num.toNat), writes := [rd] }
    (fun c s => match sysReg s cx c num.toNat with
      | some v => .done (setCtx s cx (writeInt c rd v))
      | none => .fault s (flt kIllegal)) s

/-- MSR (R94): STATUS and FLAGS take effect from the next instruction; MODE, for supervisors alone, after the
shadow of R98, which starts here and drops words prefetched past it, and the words of a shadow that it ends. -/
def execMsr (cx : CtxId) (rs1 : Reg) (num : BitVec 11) (s : State) : Out :=
  issue cx { word := wImm 0x1C 0 rs1 1 num, bad := decide (2 < num.toNat), reads := [rs1] }
    (fun c s =>
      let v := readInt c rs1
      match num.toNat with
      | 0 => .done (setCtx s cx { c with ove := bitAt v 2, dze := bitAt v 1, em := bitAt v 0 })
      | 1 => .done (setCtx s cx { c with flags := flagsOf v })
      | 2 =>
        if !c.super then .fault s (flt kPriv)
        else
          .done (setCtx s cx { c with
            shadow := some (c.mode, 3)
            mode := { asid := BitVec.ofNat 16 (fld v 31 16), xlat := bitAt v 0 }
            queue := c.queue.take (if c.shadow.isNone then 3 else 1)
            fetch := none })
      | _ => .fault s (flt kIllegal)) s

end Sys2Proof.Machine
end

