-- ==== Sys2Proof/Machine/Crypto.lean ====
section
/-! DEFINITION. The standards that the island, the Cipher and the boot ROM name: AES-256 (FIPS 197), GCM (SP 800-38D),
CMAC (SP 800-38B), key wrap (SP 800-38F), SHA-256 and SHA-384 (FIPS 180-4), HMAC, the KDF of SP 800-108, and ECDSA
verification on P-384 (FIPS 186-5). Byte strings are lists in the standard's own order. -/

namespace Sys2Proof.Machine
open Sys2Proof

/-- Exclusive or of two byte strings, byte by byte. -/
def xorBytes (a b : List Byte) : List Byte := (a.zip b).map fun p => p.1 ^^^ p.2

/-- A byte string cut into blocks of `n`; the last may be shorter. -/
def blocksOf (n : Nat) : Nat → List Byte → List (List Byte)
  | 0, _ => []
  | fuel + 1, l => if l = [] then [] else l.take n :: blocksOf n fuel (l.drop n)

/-- Blocks of 16 bytes. -/
def blocks16 (l : List Byte) : List (List Byte) := blocksOf 16 (l.length / 16 + 1) l

/-! ### AES-256 -/

/-- Multiplication by x in the field of FIPS 197. -/
def xtime (a : Byte) : Byte := if a.msb then (a <<< 1) ^^^ 0x1B else a <<< 1

/-- Multiplication in the field of FIPS 197, over the low `n` bits of `b`. -/
def gmulN : Nat → Byte → Nat → Byte
  | 0, _, _ => 0
  | n + 1, a, b => (if b % 2 = 1 then a else 0) ^^^ gmulN n (xtime a) (b / 2)

def gmul (a b : Byte) : Byte := gmulN 8 a b.toNat

/-- The inverse, a^254. -/
def ginv (a : Byte) : Byte :=
  let a2 := gmul a a
  let a3 := gmul a2 a
  let a6 := gmul a3 a3
  let a12 := gmul a6 a6
  let a15 := gmul a12 a3
  let a30 := gmul a15 a15
  let a60 := gmul a30 a30
  let a120 := gmul a60 a60
  let a126 := gmul a120 a6
  let a127 := gmul a126 a
  gmul a127 a127

/-- The S-box. -/
def sboxOf (a : Byte) : Byte :=
  let b := ginv a
  b ^^^ b.rotateLeft 1 ^^^ b.rotateLeft 2 ^^^ b.rotateLeft 3 ^^^ b.rotateLeft 4 ^^^ 0x63

def sboxTable : Array Byte := ((List.range 256).map fun i => sboxOf (BitVec.ofNat 8 i)).toArray
def sbox (a : Byte) : Byte := sboxTable.getD a.toNat 0

/-- The inverse S-box. -/
def invSboxTable : Array Byte :=
  ((List.range 256).map fun i => BitVec.ofNat 8 ((sboxTable.toList.findIdx? fun b => decide (b.toNat = i)).getD 0)).toArray
def invSbox (a : Byte) : Byte := invSboxTable.getD a.toNat 0

/-- The key schedule: words of 4 bytes, newest first, extended by `fuel` words. -/
def keyWords : Nat → Nat → Byte → List (List Byte) → List (List Byte)
  | 0, _, _, ws => ws
  | fuel + 1, i, rcon, ws =>
    let t := ws.headD []
    let old := ws.getD 7 []
    if i % 8 = 0 then
      let t := (t.drop 1 ++ t.take 1).map sbox
      keyWords fuel (i + 1) (xtime rcon) (xorBytes old (xorBytes t [rcon, 0, 0, 0]) :: ws)
    else if i % 8 = 4 then keyWords fuel (i + 1) rcon (xorBytes old (t.map sbox) :: ws)
    else keyWords fuel (i + 1) rcon (xorBytes old t :: ws)

/-- The 15 round keys of a 32-byte key. -/
def roundKeys (key : List Byte) : List (List Byte) :=
  let ws := (keyWords 52 8 1 ((blocksOf 4 9 key).reverse)).reverse
  (List.range 15).map fun r => ((ws.drop (4 * r)).take 4).flatten

/-- A column times a row of coefficients rotated by `r`. -/
def mixRow (cs : List Byte) (col : List Byte) (r : Nat) : Byte :=
  ((List.range 4).map fun j => gmul (cs.getD ((j + 4 - r) % 4) 0) (col.getD j 0)).foldl (· ^^^ ·) 0

def mixCols (cs : List Byte) (st : List Byte) : List Byte :=
  (blocksOf 4 5 st).flatMap fun col => (List.range 4).map (mixRow cs col)

/-- Rows shifted left by `d` times their number. -/
def shiftRows (d : Nat) (st : List Byte) : List Byte :=
  (List.range 16).map fun i => st.getD ((i + 4 * d * (i % 4)) % 16) 0

/-- The rounds of the cipher. -/
def aesRounds : List (List Byte) → List Byte → List Byte
  | [], st => st
  | [k], st => xorBytes (shiftRows 1 (st.map sbox)) k
  | k :: ks, st => aesRounds ks (xorBytes (mixCols [2, 3, 1, 1] (shiftRows 1 (st.map sbox))) k)

/-- aes256_encrypt of one block, under round keys. -/
def aesBlock (rks : List (List Byte)) (b : List Byte) : List Byte :=
  match rks with
  | [] => b
  | k :: ks => aesRounds ks (xorBytes b k)

/-- The rounds of the inverse cipher, from the last round key down. -/
def aesInvRounds : List (List Byte) → List Byte → List Byte
  | [], st => st
  | [k], st => xorBytes ((shiftRows 3 st).map invSbox) k
  | k :: ks, st => aesInvRounds ks (mixCols [14, 11, 13, 9] (xorBytes ((shiftRows 3 st).map invSbox) k))

def aesInvBlock (rks : List (List Byte)) (b : List Byte) : List Byte :=
  match rks.reverse with
  | [] => b
  | k :: ks => aesInvRounds ks (xorBytes b k)

/-! ### GCM -/

/-- The product of GF(2^128) as SP 800-38D orders bits. -/
def gfMul128 : Nat → Nat → Nat → Nat → Nat
  | 0, _, _, z => z
  | n + 1, x, v, z =>
    gfMul128 n x (if v % 2 = 1 then (v / 2) ^^^ (0xE1 * 2 ^ 120) else v / 2) (if x.testBit n then z ^^^ v else z)

/-- GHASH over blocks, zero-padded. -/
def ghash (h : Nat) (bs : List (List Byte)) : Nat :=
  bs.foldl (fun y b => gfMul128 128 (y ^^^ beNat (sliceZ b 0 16)) h 0) 0

/-- The counter block after `n` increments of J0. -/
def ctrBlock (nonce : List Byte) (n : Nat) : List Byte := nonce ++ beBytes 4 n

/-- CTR encryption of blocks from counter `n`. -/
def ctrBlocks (rks : List (List Byte)) (nonce : List Byte) : Nat → List (List Byte) → List Byte
  | _, [] => []
  | n, b :: bs => xorBytes b (aesBlock rks (ctrBlock nonce n)) ++ ctrBlocks rks nonce (n + 1) bs

/-- The tag over AAD and ciphertext. -/
def gcmTag (rks : List (List Byte)) (nonce aad c : List Byte) : List Byte :=
  let h := beNat (aesBlock rks (List.replicate 16 0))
  let len := beBytes 8 (8 * aad.length) ++ beBytes 8 (8 * c.length)
  xorBytes (beBytes 16 (ghash h (blocks16 aad ++ blocks16 c ++ [len]))) (aesBlock rks (ctrBlock nonce 1))

/-- gcm_encrypt: ciphertext and tag. -/
def gcmEncrypt (key nonce aad p : List Byte) : List Byte × List Byte :=
  let rks := roundKeys key
  let c := ctrBlocks rks nonce 2 (blocks16 p)
  (c, gcmTag rks nonce aad c)

/-- gcm_decrypt: the plaintext if the tag matches. -/
def gcmDecrypt (key nonce aad c t : List Byte) : Option (List Byte) :=
  let rks := roundKeys key
  if gcmTag rks nonce aad c = t then some (ctrBlocks rks nonce 2 (blocks16 c)) else none

/-! ### CMAC and key wrap -/

/-- Doubling of SP 800-38B. -/
def cmacDbl (v : Nat) : Nat := if v.testBit 127 then (2 * v % 2 ^ 128) ^^^ 0x87 else 2 * v

/-- CBC over whole blocks. -/
def cbcMac (rks : List (List Byte)) (bs : List (List Byte)) : List Byte :=
  bs.foldl (fun x b => aesBlock rks (xorBytes x b)) (List.replicate 16 0)

/-- AES-256-CMAC. -/
def cmac (key m : List Byte) : List Byte :=
  let rks := roundKeys key
  let k1 := cmacDbl (beNat (aesBlock rks (List.replicate 16 0)))
  let bs := blocks16 m
  let last := bs.getLast?.getD []
  let tail := if last.length = 16 then xorBytes last (beBytes 16 k1)
    else xorBytes (sliceZ (last ++ [0x80]) 0 16) (beBytes 16 (cmacDbl k1))
  cbcMac rks (bs.dropLast ++ [tail])

/-- One step of the unwrapping of SP 800-38F, for counter `t` and register `i` of `n`. -/
def kwStep (rks : List (List Byte)) (n : Nat) (st : List Byte × List (List Byte)) (t : Nat) : List Byte × List (List Byte) :=
  let i := (t - 1) % n
  let a := xorBytes st.1 (beBytes 8 t)
  let b := aesInvBlock rks (a ++ st.2.getD i [])
  (b.take 8, st.2.set i (b.drop 8))

/-- KW unwrapping with the default ICV: the key, if the ICV check passes. -/
def kwUnwrap (key c : List Byte) : Option (List Byte) :=
  let rks := roundKeys key
  let ws := blocksOf 8 (c.length / 8 + 1) c
  let n := ws.length - 1
  let (a, r) := ((List.range (6 * n)).reverse.map (· + 1)).foldl (kwStep rks n) (ws.headD [], ws.tail)
  if a = List.replicate 8 0xA6 then some r.flatten else none

/-! ### SHA-2 -/

/-- The first 80 primes. -/
def primes80 : List Nat :=
  [2, 3, 5, 7, 11, 13, 17, 19, 23, 29, 31, 37, 41, 43, 47, 53, 59, 61, 67, 71, 73, 79, 83, 89, 97, 101, 103, 107, 109, 113] ++
  [127, 131, 137, 139, 149, 151, 157, 163, 167, 173, 179, 181, 191, 193, 197, 199, 211, 223, 227, 229, 233, 239, 241, 251] ++
  [257, 263, 269, 271, 277, 281, 283, 293, 307, 311, 313, 317, 331, 337, 347, 349, 353, 359, 367, 373, 379, 383, 389, 397] ++
  [401, 409]

/-- The cube root of `x` rounded down, by bits from `n` down. -/
def cbrt (x : Nat) : Nat → Nat → Nat
  | 0, r => r
  | n + 1, r =>
    let t := r + 2 ^ n
    cbrt x n (if t * t * t ≤ x then t else r)

/-- The square root of `x` rounded down, by bits from `n` down. -/
def sqrtBits (x : Nat) : Nat → Nat → Nat
  | 0, r => r
  | n + 1, r =>
    let t := r + 2 ^ n
    sqrtBits x n (if t * t ≤ x then t else r)

/-- Fractional bits of cube and square roots of primes, as FIPS 180-4 derives its constants. -/
def shaK (w : Nat) (p : Nat) : Nat := cbrt (p * 2 ^ (3 * w)) (w + 4) 0 % 2 ^ w
def shaH (w : Nat) (p : Nat) : Nat := sqrtBits (p * 2 ^ (2 * w)) (w + 6) 0 % 2 ^ w

def shaK256 : List Nat := (primes80.take 64).map (shaK 32)
def shaK512 : List Nat := primes80.map (shaK 64)
def shaH256 : List Nat := (primes80.take 8).map (shaH 32)
def shaH384 : List Nat := ((primes80.drop 8).take 8).map (shaH 64)

/-- Rotation right of a `w`-bit word. -/
def rotrN (w x n : Nat) : Nat := (x / 2 ^ n ||| x * 2 ^ (w - n)) % 2 ^ w

/-- The three-term mix of FIPS 180-4; a third amount above the width is a shift. -/
def shaMix (w : Nat) (a b c : Nat) (shift : Bool) (x : Nat) : Nat :=
  rotrN w x a ^^^ rotrN w x b ^^^ (if shift then x / 2 ^ c else rotrN w x c)

/-- The functions of SHA-256 and SHA-512. -/
def bigS0 (w x : Nat) : Nat := if w = 32 then shaMix w 2 13 22 false x else shaMix w 28 34 39 false x
def bigS1 (w x : Nat) : Nat := if w = 32 then shaMix w 6 11 25 false x else shaMix w 14 18 41 false x
def smS0 (w x : Nat) : Nat := if w = 32 then shaMix w 7 18 3 true x else shaMix w 1 8 7 true x
def smS1 (w x : Nat) : Nat := if w = 32 then shaMix w 17 19 10 true x else shaMix w 19 61 6 true x

/-- The message schedule, newest first, extended by `fuel` words. -/
def shaSched (w : Nat) : Nat → List Nat → List Nat
  | 0, ws => ws
  | n + 1, ws =>
    shaSched w n ((smS1 w (ws.getD 1 0) + ws.getD 6 0 + smS0 w (ws.getD 14 0) + ws.getD 15 0) % 2 ^ w :: ws)

/-- One round on the eight working variables. -/
def shaRound (w : Nat) (v : List Nat) (kw : Nat × Nat) : List Nat :=
  match v with
  | [a, b, c, d, e, f, g, h] =>
    let ch := (e &&& f) ^^^ ((2 ^ w - 1 - e) &&& g)
    let maj := (a &&& b) ^^^ (a &&& c) ^^^ (b &&& c)
    let t1 := h + bigS1 w e + ch + kw.1 + kw.2
    let t2 := bigS0 w a + maj
    [(t1 + t2) % 2 ^ w, a, b, c, (d + t1) % 2 ^ w, e, f, g]
  | _ => v

/-- The compression of one block. -/
def shaBlock (w : Nat) (ks hs : List Nat) (b : List Byte) : List Nat :=
  let m := (blocksOf (w / 8) 17 b).map beNat
  let ws := (shaSched w (ks.length - 16) m.reverse).reverse
  let v := (ks.zip ws).foldl (shaRound w) hs
  (hs.zip v).map fun p => (p.1 + p.2) % 2 ^ w

/-- The padded message: a 1 bit, zeros, and the length in 2w bits. -/
def shaPad (w : Nat) (m : List Byte) : List Byte :=
  let blk := 2 * w
  let n := m.length + 1 + w / 4
  m ++ [0x80] ++ List.replicate ((blk - n % blk) % blk) 0 ++ beBytes (w / 4) (8 * m.length)

def shaRun (w : Nat) (ks hs : List Nat) (m : List Byte) : List Byte :=
  let p := shaPad w m
  ((blocksOf (2 * w) (p.length / (2 * w) + 1) p).foldl (shaBlock w ks) hs).flatMap (beBytes (w / 8))

/-- SHA-256. -/
def sha256 (m : List Byte) : List Byte := shaRun 32 shaK256 shaH256 m
/-- SHA-384. -/
def sha384 (m : List Byte) : List Byte := (shaRun 64 shaK512 shaH384 m).take 48

/-- HMAC-SHA-256 with a key of at most 64 bytes. -/
def hmacSha256 (key m : List Byte) : List Byte :=
  let k := sliceZ key 0 64
  sha256 (k.map (· ^^^ 0x5C) ++ sha256 (k.map (· ^^^ 0x36) ++ m))

/-! ### ECDSA on P-384 -/

def p384P : Nat := 2 ^ 384 - 2 ^ 128 - 2 ^ 96 + 2 ^ 32 - 1
def p384N : Nat :=
  0xFFFFFFFFFFFFFFFFFFFFFFFFFFFFFFFFFFFFFFFFFFFFFFFFC7634D81F4372DDF581A0DB248B0A77AECEC196ACCC52973
def p384B : Nat :=
  0xB3312FA7E23EE7E4988E056BE3F82D19181D9C6EFE8141120314088F5013875AC656398D8A2ED19D2A85C8EDD3EC2AEF
def p384G : Nat × Nat :=
  (0xAA87CA22BE8B05378EB1C71EF320AD746E1D3B628BA79B9859F741E082542A385502F25DBF55296C3A545E3872760AB7,
   0x3617DE4A96262C6F5D9E98BF9292DC29F8F41DBD289A147CE9DA3113B5F0B8C00A60B1CE1D7E819D7A431D7C90EA0E5F)

/-- b^e mod m, over the low `n` bits of e. -/
def powMod (m : Nat) : Nat → Nat → Nat → Nat
  | 0, _, _ => 1
  | n + 1, b, e =>
    let r := powMod m n (b * b % m) (e / 2)
    if e % 2 = 1 then r * b % m else r

/-- The inverse modulo a prime of 384 bits. -/
def invMod (m a : Nat) : Nat := powMod m 384 (a % m) (m - 2)

/-- A point, none for the one at infinity. -/
abbrev Pt := Option (Nat × Nat)

/-- The curve equation with a = −3. -/
def onCurve (q : Nat × Nat) : Bool :=
  decide (q.1 < p384P) && decide (q.2 < p384P) &&
    decide (q.2 * q.2 % p384P = (q.1 * q.1 * q.1 + (p384P - 3) * q.1 + p384B) % p384P)

/-- The chord or tangent of slope `l`. -/
def ptLine (l : Nat) (a b : Nat × Nat) : Pt :=
  let x := (l * l + 2 * p384P - a.1 - b.1) % p384P
  some (x, (l * (a.1 + p384P - x) + p384P - a.2) % p384P)

/-- Point addition. -/
def ptAdd (a b : Pt) : Pt :=
  match a, b with
  | none, b => b
  | a, none => a
  | some a, some b =>
    if a.1 = b.1 then
      if (a.2 + b.2) % p384P = 0 then none
      else ptLine ((3 * a.1 * a.1 + p384P - 3) % p384P * invMod p384P (2 * a.2) % p384P) a a
    else ptLine ((b.2 + p384P - a.2) % p384P * invMod p384P (b.1 + p384P - a.1) % p384P) a b

/-- Scalar multiplication over the low `n` bits of `k`. -/
def ptMul : Nat → Nat → Pt → Pt
  | 0, _, _ => none
  | n + 1, k, q =>
    let r := ptMul n (k / 2) (ptAdd q q)
    if k % 2 = 1 then ptAdd r q else r

/-- ECDSA verification of (r, s) over a 48-byte hash, for an uncompressed public key. -/
def ecdsaVerify (pub hash : List Byte) (r s : Nat) : Bool :=
  let q := (beNat ((pub.drop 1).take 48), beNat ((pub.drop 49).take 48))
  if pub.headD 0 ≠ 4 ∨ onCurve q = false ∨ r = 0 ∨ p384N ≤ r ∨ s = 0 ∨ p384N ≤ s then false
  else
    let w := invMod p384N s
    match ptAdd (ptMul 384 (beNat hash * w % p384N) (some p384G)) (ptMul 384 (r * w % p384N) (some q)) with
    | none => false
    | some x => decide (x.1 % p384N = r)

end Sys2Proof.Machine
end

