-- ==== Sys2Proof/Machine/Xfer.lean ====
section
/-! DEFINITION. Extents that the Mover and the engines move: their geometry (R209), their check (R211, R237), their
translation (R212), and their reads and writes line by line. -/

namespace Sys2Proof.Machine
open Sys2Proof

/-- One side of a transfer (R209): its capability, its first byte, and lines of `len` bytes, `stride` apart. -/
structure Extent where
  cap    : Cap
  start  : Nat
  len    : Nat
  lines  : Nat
  stride : Int
  deriving DecidableEq, Repr

/-- A plain run of bytes. -/
def runOf (c : Cap) (start n : Nat) : Extent := { cap := c, start := start, len := n, lines := 1, stride := 0 }

def extTotal (e : Extent) : Nat := e.len * e.lines

/-- `lo` and `hi` of R211. -/
def extLo (e : Extent) : Int := e.start + (if e.stride < 0 then ((e.lines : Int) - 1) * e.stride else 0)
def extHi (e : Extent) : Int := e.start + (if 0 < e.stride then ((e.lines : Int) - 1) * e.stride else 0) + e.len

/-- The spans of two extents share a byte. -/
def extMeet (a b : Extent) : Bool := decide (extLo a < extHi b) && decide (extLo b < extHi a)

/-- The check of R211 in the order of R21: the first kind that fails. -/
def extCheck (e : Extent) (rights : List Nat) : Option Nat :=
  if !e.cap.tag then some kTag
  else if capOtype e.cap ≠ 0 then some kSealed
  else if !rights.all (capHas e.cap) then some kRights
  else if extLo e < capBase e.cap ∨ capTop e.cap < extHi e then some kBounds
  else none

/-- Address of byte `k` of an extent. -/
def extAddr (e : Extent) (k : Nat) : Nat := ((e.start : Int) + (k / e.len : Nat) * e.stride + (k % e.len : Nat)).toNat

/-- Bytes from `k` on that lie in one line of the extent and in one 64-byte line. -/
def extSeg (e : Extent) (k : Nat) : Nat := Nat.min (e.len - k % e.len) (64 - extAddr e k % 64)

/-- Bytes [k, k + m) of an extent as (address, length, position). -/
def extCuts (e : Extent) : Nat → Nat → Nat → List (Nat × Nat × Nat)
  | 0, _, _ => []
  | fuel + 1, k, m =>
    if m = 0 then []
    else
      let n := Nat.max 1 (Nat.min m (extSeg e k))
      (extAddr e k, n, k) :: extCuts e fuel (k + n) (m - n)

/-- Every transaction of an extent in stream order. -/
def extAll (e : Extent) : List (Nat × Nat × Nat) := extCuts e (extTotal e) 0 (extTotal e)

/-- A byte of each page that an extent touches, in stream order. -/
def extPages (e : Extent) : List Nat :=
  if e.len = 0 then [] else (List.range e.lines).flatMap fun (i : Nat) =>
    let a := ((e.start : Int) + i * e.stride).toNat
    (List.range ((a + e.len - 1) / 4096 - a / 4096 + 1)).map fun j => if j = 0 then a else (a / 4096 + j) * 4096

/-- A failure of a transfer: XLAT_FAULT with its DETAIL and SIDE, a bus error, or an answer of a window not there
yet. -/
inductive XferErr where
  | xlat (detail side : Nat)
  | bus (pa txn gate cause side : Nat)
  | wait
  deriving DecidableEq, Repr

/-- GATE and CAUSE of an answer that is not data (R226, R244). -/
def respCause (pa : Nat) (r : Resp) : Nat × Nat :=
  match r with
  | .refused g => (g, 1)
  | .err g => (g, 2)
  | .noTarget => (0, 3)
  | _ => (gateOf (targetOf pa), 2)

def busFail (pa txn side : Nat) (r : Resp) : XferErr :=
  match r with
  | .pending => .wait
  | _ => .bus pa txn (respCause pa r).1 (respCause pa r).2 side

/-- Translation of one address (R212), with the TLB entry used. -/
def xferPa (q : XReq) (va need side : Nat) (s : State) : Except XferErr (Nat × Option TlbEnt) × State :=
  match xlateNow s q va need with
  | (.ok pa _ e, s) => (.ok (pa, e), s)
  | (.bad (.xlat st l k), s) => (.error (.xlat (st * 64 + l * 16 + k) side), s)
  | (.bad (.bus pa r), s) => (.error (busFail pa 2 side r), s)
  | (.miss, s) => (.error .wait, s)

/-- Every page is translated; the first failure, if any (R212). Without translation nothing is done. -/
def xferPages (q : XReq) (need side : Nat) : List Nat → State → Option XferErr × State
  | [], s => (none, s)
  | va :: vs, s =>
    match xferPa q va need side s with
    | (.ok _, s) => xferPages q need side vs s
    | (.error e, s) => (some e, s)

/-- The physical bytes of an extent as (first, length), as they are translated now: line by line where nothing translates
them, and otherwise page by page, without the pages that fail. -/
def extUses (q : XReq) (need : Nat) (e : Extent) (s : State) : List (Nat × Nat) :=
  if e.len = 0 then [] else (List.range e.lines).flatMap fun (i : Nat) =>
    let a := ((e.start : Int) + i * e.stride).toNat
    if !q.xlat && !s2en s q.world then [(a, e.len)]
    else (List.range ((a + e.len - 1) / 4096 - a / 4096 + 1)).filterMap fun j =>
      let lo := Nat.max a ((a / 4096 + j) * 4096)
      match (xlateNow s q lo need).1 with
      | .ok pa _ _ => some (pa, Nat.min (a + e.len) ((a / 4096 + j + 1) * 4096) - lo)
      | _ => none

/-- A transaction of a transfer with the TLB entry its address was translated with and the colour of its side (R34). -/
structure XPiece where
  pa     : Nat
  xl     : Option TlbEnt
  n      : Nat
  k      : Nat
  colour : BitVec 4
  side   : Nat
  deriving DecidableEq, Repr

/-- The transactions of `cuts`, each translated. -/
def xferPieces (q : XReq) (c : Cap) (need side : Nat) : List (Nat × Nat × Nat) → State → Except XferErr (List XPiece) × State
  | [], s => (.ok [], s)
  | (va, n, k) :: cs, s =>
    match xferPa q va need side s with
    | (.error e, s) => (.error e, s)
    | (.ok (pa, e), s) =>
      match xferPieces q c need side cs s with
      | (.ok ps, s) => (.ok ({ pa := pa, xl := e, n := n, k := k, colour := BitVec.ofNat 4 (capColour c), side := side } :: ps), s)
      | r => r

/-- Every window read of `ps`, judged for the kinds `k`, is answered; the others are sent. -/
def piecesReadyK (k : Kinds) (cls : InitClass) (src : Nat) (ps : List XPiece) (s : State) : Bool × State :=
  ps.foldl (fun (a : Bool × State) p =>
    let (b, s) := readReadyK k a.2 p.pa p.n cls p.colour src p.xl
    (a.1 && b, s)) (true, s)
def piecesReady (cls : InitClass) (src : Nat) (ps : List XPiece) (s : State) : Bool × State := piecesReadyK kR cls src ps s

/-- The lines read; `seen` keeps what windows answered to one colour, since an answer serves once. A failed read has TXN 3,
that of COMPARE's destination side too, for which R226 has no number (assumption log 93). -/
def readPieces (cls : InitClass) (src : Nat) : List XPiece → List (Nat × Nat × BitVec 4 × RData) → State →
    Except XferErr (List RData) × State
  | [], _, s => (.ok [], s)
  | p :: ps, seen, s =>
    match seen.find? fun x => decide (x.1 = p.pa) && decide (x.2.1 = p.n) && decide (x.2.2.1 = p.colour) with
    | some x =>
      match readPieces cls src ps seen s with
      | (.ok ds, s) => (.ok (x.2.2.2 :: ds), s)
      | r => r
    | none =>
      match fabricTxn s p.pa p.n .read cls p.colour src 0 with
      | (.ok d, s) =>
        let seen := match targetOf p.pa with
          | .host _ _ | .media _ _ | .peer _ _ => (p.pa, p.n, p.colour, d) :: seen
          | _ => seen
        match readPieces cls src ps seen s with
        | (.ok ds, s) => (.ok (d :: ds), s)
        | r => r
      | (r, s) => (.error (busFail p.pa 3 p.side r), s)

/-- A line that a media port does not take yet (R403). -/
def pieceHeld (s : State) (p : XPiece) : Bool := writeHeld s (targetOf p.pa) (.write [] [] [])

/-- The lines written with their bytes and tags, in order. What the Mover writes, software writes (R246). -/
def writeEach (cls : InitClass) (src : Nat) : List (XPiece × List Byte × List Bool) → State → Option XferErr × State
  | [], s => (none, s)
  | (p, d, t) :: ps, s =>
    match fabricTxn s p.pa p.n (.write d t []) cls p.colour src 0 with
    | (.ok _, s) => writeEach cls src ps (if cls = 5 then s else softWrite s p.pa p.n)
    | (r, s) => (some (busFail p.pa 4 p.side r), s)

/-- The lines of a transfer written, once none of them has to wait for its port. -/
def writePieces (cls : InitClass) (src : Nat) (ps : List (XPiece × List Byte × List Bool)) (s : State) : Option XferErr × State :=
  if ps.any fun p => pieceHeld s p.1 then (some .wait, s) else writeEach cls src ps s

/-- Position of the first byte of the first poisoned granule of a line read. -/
def poisonAt (p : XPiece) (d : RData) : Option Nat :=
  (d.poison.zipIdx.find? (·.1)).map fun x => p.k + (Nat.max p.pa (p.pa / 16 * 16 + 16 * x.2) - p.pa)

/-- The first poisoned position of a list of lines. -/
def firstPoison : List (XPiece × RData) → Option Nat
  | [] => none
  | (p, d) :: ps => match poisonAt p d with
    | some k => some k
    | none => firstPoison ps

/-- An anchor, or the NEXT of a descriptor (R211, R219, R239): a load and store of `n` bytes with LOADCAP at a
CURSOR that is a multiple of 128. -/
def headCheck (c : Cap) (n : Nat) : Option Nat :=
  if !c.tag then some kTag
  else if capOtype c ≠ 0 then some kSealed
  else if !([rLoad, rStore, rLoadcap].all (capHas c)) then some kRights
  else if capCursor c % 128 ≠ 0 then some kCapAlign
  else if !capCovers c (capCursor c) n then some kBounds
  else none

/-- A granule of data as a capability. -/
def granCap (d : RData) (g : Nat) : Cap :=
  { bits := BitVec.ofNat 128 (leAt d.bytes (16 * g) 16), tag := d.tags.getD g false }

/-- Two 64-byte reads in a row as one piece of data. -/
def dataJoin (a b : RData) : RData := { bytes := a.bytes ++ b.bytes, tags := a.tags ++ b.tags, poison := a.poison ++ b.poison }

/-- A descriptor's 128 bytes from `va`: translated, and read as two lines. -/
def descFetch (q : XReq) (cls : InitClass) (src : Nat) (c : Cap) (va : Nat) (s : State) : Except XferErr (Nat × RData) × State :=
  match xferPa q va needR 4 s with
  | (.error e, s) => (.error e, s)
  | (.ok (pa, e), s) =>
    let col := BitVec.ofNat 4 (capColour c)
    let ps : List XPiece := [{ pa := pa, xl := e, n := 64, k := 0, colour := col, side := 4 },
      { pa := pa + 64, xl := e, n := 64, k := 64, colour := col, side := 4 }]
    match piecesReady cls src ps s with
    | (false, s) => (.error .wait, s)
    | (true, s) =>
      match readPieces cls src ps [] s with
      | (.ok [a, b], s) => (.ok (pa, dataJoin a b), s)
      | (.ok _, s) => (.error .wait, s)
      | (.error (.bus a _ g k sd), s) => (.error (.bus a 1 g k sd), s)
      | (.error e, s) => (.error e, s)

end Sys2Proof.Machine
end

