-- ==== Sys2Proof/Machine/EngCore.lean ====
section
/-! DEFINITION. What the five engines share (R233 to R246): work descriptors and their tests, the reads and writes of an
operation, its end, and the stops of a ring. -/

namespace Sys2Proof.Machine
open Sys2Proof

/-! ### Rings -/

/-- Translation of a ring bound by RCFG value `c` (R155). -/
def bindReq (e : Eng) (c : Word) : XReq :=
  { world := bitAt c 14, asid := BitVec.ofNat 16 (fld c 31 16), xlat := bitAt c 15, user := false, cls := 5,
    src := engNum e, ids := [264] }
def ringReq (s : State) (e : Eng) (r : Nat) : XReq := bindReq e (rcfg s e r)

/-- The record of a bus error (R244). -/
def engRecord (s : State) (e : Eng) (r : Nat) (x : BusErr) : State :=
  let k := engPage e
  let s := if intRaw s k 0 0 then rsetB s (pg k + 0x038) 63 true
    else rset (rset s (pg k + 0x030) (wd x.pa)) (pg k + 0x038)
      (wd (r * 2 ^ 32 + x.txn * 2 ^ 24 + x.gate * 2 ^ 16 + x.cause))
  intSet s k 0 0

/-- The ring accepts no more after a failed anchor read or fetch; it is STOPPED once what it accepted has
completed (R241, R245). -/
def ringHalt (s : State) (e : Eng) (r wh code kind : Nat) : State :=
  let x := ringAt s e r
  if x.descs = [] then ringStop s e r wh code kind
  else
    let off := rstatOff e r
    let s := rsetF (rsetF (rsetF (setRingState s e r 3) off 29 28 wh) off 39 32 code) off 47 40 kind
    setRing s e r { x with phase := .idle }

/-- A STOPPING ring with nothing left becomes STOPPED. -/
def ringSettle (s : State) (e : Eng) (r : Nat) : State :=
  if ringState s e r = 3 ∧ (ringAt s e r).descs = [] then
    let v := rget s (rstatOff e r)
    ringStop s e r (fld v 29 28) (fld v 39 32) (fld v 47 40)
  else s

/-! ### Capability slots and extents (R233) -/

/-- Slot 0 IN0, 1 IN1, 2 OUT0, 3 OUT1. -/
def edSlot (d : RData) (i : Nat) : Cap := granCap d (1 + i)
def edNull (d : RData) (i : Nat) : Bool := decide ((edSlot d i).bits = 0) && !(edSlot d i).tag

/-- An extent that an operation touches: its SIDE and the rights and page permissions it needs. -/
structure EngSlot where
  side   : Nat
  ext    : Extent
  rights : List Nat
  need   : Nat
  deriving DecidableEq, Repr

def inSlot (d : RData) (i n : Nat) : EngSlot :=
  { side := i, ext := runOf (edSlot d i) (capCursor (edSlot d i)) n, rights := [rLoad], need := needR }
def outSlot (d : RData) (i n : Nat) : EngSlot :=
  { side := i, ext := runOf (edSlot d i) (capCursor (edSlot d i)) n, rights := [rStore], need := needW }

/-- What an operation uses: its slots and parameters, the extents of the slots, and the engine's own first reject
reason (0 for none). -/
structure EngForm where
  slots  : List Nat
  params : List Nat
  exts   : List EngSlot
  own    : Nat
  deriving DecidableEq, Repr

/-- Some line of one extent shares a byte with some line of the other; an empty line shares none. -/
def extShare (a b : Extent) : Bool :=
  (List.range a.lines).any fun i => (List.range b.lines).any fun j =>
    let x : Int := a.start + i * a.stride
    let y : Int := b.start + j * b.stride
    decide (0 < a.len) && decide (0 < b.len) && decide (x < y + b.len) && decide (y < x + a.len)

/-- The bell NBELL may not be named (R236, R111). -/
def nbellBad (s : State) (world : Bool) (ctrl : Word) : Bool :=
  bitAt ctrl 31 && !bellAllowed s { Ctx.empty with super := true, cust := world } (fld ctrl 27 16)

/-- The reject reason of R236 for an assigned OP, 0 for none. -/
def engReject (s : State) (e : Eng) (r : Nat) (d : RData) (f : EngForm) : Nat :=
  let ctrl := edWord d 0
  let outs := f.exts.filter fun x => 2 ≤ x.side
  let ins := f.exts.filter fun x => x.side < 2
  let live := fun x : EngSlot => !edNull d x.side
  if fld ctrl 62 32 ≠ 0 ∨ fld ctrl 30 28 ≠ 0 ∨ bitAt ctrl 8 = true ∨
      ([0, 1, 2, 3].any fun i => !f.slots.contains i && !edNull d i) = true ∨
      ([0, 1, 2, 3, 4].any fun i => !f.params.contains i && decide (edParam d i ≠ 0)) = true then 2
  else if nbellBad s (bitAt (rcfg s e r) 14) ctrl then 3
  else if (outs.filter live).any fun o => (ins.filter live).any fun i => extShare o.ext i.ext then 4
  else if (outs.filter live).any fun o => (outs.filter live).any fun p => decide (o.side < p.side) && extShare o.ext p.ext then 4
  else f.own

/-- The first capability check of R237 that fails, as SIDE and kind. -/
def engCapFault : List EngSlot → Option (Nat × Nat)
  | [] => none
  | x :: xs => match extCheck x.ext x.rights with
    | some k => some (x.side, k)
    | none => engCapFault xs

/-- Every page of every extent is translated (R237). -/
def engPages (q : XReq) : List EngSlot → State → Option XferErr × State
  | [], s => (none, s)
  | x :: xs, s => match xferPages q x.need x.side (extPages x.ext) s with
    | (some e, s) => (some e, s)
    | (none, s) => engPages q xs s

/-! ### The end of an operation -/

/-- STATUS (R235). -/
def engStatus (edetail side detail code : Nat) : Word :=
  wd (edetail * 2 ^ 24 + side * 2 ^ 16 + detail * 256 + code)

/-- A change to descriptor `i` of a ring. -/
def modDesc (s : State) (e : Eng) (r i : Nat) (f : EngDesc → EngDesc) : State :=
  match descAt s e r i with
  | none => s
  | some d => setDesc s e r i (f d)

/-- The operation has ended: the descriptor waits for its completion. `last` is the last output line written, and `xl` the
TLB entry used for it. -/
def engFin (s : State) (e : Eng) (r i : Nat) (status result : Word) (last : Option (Nat × BitVec 4 × Nat))
    (xl : Option TlbEnt) : State :=
  modDesc s e r i fun d => { d with fin := some (status, result), last := last, lastXl := xl }

/-- It ends with a code, SIDE and DETAIL and no output. -/
def engEnd (s : State) (e : Eng) (r i code side detail : Nat) : State :=
  engFin s e r i (engStatus 0 side detail code) 0 none none

/-- The descriptor used something that lasts beyond it: a batch's table or a dictionary (R271, R288). -/
def descUse (s : State) (e : Eng) (r i : Nat) (uses : List (Nat × Nat)) (torn : Bool) : State :=
  modDesc s e r i fun d => { d with uses := d.uses ++ uses, torn := d.torn || torn }

/-- The operation issues transactions from here on, or (false) its end leaves no output undefined (R238, R269). -/
def engIssued (s : State) (e : Eng) (r i : Nat) (b : Bool) : State := modDesc s e r i fun d => { d with issued := b }

/-- It meets a failure of a transfer: XLAT_FAULT, a bus error that ENGINE_BUS_ERROR acts on, or an answer to be
awaited. -/
def engFail (s : State) (e : Eng) (r i : Nat) (x : XferErr) : State :=
  match x with
  | .xlat dt side => engEnd s e r i 5 side dt
  | .bus pa txn g k side =>
    setRing s e r { ringAt s e r with err := some { pa := pa, txn := txn, gate := g, cause := k, who := some i, side := side } }
  | .wait => s

/-- Nothing keeps the ring from working on descriptor `i`: no bus error, and no failure before it. -/
def engClear (s : State) (e : Eng) (r i : Nat) : Bool :=
  engLive s e && (ringAt s e r).err.isNone && !((ringAt s e r).descs.take i).any descFailed

/-- Descriptor `i` of a ring may run operation `op`: it has been accepted and not ended, none before it has failed, and it
runs already or is the one that the engine starts next (R240). -/
def engReady (s : State) (e : Eng) (r i op : Nat) : Option EngDesc :=
  if engClear s e r i then
    (descAt s e r i).filter fun d => decide (edOp d.raw = op) && d.fin.isNone && (d.lane.isSome || engTurn s e r i)
  else none

/-- The tests of R236 and R237 on a descriptor, and then the operation. -/
def engRun (s : State) (e : Eng) (r i : Nat) (d : EngDesc) (f : EngForm) (act : State → State) : State :=
  let why := engReject s e r d.raw f
  if why ≠ 0 then engEnd s e r i 7 4 why
  else match engCapFault (f.exts.filter fun x => !edNull d.raw x.side) with
    | some (side, k) => engEnd s e r i 2 side k
    | none =>
      let q := ringReq s e r
      match if !q.xlat && !s2en s q.world then (none, s) else engPages q f.exts s with
      | (some x, s) => engFail s e r i x
      | (none, s) => act (engIssued s e r i true)

/-! ### Reads and writes of an operation -/

/-- The transactions of one extent. -/
def engPieces (q : XReq) (x : EngSlot) (s : State) : Except XferErr (List XPiece) × State :=
  xferPieces q x.ext.cap x.need x.side (extAll x.ext) s

/-- All of several extents. -/
def engAllPieces (q : XReq) : List EngSlot → State → Except XferErr (List XPiece) × State
  | [], s => (.ok [], s)
  | x :: xs, s =>
    match engPieces q x s with
    | (.error e, s) => (.error e, s)
    | (.ok ps, s) =>
      match engAllPieces q xs s with
      | (.ok qs, s) => (.ok (ps ++ qs), s)
      | r => r

/-- What an engine read: the bytes of a SIDE, or the SIDE of the first poisoned granule. -/
def sideBytes (rs : List (XPiece × RData)) (side : Nat) : List Byte :=
  (rs.filter fun x => decide (x.1.side = side)).flatMap fun x => x.2.bytes
def poisonSide (rs : List (XPiece × RData)) : Option Nat :=
  (rs.find? fun x => x.2.poison.any id).map fun x => x.1.side

/-- The extents are read whole. A failure ends the operation. -/
def engRead (s : State) (e : Eng) (r i : Nat) (xs : List EngSlot) (act : (Nat → List Byte) → State → State) : State :=
  match engAllPieces (ringReq s e r) xs s with
  | (.error x, s) => engFail s e r i x
  | (.ok ps, s) =>
    match piecesReady 5 (engSrc e r) ps s with
    | (false, s) => s
    | (true, s) =>
      match readPieces 5 (engSrc e r) ps [] s with
      | (.error x, s) => engFail s e r i x
      | (.ok ds, s) =>
        match poisonSide (ps.zip ds) with
        | some side => engEnd s e r i 4 side 0
        | none => act (sideBytes (ps.zip ds)) s

/-- Bytes for output `side`, from the start of its extent on. -/
def engOut (d : RData) (side : Nat) (b : List Byte) : EngSlot × List Byte := (outSlot d side b.length, b)

/-- The last line of a list of transactions as `last` keeps it, with the TLB entry used. -/
def lastPiece (ps : List XPiece) : Option ((Nat × BitVec 4 × Nat) × Option TlbEnt) :=
  ps.getLast?.map fun p => ((lineOf p.pa, p.colour, p.side), p.xl)

/-- Outputs are written in order; a failure ends the operation, and otherwise it ends with this status and result. `last`
is a line that the operation wrote before. -/
def engWriteAfter (s : State) (e : Eng) (r i : Nat) (last : Option ((Nat × BitVec 4 × Nat) × Option TlbEnt))
    (outs : List (EngSlot × List Byte)) (status result : Word) : State :=
  let q := ringReq s e r
  let step := fun (a : Option XferErr × Option ((Nat × BitVec 4 × Nat) × Option TlbEnt) × State) (o : EngSlot × List Byte) =>
    if a.1.isSome then a
    else match engPieces q o.1 a.2.2 with
      | (.error x, s) => (some x, a.2.1, s)
      | (.ok ps, s) =>
        let ws := ps.map fun p => (p, sliceZ o.2 p.k p.n, ([] : List Bool))
        match writePieces 5 (engSrc e r) ws s with
        | (some x, s) => (some x, a.2.1, s)
        | (none, s) => (none, (lastPiece ps).orElse fun _ => a.2.1, s)
  match outs.foldl step (none, last, s) with
  | (some x, _, s) => engFail s e r i x
  | (none, last, s) => engFin s e r i status result (last.map (·.1)) (last.bind (·.2))

/-- Outputs written from a fresh start. -/
def engWrite (s : State) (e : Eng) (r i : Nat) (outs : List (EngSlot × List Byte)) (status result : Word) : State :=
  engWriteAfter s e r i none outs status result

/-- An operation that ends with OK. -/
def engOk (s : State) (e : Eng) (r i : Nat) (outs : List (EngSlot × List Byte)) (result : Nat) : State :=
  engWrite s e r i outs 0 (wd result)

/-- The engine's own outcome: STATUS and RESULT only. -/
def engCode (s : State) (e : Eng) (r i code result : Nat) : State :=
  engFin s e r i (engStatus 0 0 0 code) (wd result) none none

/-! ### What is left undefined (R238, R242, R246) -/

/-- `n` free bytes. -/
def freeBytes (s : State) (n : Nat) : List Byte × State :=
  let m := ceilDiv n 8
  (((List.range m).flatMap fun k => leBytes 8 (Config.freeWord (s.free + k)).toNat).take n, { s with free := s.free + m })

/-- Each of these transactions was performed or not, and what it wrote is open: free values (assumption log 71). -/
def undefWrites (e : Eng) (r : Nat) : List XPiece → State → State
  | [], s => s
  | p :: ps, s =>
    let (k, s) := freeNat s
    if bitAt (Config.freeWord k) 0 then
      let (b, s) := freeBytes s p.n
      undefWrites e r ps (fabricTxn s p.pa p.n (.write b [] []) 5 p.colour (engSrc e r) 0).2
    else undefWrites e r ps s

/-- What extent `x` holds is undefined from here on. -/
def undefExt (q : XReq) (e : Eng) (r : Nat) (s : State) (x : EngSlot) : State :=
  match engPieces q x s with
  | (.error _, s) => s
  | (.ok ps, s) => undefWrites e r ps s

/-- A slot that the operation uses is null (reason 16). -/
def slotMissing (d : RData) (slots : List Nat) : Bool := slots.any (edNull d)

/-- A row of operation `op` on a descriptor that has waited (`begun`) or has not: it takes its lane, and acts. -/
def engRowOf (begun : Bool) (e : Eng) (op : Nat) (r : BitVec 4) (i : Nat) (act : EngDesc → State → State) (s : State) : Out :=
  match (engReady s e r.toNat i op).filter fun d => d.begun == begun with
  | none => .next s
  | some d =>
    let (d, s) := engPlace s e r.toNat i d
    .next (act d s)

/-- The row of an operation. -/
def engRow (e : Eng) (op : Nat) (r : BitVec 4) (i : Nat) (act : EngDesc → State → State) (s : State) : Out :=
  engRowOf false e op r i act s

/-- The row of an operation that may have to wait (R265, R288, R310): its descriptor is tested at once, and one that passes
waits. -/
def heldRow (e : Eng) (op : Nat) (r : BitVec 4) (i : Nat) (form : State → RData → EngForm) (act : EngDesc → State → State)
    (s : State) : Out :=
  match (descAt s e r.toNat i).filter fun d => decide (edOp d.raw = op) && d.fin.isNone && d.lane.isNone && !d.begun &&
      decide (i = 0) && engClear s e r.toNat i && engHeld s e r.toNat d with
  | some d => .next (engRun s e r.toNat i d (form s d.raw) fun s =>
      modDesc s e r.toNat i fun d => { d with begun := true, issued := false })
  | none => engRow e op r i (fun d s => engRun s e r.toNat i d (form s d.raw) (act d)) s

/-- The row by which an operation that has waited proceeds. -/
def proceedRow (e : Eng) (op : Nat) (r : BitVec 4) (i : Nat) (act : EngDesc → State → State) (s : State) : Out :=
  engRowOf true e op r i (fun d s => act d (engIssued s e r.toNat i true)) s

end Sys2Proof.Machine
end

