-- ==== Sys2Proof/Machine/Chunker.lean ====
section
/-! DEFINITION. The Chunker (R252 to R261): cutting a stream, fingerprints, carry blocks. -/

namespace Sys2Proof.Machine
open Sys2Proof

/-- A gear table entry (R253). -/
def gear (seed : Word) (x : Byte) : Word := mix64 (wd x.toNat ^^^ seed)

/-- A stream in progress (R255): gear hash, length of the chunk, SHA-256 chaining values and bytes not yet compressed
(newest first), stream offset of the next byte, and the records, newest first. -/
structure ChunkSt where
  h    : Word
  n    : Nat
  hs   : List Nat
  pend : List Byte
  off  : Nat
  recs : List (List Byte)
  deriving DecidableEq, Repr

/-- Message bytes absorbed into a SHA-256 state. -/
def absorb (x : ChunkSt) (b : Byte) : ChunkSt :=
  let p := b :: x.pend
  if p.length = 64 then { x with hs := shaBlock 32 shaK256 x.hs p.reverse, pend := [] } else { x with pend := p }

/-- A new chunk has absorbed the domain ID (R254). -/
def chunkBegin (x : ChunkSt) (dom : Word) : ChunkSt :=
  { x with h := 0, n := 0, hs := shaH256, pend := (leBytes 8 dom.toNat).reverse }

/-- The digest of a message of `len` bytes whose last bytes are still pending. -/
def shaEnd (hs : List Nat) (pend : List Byte) (len : Nat) : List Byte :=
  let p := pend ++ [0x80] ++ List.replicate ((119 - pend.length) % 64) 0 ++ beBytes 8 (8 * len)
  ((blocksOf 64 3 p).foldl (shaBlock 32 shaK256) hs).flatMap (beBytes 4)

/-- The record of the chunk that ends at the last byte (R257). -/
def chunkRec (x : ChunkSt) (fin maxcut : Bool) : List Byte :=
  let f := shaEnd x.hs x.pend.reverse (8 + x.n)
  let hook := decide ((f.headD 0).toNat % 64 = 0)
  leBytes 8 (x.off + 2 ^ 64 - x.n) ++ leBytes 4 x.n ++ leBytes 4 (b2n hook + 2 * b2n fin + 4 * b2n maxcut) ++ f

/-- The mask of R255. -/
def cutMask (n : Nat) : Word := if n < 65536 then 0xB56AD6AA00000000 else 0xA52A52AA00000000

/-- One byte of the stream; `dom` is the domain of chunks that start here. -/
def chunkByte (seed dom : Word) (x : ChunkSt) (b : Byte) : ChunkSt :=
  let x := if x.n = 0 then chunkBegin x dom else x
  let h := (x.h <<< 1) + gear seed b
  let n := x.n + 1
  let x := { absorb x b with h := h, n := n, off := (x.off + 1) % 2 ^ 64 }
  let maxcut := decide (n = 262144)
  if maxcut || (decide (16384 ≤ n) && decide (h &&& cutMask n = 0)) then
    { x with recs := chunkRec x false maxcut :: x.recs, n := 0, h := 0 }
  else x

/-- The final chunk. -/
def chunkLast (x : ChunkSt) : ChunkSt :=
  if x.n = 0 then x else { x with recs := chunkRec x true false :: x.recs, n := 0, h := 0 }

/-- The stream that a carry block continues (R258), none where the block breaks the table. The table relates SOFF and N in
no way: with SOFF below N the offset of the record wraps modulo 2^64 (log 95). -/
def carryIn (b : List Byte) : Option ChunkSt :=
  let n := leAt b 0x10 8
  let p := (8 + n) % 64
  if leAt b 0 2 ≠ 1 ∨ leAt b 2 6 ≠ 0 ∨ 262143 < n then none
  else if n = 0 then
    if leAt b 0x18 104 = 0 then some { h := 0, n := 0, hs := [], pend := [], off := leAt b 8 8, recs := [] } else none
  else if leAt b (0x40 + p) (64 - p) ≠ 0 then none
  else some { h := wd (leAt b 0x18 8), n := n, hs := (List.range 8).map fun i => leAt b (0x20 + 4 * i) 4
              pend := (sliceZ b 0x40 p).reverse, off := leAt b 8 8, recs := [] }

/-- The carry block of a stream. -/
def carryOut (x : ChunkSt) : List Byte :=
  let head := leBytes 2 1 ++ List.replicate 6 0 ++ leBytes 8 x.off ++ leBytes 8 x.n
  if x.n = 0 then head ++ List.replicate 104 0
  else head ++ leBytes 8 x.h.toNat ++ x.hs.flatMap (leBytes 4) ++ sliceZ x.pend.reverse 0 64

/-- The form of CHUNK (R256, R261). -/
def chunkForm (d : RData) : EngForm :=
  let first := edFlag d 10
  let last := edFlag d 11
  let l := fld (edParam d 0) 31 0
  let slots := [0] ++ (if first then [] else [1]) ++ [2] ++ (if last then [] else [3])
  { slots := slots, params := [0, 1]
    exts := [inSlot d 0 l] ++ (if first then [] else [inSlot d 1 128]) ++ [outSlot d 2 (48 * (l / 16384 + 2))] ++
      (if last then [] else [outSlot d 3 128])
    own := if slotMissing d slots then 16 else if 4 ≤ edFlags d then 17
      else if fld (edParam d 0) 63 32 ≠ 0 ∨ (l = 0 ∧ last = false) then 18 else 0 }

/-- CHUNK: one descriptor of a stream; a continuing one waits for every earlier descriptor of its ring (R259). -/
def execChunk (r : BitVec 4) (i : Nat) (s : State) : Out :=
  engRow .chk 1 r i (fun d s =>
    let first := edFlag d.raw 10
    let last := edFlag d.raw 11
    if !first && decide (i ≠ 0) then s
    else
      let f := chunkForm d.raw
      engRun s .chk r.toNat i d f fun s =>
        engRead s .chk r.toNat i (f.exts.filter fun x => x.side < 2) fun b s =>
          let x0 := if first then some { h := 0, n := 0, hs := [], pend := [], off := 0, recs := [] } else carryIn (b 1)
          match x0 with
          | none => engCode s .chk r.toNat i 0x11 0
          | some x0 =>
            let x := (b 0).foldl (chunkByte (rget s (pg .chk + 0x100)) (edParam d.raw 1)) x0
            let x := if last then chunkLast x else x
            let recs := x.recs.reverse.flatMap id
            engOk s .chk r.toNat i ([engOut d.raw 2 recs] ++ (if last then [] else [engOut d.raw 3 (carryOut x)]))
              (x.n * 2 ^ 32 + x.recs.length)) s

/-- The form of FPRINT. -/
def fprintForm (d : RData) : EngForm :=
  let verify := edFlag d 10
  let l := fld (edParam d 0) 31 0
  let slots := [0, if verify then 1 else 2]
  { slots := slots, params := [0, 1]
    exts := [inSlot d 0 l] ++ (if verify then [inSlot d 1 32] else [outSlot d 2 32])
    own := if slotMissing d slots then 16 else if 2 ≤ edFlags d then 17 else if fld (edParam d 0) 63 32 ≠ 0 then 18 else 0 }

/-- FPRINT (R260). -/
def execFprint (r : BitVec 4) (i : Nat) (s : State) : Out :=
  engRow .chk 2 r i (fun d s =>
    let verify := edFlag d.raw 10
    let f := fprintForm d.raw
    engRun s .chk r.toNat i d f fun s =>
      engRead s .chk r.toNat i (f.exts.filter fun x => x.side < 2) fun b s =>
        let fp := sha256 (leBytes 8 (edParam d.raw 1).toNat ++ b 0)
        if !verify then engOk s .chk r.toNat i [engOut d.raw 2 fp] (leAt fp 0 8)
        else if b 1 = fp then engOk s .chk r.toNat i [] (leAt fp 0 8)
        else engCode s .chk r.toNat i 0x10 (leAt fp 0 8)) s

end Sys2Proof.Machine
end

