-- ==== Sys2Proof/Machine/MemInstr.lean ====
section
/-! DEFINITION. Loads and stores (R84 to R86, R134), atomics (R87), fences (R88), cache and TLB maintenance (R91,
R92), and calls through the stack (R103, R104). -/

namespace Sys2Proof.Machine
open Sys2Proof

/-! ### Loads (R84, R85) -/

/-- The word of a load: `code` of R84. -/
def ldWord (code : Nat) (rd rs1 : Reg) : MemOff → BitVec 32
  | .imm i => wImm 0x10 rd rs1 code i
  | .reg r => wReg 0x12 rd rs1 r code

/-- The word of a store. -/
def stWord (code : Nat) (data rs1 : Reg) : MemOff → BitVec 32
  | .imm i => wImm 0x11 (BitVec.ofNat 5 code) rs1 data.toNat i
  | .reg r => wReg 0x13 data rs1 r code

/-- The registers an offset reads. -/
def offRegs : MemOff → List Reg
  | .imm _ => []
  | .reg r => [r]

/-- The offset operand, scaled by the access size `n` in the Immediate forms. -/
def offOf (c : Ctx) (n : Nat) : MemOff → Word
  | .imm i => sextImm i * wd n
  | .reg r => readInt c r

/-- The address of an access: CURSOR plus offset. -/
def memAddr (auth : Cap) (off : Word) : Nat := (wd (capCursor auth) + off).toNat

/-- An outstanding load joins the context's four. -/
def pushLoad (s : State) (cx : CtxId) (dest : Nat) (v : Cap) (l : Loaded) : State :=
  let c := ctxAt s cx
  setCtx s cx { c with loads := c.loads ++ [{ dest := dest, val := v, cached := l.cached, xl := l.ent, gates := l.gates, old := [] }] }

/-- The load of `n` bytes through register `rs1`, for the destination key `dest`. -/
def loadTo (cx : CtxId) (word : BitVec 32) (rs1 : Reg) (off : Word) (n dest : Nat)
    (val : Cap → Loaded → Cap) (c : Ctx) (s : State) : Res :=
  if 4 ≤ c.loads.length then .stall s .load
  else
    let auth := readReg c rs1
    let x := memAddr auth off
    match capCheck auth [rLoad] true (decide (n = 16)) x n with
    | some k => .fault s (accFault k x rs1.toNat 0)
    | none =>
      match loadVa { cx := cx, c := c, reg := rs1.toNat, cap := auth, word := word } x n s with
      | .error r => r
      | .ok (l, s) => .done (pushLoad s cx dest (val auth l) l)

/-- The bank key of a destination, 0 for g0. -/
def destKey (c : Ctx) (rd : Reg) : Nat := (regKey c.cwp rd.toNat).getD 0

/-- An integer load: `sx` sign-extends. -/
def loadInt (cx : CtxId) (code n : Nat) (sx : Bool) (rd rs1 : Reg) (off : MemOff) (s : State) : Out :=
  let word := ldWord code rd rs1 off
  issue cx { word := word, rep := 1, reads := rs1 :: offRegs off, writes := [rd] }
    (fun c s => loadTo cx word rs1 (offOf c n off) n (destKey c rd)
      (fun _ l =>
        let v := leNat l.bytes
        intCap (wd (if sx then wrapInt 64 (signed (8 * n) v) else v))) c s) s

/-- LDB. -/
def execLdb (cx : CtxId) (rd rs1 : Reg) (off : MemOff) (s : State) : Out := loadInt cx 0 1 false rd rs1 off s
/-- LDH. -/
def execLdh (cx : CtxId) (rd rs1 : Reg) (off : MemOff) (s : State) : Out := loadInt cx 1 2 false rd rs1 off s
/-- LDW. -/
def execLdw (cx : CtxId) (rd rs1 : Reg) (off : MemOff) (s : State) : Out := loadInt cx 2 4 false rd rs1 off s
/-- LDD. -/
def execLdd (cx : CtxId) (rd rs1 : Reg) (off : MemOff) (s : State) : Out := loadInt cx 3 8 false rd rs1 off s
/-- LDBS. -/
def execLdbs (cx : CtxId) (rd rs1 : Reg) (off : MemOff) (s : State) : Out := loadInt cx 4 1 true rd rs1 off s
/-- LDHS. -/
def execLdhs (cx : CtxId) (rd rs1 : Reg) (off : MemOff) (s : State) : Out := loadInt cx 5 2 true rd rs1 off s
/-- LDWS. -/
def execLdws (cx : CtxId) (rd rs1 : Reg) (off : MemOff) (s : State) : Out := loadInt cx 6 4 true rd rs1 off s

/-- The granule a load returned, as a capability. -/
def granuleCap (l : Loaded) : Cap := { bits := BitVec.ofNat 128 (leNat l.bytes), tag := l.tag }

/-- LDC (R28); injection point 1 of the core clears the loaded tag (R438). -/
def execLdc (cx : CtxId) (rd rs1 : Reg) (off : MemOff) (s : State) : Out :=
  let word := ldWord 7 rd rs1 off
  let k := (coreOf cx).toNat
  let inj := injArmed s .core k 1
  issue cx { word := word, rep := 1, reads := rs1 :: offRegs off, writes := [rd] }
    (fun c s =>
      match loadTo cx word rs1 (offOf c 16 off) 16 (destKey c rd)
          (fun auth l => let v := loadCapResult auth (granuleCap l); { v with tag := v.tag && !inj }) c s with
      | .done s => .done (if inj then injFire s .core k else s)
      | r => r) s

/-- A load's destination takes its value (R51); keys from 256 on are FP registers. -/
def loadLand (s : State) (cx : CtxId) (l : Load) : State :=
  if 256 ≤ l.dest then setFp s cx (setFReg (fpOf s cx) (l.dest - 256) (capWord l.val))
  else if l.dest = 0 then s
  else setCtx s cx (writeKey (ctxAt s cx) l.dest l.val)

/-- LOAD_RETURN (R51): outstanding load `idx` returns, in any order. -/
def execLoadReturn (cx : CtxId) (idx : Nat) (s : State) : Out :=
  let c := ctxAt s cx
  match c.loads[idx]? with
  | none => .next s
  | some l =>
    let s := loadLand (setCtx s cx { c with loads := c.loads.eraseIdx idx }) cx l
    .next (wakeIf (wakeIf (wakeIf s cx .load) cx .drain) cx .fp)

/-! ### Stores (R84, R85) -/

/-- A store of `n` bytes through `rs1`. -/
def storeFrom (cx : CtxId) (word : BitVec 32) (rs1 : Reg) (off : Word) (d : List Byte) (extra : Cap → Bool)
    (tag : Bool) (c : Ctx) (s : State) : Res :=
  let auth := readReg c rs1
  let x := memAddr auth off
  match capCheck auth [rStore] (extra auth) (decide (d.length = 16)) x d.length with
  | some k => .fault s (accFault k x rs1.toNat 0)
  | none => storeVa { cx := cx, c := c, reg := rs1.toNat, cap := auth, word := word } x d tag s

/-- An integer store. -/
def storeInt (cx : CtxId) (code n : Nat) (data rs1 : Reg) (off : MemOff) (s : State) : Out :=
  let word := stWord code data rs1 off
  issue cx { word := word, rep := 1, reads := data :: rs1 :: offRegs off }
    (fun c s => storeFrom cx word rs1 (offOf c n off) (leBytes n (readInt c data).toNat) (fun _ => true) false c s) s

/-- STB. -/
def execStb (cx : CtxId) (data rs1 : Reg) (off : MemOff) (s : State) : Out := storeInt cx 0 1 data rs1 off s
/-- STH. -/
def execSth (cx : CtxId) (data rs1 : Reg) (off : MemOff) (s : State) : Out := storeInt cx 1 2 data rs1 off s
/-- STW. -/
def execStw (cx : CtxId) (data rs1 : Reg) (off : MemOff) (s : State) : Out := storeInt cx 2 4 data rs1 off s
/-- STD. -/
def execStd (cx : CtxId) (data rs1 : Reg) (off : MemOff) (s : State) : Out := storeInt cx 3 8 data rs1 off s

/-- STC (R27). -/
def execStc (cx : CtxId) (data rs1 : Reg) (off : MemOff) (s : State) : Out :=
  let word := stWord 7 data rs1 off
  issue cx { word := word, rep := 1, reads := data :: rs1 :: offRegs off }
    (fun c s =>
      let v := readReg c data
      storeFrom cx word rs1 (offOf c 16 off) (capBytes v) (fun auth => storeCapOk auth v) v.tag c s) s

/-- STORE_BUFFER_DRAIN (R52); a context that waits for this one to settle looks again (R46, R64). A stopped device sends
nothing (R404). -/
def execStoreBufferDrain (cx : CtxId) (s : State) : Out :=
  if s.power.halted then .next s
  else .next (wakeSettle (wakeIf (wakeIf (drainOne s cx) cx .store) cx .drain) (coreOf cx))

/-! ### FP loads and stores (R134) -/

/-- FLW and FLD. -/
def loadFp (cx : CtxId) (sub n : Nat) (rd rs1 : Reg) (imm : BitVec 11) (s : State) : Out :=
  let word := wImm 0x33 rd rs1 sub imm
  fpIssue cx word { fwrites := [rd], reads := [rs1] }
    (fun c _ s => loadTo cx word rs1 (sextImm imm * wd n) n (fKey rd) (fun _ l => intCap (wd (leNat l.bytes))) c s) s

/-- FSW and FSD. -/
def storeFp (cx : CtxId) (sub n : Nat) (rd rs1 : Reg) (imm : BitVec 11) (s : State) : Out :=
  let word := wImm 0x33 rd rs1 sub imm
  fpIssue cx word { freads := [rd], reads := [rs1] }
    (fun c f s =>
      storeFrom cx word rs1 (sextImm imm * wd n) (leBytes n (fReg f rd).toNat) (fun _ => true) false c s) s

/-- FLW. -/
def execFlw (cx : CtxId) (rd rs1 : Reg) (imm : BitVec 11) (s : State) : Out := loadFp cx 0 4 rd rs1 imm s
/-- FLD. -/
def execFld (cx : CtxId) (rd rs1 : Reg) (imm : BitVec 11) (s : State) : Out := loadFp cx 1 8 rd rs1 imm s
/-- FSW. -/
def execFsw (cx : CtxId) (rd rs1 : Reg) (imm : BitVec 11) (s : State) : Out := storeFp cx 2 4 rd rs1 imm s
/-- FSD. -/
def execFsd (cx : CtxId) (rd rs1 : Reg) (imm : BitVec 11) (s : State) : Out := storeFp cx 3 8 rd rs1 imm s

/-! ### Atomics (R87) -/

/-- The atomic at scratchpad: the old granule or word, with its tag. -/
def atomicAt (a : CoreAcc) (p : Piece) (x n : Nat) (op : TxnOp) (land : State → RData → State) (s : State) : Res :=
  if !isSpad p.pa then .fault s (accFault kIllegal x a.reg 0)
  else match fabricTxn s p.pa n op (ctxClass a.c) (BitVec.ofNat 4 (capColour a.cap)) (cxidWord a.cx a.c).toNat 3 with
    | (.ok d, s) =>
      let (d, s) := linkDeliver s (clusterOf (coreOf a.cx)) p.pa d
      if d.poison.any id then .fault s (accFault kPoison x a.reg 0)
      else .done (land (softWrite s p.pa n) d)
    | (r, s) => .fault s (respFault r (accFault kGate x a.reg 0))

/-- An atomic of `n` bytes, `op` its operation on rs2. A fault of the capability comes before that of a misaligned AADD or
ASWAP (assumption log 78). -/
def atomicInstr (cx : CtxId) (func n : Nat) (rd rs1 rs2 : Reg) (op : Cap → TxnOp) (s : State) : Out :=
  let word := wReg 0x14 rd rs1 rs2 func
  issue cx { word := word, reads := [rs1, rs2], writes := [rd] }
    (fun c s =>
      let auth := readReg c rs1
      let v := readReg c rs2
      let x := capCursor auth
      let big := decide (n = 16)
      match capCheck auth [rLoad, rStore] (!big || storeCapOk auth v) big x n with
      | some k => .fault s (accFault k x rs1.toNat 0)
      | none =>
        if !big && decide (x % 8 ≠ 0) then .fault s (accFault kIllegal x rs1.toNat 0)
        else if c.stores ≠ [] then .stall s .drain
        else
          let a : CoreAcc := { cx := cx, c := c, reg := rs1.toNat, cap := auth, word := word }
          match xlateAcc a (needR + needW) x n s with
          | .error r => r
          | .ok (ps, s) => match ps with
            | [p] =>
              atomicAt a p x n (op v)
                (fun s d =>
                  let old : Cap := { bits := BitVec.ofNat 128 (leNat d.bytes), tag := d.tags.headD false }
                  setCtx s cx (writeReg (ctxAt s cx) rd
                    (if big then loadCapResult auth old else intCap (wd (leNat d.bytes))))) s
            | _ => .fault s (accFault kIllegal x rs1.toNat 0)) s

/-- AADD. -/
def execAadd (cx : CtxId) (rd rs1 rs2 : Reg) (s : State) : Out :=
  atomicInstr cx 0 8 rd rs1 rs2 (fun v => .atomicAdd (capWord v)) s
/-- ASWAP. -/
def execAswap (cx : CtxId) (rd rs1 rs2 : Reg) (s : State) : Out :=
  atomicInstr cx 1 8 rd rs1 rs2 (fun v => .atomicSwap (capWord v)) s
/-- CSWAP. -/
def execCswap (cx : CtxId) (rd rs1 rs2 : Reg) (s : State) : Out :=
  atomicInstr cx 2 16 rd rs1 rs2 (fun v => .atomicCap v) s

/-! ### Fences (R88) -/

/-- FENCE: every earlier load has completed and every earlier store has drained. -/
def execFence (cx : CtxId) (s : State) : Out :=
  issue cx { word := wReg 0x15 0 0 0 0 }
    (fun c s => if c.loads = [] ∧ c.stores = [] then .done s else .stall s .drain) s

/-- FENCEW: a store buffer drains one entry at a time, in program order, so the order asked for holds already. -/
def execFencew (cx : CtxId) (s : State) : Out := issue cx { word := wReg 0x15 0 0 0 1 } (fun _ s => .done s) s

/-! ### Cache maintenance (R58, R91) -/

/-- A maintenance instruction: `rights` is the check of its authority, `priv` that it is for supervisors, which is tested
first (assumption log 78). -/
def maintInstr (cx : CtxId) (op : Nat) (priv : Bool) (rights : List Nat) (extra : Cap → Bool) (need : Nat)
    (act : State → Nat → Nat → State) (rs1 : Reg) (imm : BitVec 11) (s : State) : Out :=
  let word := wImm 0x16 (BitVec.ofNat 5 op) rs1 0 imm
  issue cx { word := word, reads := [rs1] }
    (fun c s =>
      if priv && !c.super then .fault s (flt kPriv)
      else
        let auth := readReg c rs1
        let x := memAddr auth (sextImm imm)
        match capCheck auth rights (extra auth) false x 1 with
        | some k => .fault s (accFault k x rs1.toNat 0)
        | none =>
          match xlateAcc { cx := cx, c := c, reg := rs1.toNat, cap := auth, word := word } need x 1 s with
          | .error r => r
          | .ok (ps, s) =>
            .done (ps.foldl (fun s p => if isDram p.pa then act s (clusterOf (coreOf cx)) (lineOf p.pa) else s) s)) s

/-- LOAD or STORE. -/
def loadOrStore (c : Cap) : Bool := capHas c rLoad || capHas c rStore

/-- CCLEAN. -/
def execCclean (cx : CtxId) (rs1 : Reg) (imm : BitVec 11) (s : State) : Out :=
  maintInstr cx 0 false [] loadOrStore needR cleanLine rs1 imm s
/-- CFLUSH. -/
def execCflush (cx : CtxId) (rs1 : Reg) (imm : BitVec 11) (s : State) : Out :=
  maintInstr cx 1 false [] loadOrStore needR flushLine rs1 imm s
/-- CINVAL. -/
def execCinval (cx : CtxId) (rs1 : Reg) (imm : BitVec 11) (s : State) : Out :=
  maintInstr cx 2 true [rStore] (fun _ => true) needW invalLine rs1 imm s

/-- IINVAL: every prefetch queue of the cluster is flushed, whatever the target of the address. -/
def execIinval (cx : CtxId) (rs1 : Reg) (imm : BitVec 11) (s : State) : Out :=
  let word := wImm 0x16 3 rs1 0 imm
  issue cx { word := word, reads := [rs1] }
    (fun c s =>
      let auth := readReg c rs1
      let x := memAddr auth (sextImm imm)
      match capCheck auth [rExec] true false x 1 with
      | some k => .fault s (accFault k x rs1.toNat 0)
      | none =>
        match xlateAcc { cx := cx, c := c, reg := rs1.toNat, cap := auth, word := word } needX x 1 s with
        | .error r => r
        | .ok (ps, s) =>
          .done (ps.foldl (fun s p => iinvalLine s (clusterOf (coreOf cx)) (lineOf p.pa)) s)) s

/-! ### TLB maintenance (R92) -/

/-- A broadcast invalidation; of an ASID in rs2 the low 16 bits count (assumption log 78). -/
def tlbInstr (cx : CtxId) (op : Fin 5) (w : Bool) (rs1 rs2 : Reg) (s : State) : Out :=
  issue cx { word := wReg 0x17 0 rs1 rs2 (b2n w * 256 + op.val), reads := [rs1, rs2] }
    (fun c s =>
      if !c.super || (!c.cust && (w || decide (3 ≤ op.val))) then .fault s (flt kPriv)
      else
        let i : Inval :=
          { op := op, world := w, asid := BitVec.ofNat 16 (readInt c rs2).toNat, addr := (readInt c rs1).toNat, issuer := cx }
        .done { s with invals := s.invals ++ [i] }) s

/-- TLBIVA. -/
def execTlbiva (cx : CtxId) (w : Bool) (rs1 rs2 : Reg) (s : State) : Out := tlbInstr cx 0 w rs1 rs2 s
/-- TLBIASID. -/
def execTlbiasid (cx : CtxId) (w : Bool) (rs2 : Reg) (s : State) : Out := tlbInstr cx 1 w 0 rs2 s
/-- TLBIW. -/
def execTlbiw (cx : CtxId) (w : Bool) (s : State) : Out := tlbInstr cx 2 w 0 0 s
/-- TLBIPA. -/
def execTlbipa (cx : CtxId) (w : Bool) (rs1 : Reg) (s : State) : Out := tlbInstr cx 3 w rs1 0 s
/-- TLBIS2. -/
def execTlbis2 (cx : CtxId) (w : Bool) (s : State) : Out := tlbInstr cx 4 w 0 0 s

/-- TLBSYNC. -/
def execTlbsync (cx : CtxId) (w : Bool) (s : State) : Out :=
  issue cx { word := wReg 0x17 0 0 0 (b2n w * 256 + 5) }
    (fun c s => if !c.super then .fault s (flt kPriv) else if synced s cx then .done s else .stall s .tlbsync) s

/-! ### Calls through the stack (R103, R104) -/

/-- g7. -/
abbrev g7 : Reg := 7

/-- The registers lk that a mask names, in ascending order. -/
def maskRegs (mask : BitVec 16) : List Reg :=
  ((List.range 16).filter fun k => mask.toNat.testBit k).map fun k => BitVec.ofNat 5 (16 + k)

/-- The granules of a save area of `m` granules at `n`, translated: VA, PA and attributes of each. -/
def areaPieces (ps : List Piece) (n m : Nat) : List Piece :=
  (List.range m).filterMap fun i =>
    let va := n + 16 * i
    (ps.find? fun p => decide (p.va ≤ va) && decide (va < p.va + p.n)).map fun p =>
      { p with va := va, n := 16, pa := p.pa + (va - p.va) }

/-- The save area stored granule by granule. A store that finds four entries waits for the oldest to drain (R52); CALLM,
which has written no register, is then executed again. -/
def callStores (a : CoreAcc) : List (Piece × Cap) → State → Except Res State
  | [], s => .ok s
  | (p, v) :: r, s =>
    let s := if 4 ≤ (ctxAt s a.cx).stores.length then drainOne s a.cx else s
    if 4 ≤ (ctxAt s a.cx).stores.length then .error (.stall s .store)
    else match storeCheck a p (.write (capBytes v) (storeTags v.tag) []) s with
      | (some e, s) => .error (.fault s (respFault e (accFault kGate p.va a.reg 0)))
      | (none, s) => callStores a r (pushStore s a.cx (storeEnt a p (capBytes v) v.tag s))

/-- The check of g7 over the save area of `n` bytes below its CURSOR (steps 2 and 3 of R103): the fault, if one. -/
def callCheck (stack : Cap) (n : Nat) (vals : List Cap) : Option FaultInfo :=
  let cur := capCursor stack
  let a := if n ≤ cur then cur - n else cur + 2 ^ 64 - n
  let f (k : Nat) : FaultInfo := accFault k a g7.toNat 0
  match if n ≤ cur then capCheck stack [rStore] true false a n
      else some ((capCheck stack [rStore] true false cur 0).getD kBounds) with
  | some k => some (f k)
  | none =>
    if a % 16 ≠ 0 then some (f kCapAlign)
    else (vals.zipIdx.find? fun v => !storeCapOk stack v.1).map fun v => accFault kRights (a + 16 * v.2) g7.toNat 0

/-- CALLM (R103). -/
def execCallm (cx : CtxId) (rd : Reg) (mask : BitVec 16) (s : State) : Out :=
  let word := wWide 0x22 rd mask.toNat
  issue cx { word := word, reads := rd :: g7 :: maskRegs mask, writes := [g7] }
    (fun c s =>
      let t := readReg c rd
      match targetCheck t with
      | some k => .fault s (targetFault t rd k)
      | none =>
        let stack := readReg c g7
        let vals := pccAt c (pcOf c + 4) :: (maskRegs mask).map (readReg c)
        let size := 16 * vals.length
        match callCheck stack size vals with
        | some f => .fault s f
        | none =>
          let a : CoreAcc := { cx := cx, c := c, reg := g7.toNat, cap := stack, word := word }
          let n := capCursor stack - size
          match xlateParts a needW false 0 (linesOf n size) s with
          | .error r => r
          | .ok (ps, s) =>
            match callStores a ((areaPieces ps n vals.length).zip vals) s with
            | .error r => r
            | .ok s => .jump (setCtx s cx (writeReg (ctxAt s cx) g7 (capSetCursor stack n))) (targetPcc t)) s

/-- The granules of a save area read in order, each as an LDC. -/
def retLoads (a : CoreAcc) : List Piece → State → Except Res (List Cap × State)
  | [], s => .ok ([], s)
  | p :: r, s =>
    match loadParts a [p] s with
    | .error e => .error e
    | .ok (l, s) =>
      match retLoads a r s with
      | .error e => .error e
      | .ok (vs, s) => .ok (loadCapResult a.cap (granuleCap l) :: vs, s)

/-- RETM (R104). -/
def execRetm (cx : CtxId) (mask : BitVec 16) (s : State) : Out :=
  let word := wWide 0x23 0 mask.toNat
  issue cx { word := word, reads := [g7], writes := g7 :: maskRegs mask }
    (fun c s =>
      let stack := readReg c g7
      let x := capCursor stack
      let m := 1 + (maskRegs mask).length
      match capCheck stack [rLoad] true false x (16 * m) with
      | some k => .fault s (accFault k x g7.toNat 0)
      | none =>
        if x % 16 ≠ 0 then .fault s (accFault kCapAlign x g7.toNat 0)
        else
          let a : CoreAcc := { cx := cx, c := c, reg := g7.toNat, cap := stack, word := word }
          match xlateParts a needR false 0 (linesOf x (16 * m)) s with
          | .error r => r
          | .ok (ps, s) =>
            match retLoads a (areaPieces ps x m) s with
            | .error r => r
            | .ok (vs, s) =>
              let link := vs.headD Cap.null
              match targetCheck link with
              | some k => .fault s (targetFault link g7 k)
              | none =>
                let c := ((maskRegs mask).zip vs.tail).foldl (fun c p => writeReg c p.1 p.2) (ctxAt s cx)
                .jump (setCtx s cx (writeReg c g7 (capSetCursor stack (x + 16 * m)))) (targetPcc link)) s

end Sys2Proof.Machine
end

