-- ==== Sys2Proof/Machine/Service.lean ====
section
/-! DEFINITION. Service calls (R151 to R153), taking a fault record (R145), and acting on a context (R148 to
R150). -/

namespace Sys2Proof.Machine
open Sys2Proof

/-- Z set to a value, the other flags kept. -/
def setZ (s : State) (cx : CtxId) (z : Bool) : State :=
  let c := ctxAt s cx
  setCtx s cx { c with flags := { c.flags with z := z } }

/-- Values into l8 to l15 of the current frame. -/
def putL8 (c : Ctx) (vs : List Cap) : Ctx :=
  ((List.range 8).zip vs).foldl (fun c p => writeReg c (BitVec.ofNat 5 (24 + p.1)) p.2) c

/-! ### Service calls -/

/-- The entry context `x` of world `w` takes the head of its call queue (R152). -/
def acceptTake (s : State) (core : CoreId) (w : Bool) (x : BitVec 4) : State :=
  let k := coreAt s core
  match callQ k w with
  | [] => s
  | e :: q =>
    let s := setCore s core (setCallQ k w q)
    let cx := cxOn core x
    setCtx s cx { putL8 (ctxAt s cx) e.ent with held := some (some e) }

/-- An entry context that waits in ACCEPT takes the call that arrived, and is READY. -/
def acceptWaiting (s : State) (core : CoreId) (w : Bool) (x : BitVec 4) : State :=
  let cx := cxOn core x
  let c := ctxAt s cx
  if c.run = .waiting ∧ c.wait = some .accept then finishWait (acceptTake s core w x) cx 0 else s

/-- SYSC n (R151). -/
def execSysc (cx : CtxId) (n : BitVec 16) (s : State) : Out :=
  issue cx { word := wWide 0x28 0 n.toNat, reads := [8, 9, 10, 11, 12, 13] }
    (fun c s =>
      let core := coreOf cx
      let w := n.msb || c.cust
      match svcEff s core w false with
      | none => .fault s (flt kIllegal)
      | some x =>
        if x = cxLow cx then .fault s (flt kIllegal)
        else
          let ent := ((List.range 6).map fun i => readReg c (BitVec.ofNat 5 (8 + i))) ++
            [intCap (cxidWord cx c), intCap (n.zeroExtend 64)]
          let s := setCtx s cx { parkCtx c with bySysc := true }
          let k := coreAt s core
          let s := setCore s core (setCallQ k w (callQ k w ++ [{ cx := cxLow cx, ent := ent }]))
          .hold (acceptWaiting s core w x)) s

/-- Registers l8 to l15, which ACCEPT and TAKEF write. -/
def l8to15 : List Reg := (List.range 8).map fun i => BitVec.ofNat 5 (24 + i)

/-- ACCEPT (R152): a result still due in a register it writes is waited for (R51). -/
def execAccept (cx : CtxId) (s : State) : Out :=
  issue cx { word := wReg 0x29 0 0 0 1 }
    (fun c s =>
      let core := coreOf cx
      if svcEff s core c.cust false ≠ some (cxLow cx) ∨ c.held.isSome = true then .fault s (flt kIllegal)
      else if (regKeys c l8to15).any fun k => (pendingKeys c).contains k then .stall s .load
      else if callQ (coreAt s core) c.cust = [] then .hold (setCtx s cx { c with run := .waiting, wait := some .accept })
      else .done (acceptTake s core c.cust (cxLow cx))) s

/-- The return to a held caller: `k` registers, its PCC past the SYSC. -/
def sysrTo (s : State) (c : Ctx) (x : CtxId) (k : Nat) : State :=
  let t := ctxAt s x
  let t := (List.range k).foldl (fun t i => writeReg t (BitVec.ofNat 5 (8 + i)) (readReg c (BitVec.ofNat 5 (24 + i)))) t
  setCtx s x { t with pcc := pccAt t (pcOf t + 4), run := .ready, bySysc := false, queue := [], fetch := none, walk := none }

/-- SYSR k (R153). -/
def execSysr (cx : CtxId) (k : BitVec 3) (s : State) : Out :=
  issue cx { word := wReg 0x29 0 0 0 (k.toNat * 256), reads := [24, 25, 26, 27].take k.toNat }
    (fun c s =>
      if 4 < k.toNat then .fault s (flt kIllegal)
      else
        let freed (s : State) : State := setCtx s cx { ctxAt s cx with held := none }
        match c.held with
        | none => .fault s (flt kIllegal)
        | some none => .done (setZ (freed s) cx true)
        | some (some e) => .done (setZ (freed (sysrTo s c (cxOn (coreOf cx) e.cx) k.toNat)) cx false)) s

/-- TAKEF (R145). -/
def execTakef (cx : CtxId) (s : State) : Out :=
  issue cx { word := wReg 0x29 0 0 0 2 }
    (fun c s =>
      let core := coreOf cx
      let k := coreAt s core
      if svcEff s core c.cust true ≠ some (cxLow cx) then .fault s (flt kIllegal)
      else match faultQ k c.cust with
        | [] => .done (setZ s cx true)
        | r :: q =>
          if (regKeys c l8to15).any fun k => (pendingKeys c).contains k then .stall s .load else
          let s := setCore s core (setFaultQ k c.cust q)
          let c := putL8 (ctxAt s cx) [intCap r.fe0, intCap r.fe1, r.fe2, intCap r.fe3, intCap r.fe4, intCap r.fe5, intCap r.fe6, intCap r.fe7]
          .done (setZ (setCtx s cx c) cx false)) s

/-! ### Acting on a context -/

/-- The checks of R148 on target number `v`: the target, or the fault kind. -/
def ctlTarget (s : State) (cx : CtxId) (c : Ctx) (v : Word) (ok : Ctx → Bool) : Except Nat CtxId :=
  let x := cxOn (coreOf cx) (BitVec.ofNat 4 v.toNat)
  if !c.super then .error kPriv
  else if v.toNat < 16 ∧ c.cust = false ∧ (ctxAt s x).cust = true then .error kPriv
  else if 16 ≤ v.toNat ∨ x = cx then .error kIllegal
  else if !ok (ctxAt s x) then .error kIllegal
  else .ok x

/-- PARKED, and not by SYSC. -/
def parkedFree (t : Ctx) : Bool := decide (t.run = .parked) && !t.bySysc
def notEmpty (t : Ctx) : Bool := decide (t.run ≠ .empty)

/-- The record of a context leaves the fault queues of its core. -/
def dropRecord (s : State) (x : CtxId) : State :=
  let k := coreAt s (coreOf x)
  setCore s (coreOf x)
    { k with faultO := k.faultO.filter (·.cx ≠ cxLow x), faultC := k.faultC.filter (·.cx ≠ cxLow x) }

/-- The shared form of op 0x2A. -/
def ctlInstr (cx : CtxId) (func : Nat) (rs1 rs2 : Reg) (ok : Ctx → Bool) (act : Ctx → State → CtxId → Res) (s : State) : Out :=
  issue cx { word := wReg 0x2A 0 rs1 rs2 func, reads := [rs1, rs2] }
    (fun c s => match ctlTarget s cx c (readInt c rs1) ok with
      | .error k => .fault s (flt k)
      | .ok x => act c s x) s

/-- RESUME (R148). -/
def execResume (cx : CtxId) (rs1 : Reg) (s : State) : Out :=
  ctlInstr cx 0 rs1 0 parkedFree
    (fun _ s x =>
      let s := dropRecord s x
      .done (setCtx s x { ctxAt s x with run := .ready, queue := [], fetch := none, walk := none })) s

/-- RESTART (R148). -/
def execRestart (cx : CtxId) (rs1 rs2 : Reg) (s : State) : Out :=
  ctlInstr cx 1 rs1 rs2 parkedFree
    (fun c s x =>
      let t := readReg c rs2
      match targetCheck t with
      | some k => .fault s (targetFault t rs2 k)
      | none =>
        let s := dropRecord s x
        let f := fpOf s x
        let s := setFp s x { f with fcsr := setFld f.fcsr 20 16 0 }
        .done (setCtx s x { ctxAt s x with
          run := .ready, pcc := targetPcc t, repAct := false, repCnt := 0, repU := false, queue := [], fetch := none
          walk := none })) s

/-- A store buffer drains, as far as the targets take its entries. -/
def drainAll (s : State) (x : CtxId) : State :=
  (List.range (ctxAt s x).stores.length).foldl (fun s _ => drainOne s x) s

/-- A context whose stores have drained becomes EMPTY (R46): FP state zeroed, out of every queue, its port sets cleared; a
caller that it held returns to the head of its call queue (R153). -/
def emptyCtx (s : State) (x : CtxId) : State :=
  let s := dropHold (leaveBells (abandon (cxReads x) s) x) x
  let s := clearPorts (leaveQueues (fpClear s x) x) x
  let c := ctxAt s x
  let s := match c.held with
    | some (some e) =>
      let k := coreAt s (coreOf x)
      setCore s (coreOf x) (setCallQ k c.cust (e :: callQ k c.cust))
    | _ => s
  setCtx s x Ctx.empty

/-- KILL of `x`: it stops, its store buffer drains, and it becomes EMPTY (R46). The issuer waits for a target that does
not yet take a store. -/
def killCtx (s : State) (x : CtxId) : Res :=
  let s := drainAll (parkOp s x) x
  if (ctxAt s x).stores = [] then .done (emptyCtx s x) else .stall s .settle

/-- KILL (R148). -/
def execKill (cx : CtxId) (rs1 : Reg) (s : State) : Out :=
  ctlInstr cx 2 rs1 0 notEmpty (fun _ s x => killCtx s x) s

/-- PARK (R148). -/
def execPark (cx : CtxId) (rs1 : Reg) (s : State) : Out :=
  ctlInstr cx 3 rs1 0 notEmpty (fun _ s x => .done (parkSoon s x)) s

/-- CXSTART (R150). -/
def execCxstart (cx : CtxId) (level world : Bool) (target : BitVec 4) (rs1 rs2 : Reg) (s : State) : Out :=
  issue cx { word := wReg 0x2B 0 rs1 rs2 (b2n level * 32 + b2n world * 16 + target.toNat), reads := [rs1, rs2] }
    (fun c s =>
      let x := cxOn (coreOf cx) target
      let t := readReg c rs1
      if !(c.super && c.cust) then .fault s (flt kPriv)
      else if x = cx ∨ (ctxAt s x).run ≠ .empty then .fault s (flt kIllegal)
      else match targetCheck t with
        | some k => .fault s (targetFault t rs1 k)
        | none =>
          .done (setCtx s x (writeKey
            { Ctx.empty with run := .ready, super := level, cust := world, pcc := targetPcc t } 1 (readReg c rs2)))) s

end Sys2Proof.Machine
end

