-- ==== Sys2Proof/Machine/Island.lean ====
section
/-! DEFINITION. The Custodian island: the ports of MOVP (R118, R119), the seal unit (R32 to R41, R335, R336), the
key ladder (R332 to R334), the digest unit (R425, R426), and the wipe and life cycle (R337, R341 to R343). -/

namespace Sys2Proof.Machine
open Sys2Proof

/-! ### Ports (R118, R119) -/

/-- What a port is for. -/
inductive PortUse where
  | operand | trigger | result
  deriving DecidableEq, Repr

/-- The use of port `p` of unit `u`, if it is assigned (R332, R335, R425). -/
def portUse (u p : Nat) : Option PortUse :=
  let operands := [2, 3, 3].getD u 0
  let results := [[0x20, 0x21, 0x22], [0x20, 0x21, 0x22, 0x30], [0x20, 0x22]].getD u []
  if 2 < u then none
  else if p < operands then some .operand
  else if p = 0x10 then some .trigger
  else if results.contains p then some .result
  else none

/-- The port set of a context at a unit; a port that nothing has written holds the null capability (assumption log 79). -/
def portSet (s : State) (u cx : Nat) : PortSet := smGet { vals := [], busy := 0 } s.ports (u * 2048 + cx)
def setPortSet (s : State) (u cx : Nat) (x : PortSet) : State :=
  { s with ports := smSet { vals := [], busy := 0 } s.ports (u * 2048 + cx) x }

/-- The queue of a unit. -/
def islQueue (s : State) (u : Nat) : List IslOp := smGet [] s.islQ u
def setIslQueue (s : State) (u : Nat) (q : List IslOp) : State := { s with islQ := smSet [] s.islQ u q }

/-- The value triggered, and the OP in it. -/
def opWord (o : IslOp) : Word := capWord (smGet Cap.null o.vals 0x10)
def opCode (o : IslOp) : Nat := fld (opWord o) 7 0
/-- An operand of an operation. -/
def opVal (o : IslOp) (p : Nat) : Cap := smGet Cap.null o.vals p

/-- OP codes with a row of their own. -/
def opAssigned (u op : Nat) : Bool := decide (1 ≤ op) && decide (op ≤ [8, 3, 4].getD u 0)

/-- A status port's value: OP and CODE. -/
def statVal (op code : Nat) : Cap := intCap (wd (op * 256 + code))

/-- The operation at the head of a unit's queue completes with these results (R119): its context's result ports take
them, and a context that awaits its last operation there goes on. -/
def islDone (s : State) (u : Nat) (res : SMap Cap) : State :=
  match islQueue s u with
  | [] => s
  | o :: q =>
    let s := setIslQueue s u q
    match o.src with
    | .cx n =>
      let x := portSet s u n
      let s := setPortSet s u n
        { vals := res.foldl (fun v p => smSet Cap.null v p.1 p.2) x.vals, busy := x.busy - 1 }
      if x.busy ≤ 1 then wakeIf s (BitVec.ofNat 11 n) .movpr else s
    | _ => s

/-- The results of an operation with this code: for the seal unit, results not named are null (R336); for the others
the ports that the operation does not name hold free values. -/
def islRes (s : State) (u : Nat) (o : IslOp) (code : Nat) (named : SMap Cap) : SMap Cap × State :=
  let st := statVal (opCode o) code
  if u = 0 then ([(0x20, smGet Cap.null named 0x20), (0x21, smGet Cap.null named 0x21), (0x22, st)], s)
  else
    let free (s : State) (p : Nat) : (Nat × Cap) × State :=
      match smFind named p with
      | some v => ((p, v), s)
      | none => let (n, s) := freeNat s; ((p, intCap (Config.freeWord n)), s)
    let ps := if u = 1 then [0x20, 0x21, 0x22] else [0x20]
    let (vs, s) := ps.foldl (fun (a : List (Nat × Cap) × State) p =>
      let (v, s) := free a.2 p
      (a.1 ++ [v], s)) ([], s)
    (vs ++ [(if u = 1 then 0x30 else 0x22, st)], s)

/-- The head completes with a code and the results named. -/
def islFinish (s : State) (u : Nat) (o : IslOp) (code : Nat) (named : SMap Cap) : State :=
  let (r, s) := islRes s u o code named
  islDone s u r

/-- BAD_OP of a unit. -/
def badOp (u : Nat) : Nat := if u = 0 then 0x17 else 0x10

/-- A wipe holds the operations of the seal unit and the ladder (R342). -/
def islHeld (s : State) (u : Nat) : Bool := decide (u ≠ 1) && rbit s (pg .lct + 0x118) 8

/-- Operations whose OP is unassigned complete with BAD_OP as they reach the head. -/
def islBad (u : Nat) : Nat → State → State
  | 0, s => s
  | n + 1, s =>
    match islQueue s u with
    | [] => s
    | o :: _ =>
      if opAssigned u (opCode o) || islHeld s u || o.wiped then s
      else islBad u n (islFinish s u o (badOp u) [])

/-- Every page, in ascending address order. -/
def allPages : List (PageKind × Nat) := (List.range 0x1000).filterMap fun i => pageAt (i * 0x1000)

/-- The DIGEST a page contributes to a FOLD: its reset digest while its domain is off. -/
def foldTerm (s : State) (k : PageKind) (i : Nat) : Word :=
  if domOn s (pageDom k i) then digestNow s k i else digestReset k i

def measAt (s : State) (i : Nat) : List Byte := beBytes 48 (smGet 0 s.island.meas i).toNat

/-- The bytes that R426 hashes, as they stand. -/
def foldBytes (s : State) : List Byte :=
  (allPages.flatMap fun p => leBytes 8 (regBase + pg p.1 p.2) ++ leBytes 8 (foldTerm s p.1 p.2).toNat) ++
    measAt s 0 ++ measAt s 1 ++ measAt s 2 ++ measAt s 3

/-- A FOLD at the head takes its snapshot, in the cycle in which FSTAT.BUSY shows it (R426, R429). -/
def foldSnap (s : State) : State :=
  match islQueue s 1 with
  | o :: q => if opCode o = 2 ∧ o.snap = none then setIslQueue s 1 ({ o with snap := some (foldBytes s) } :: q) else s
  | [] => s

/-- What a unit does as an operation reaches its head. -/
def islSweep (s : State) (u : Nat) : State :=
  let s := islBad u (islQueue s u).length s
  if u = 1 then foldSnap s else s

/-- A row of unit `u`: the operation at its head, if it has this OP. A wipe that began while it ran gives WIPED;
otherwise it waits for a wipe to end, and acts. -/
def islRow (u op : Nat) (act : State → IslOp → State) (s : State) : Out :=
  match islQueue s u with
  | [] => .next s
  | o :: _ =>
    if opCode o ≠ op then .next s
    else if o.wiped then .next (islSweep (islFinish s u o (if u = 0 then 0x19 else 0x16) []) u)
    else if islHeld s u then .next s
    else .next (islSweep (act s o) u)

/-- Bits of a trigger value that must be zero. -/
def zeroBad (o : IslOp) (hi lo : Nat) : Bool := decide (fld (opWord o) hi lo ≠ 0)

/-- The authority check of MOVP (R118). -/
def movpCheck (s : State) (c : Ctx) (a : Cap) (use : PortUse → Bool) : Except Nat (Nat × Nat) :=
  let n := capCursor a
  if !c.cust then .error kPriv
  else match capCheck a [rCustody] true false n 1 with
    | some k => .error k
    | none =>
      if !domOn s 2 || decide (2 ^ 16 ≤ n) then .error kIllegal
      else match portUse (n / 4096) (n % 4096) with
        | some x => if use x then .ok (n / 4096, n % 4096) else .error kIllegal
        | none => .error kIllegal

/-- The fault of a failed check of MOVP: the port number is the address of its 1-byte access (R118, R146). -/
def movpFault (k : Nat) (c : Ctx) (rs1 : Reg) : FaultInfo :=
  if k = kPriv ∨ k = kIllegal then flt k
  else { kind := k, addr := some (wd (capCursor (readReg c rs1))), reg := rs1.toNat }

/-- MOVPW (R118, R119). -/
def execMovpw (cx : CtxId) (rs1 rs2 : Reg) (s : State) : Out :=
  issue cx { word := wReg 0x26 0 rs1 rs2 0, reads := [rs1, rs2] }
    (fun c s => match movpCheck s c (readReg c rs1) (fun x => decide (x ≠ .result)) with
      | .error k => .fault s (movpFault k c rs1)
      | .ok (u, p) =>
        let v := readReg c rs2
        let x := portSet s u cx.toNat
        if p = 0x10 then
          let o : IslOp := { src := .cx cx.toNat, port := p, vals := smSet Cap.null x.vals 0x10 v, wiped := false, snap := none }
          let s := setPortSet s u cx.toNat { x with busy := x.busy + 1 }
          .done (islSweep (setIslQueue s u (islQueue s u ++ [o])) u)
        else .done (setPortSet s u cx.toNat { x with vals := smSet Cap.null x.vals p v })) s

/-- MOVPR (R118, R119). -/
def execMovpr (cx : CtxId) (rd rs1 : Reg) (s : State) : Out :=
  issue cx { word := wReg 0x26 rd rs1 0 1, reads := [rs1], writes := [rd] }
    (fun c s => match movpCheck s c (readReg c rs1) (fun x => decide (x ≠ .trigger)) with
      | .error k => .fault s (movpFault k c rs1)
      | .ok (u, p) =>
        let x := portSet s u cx.toNat
        if portUse u p = some .result ∧ x.busy ≠ 0 then .stall s .movpr
        else .done (setCtx s cx (writeReg c rd (smGet Cap.null x.vals p)))) s

/-! ### Key slots (R324, R325) -/

def slotAddr (n : Nat) : Nat := spadBase + 0x3E00000 + 128 * n

/-- Slot `n` over the island's private path: no gate, no translation (R331); and whether a codeword of it was
uncorrectable. -/
def slotReadBad (s : State) (n : Nat) : (List Byte × Bool) × State :=
  let a := slotAddr n
  let (d, s) := arrRead s (targetOf a) a 128 0
  ((d.bytes, d.poison.any id), s)

/-- The bytes of slot `n`. -/
def slotRead (s : State) (n : Nat) : List Byte × State :=
  let (x, s) := slotReadBad s n
  (x.1, s)

/-- Slot `n` written as one update. -/
def slotWrite (s : State) (n : Nat) (b : List Byte) : State :=
  let a := slotAddr n
  arrWrite s (targetOf a) a b [] []

/-- KEY, NKEY, and whether the slot is VALID with this KIND. -/
def slotKey (b : List Byte) : List Byte := b.take 32
def slotNkey (b : List Byte) : List Byte := (b.drop 32).take 32
def slotAttr (b : List Byte) : Word := wd (leAt b 64 8)
def slotIs (b : List Byte) (kind : Nat) : Bool := bitAt (slotAttr b) 63 && decide (fld (slotAttr b) 55 48 = kind)

/-- The bytes of a slot. -/
def slotBytes (key nkey : List Byte) (kind tenant : Nat) : List Byte :=
  sliceZ (sliceZ key 0 32 ++ sliceZ nkey 0 32 ++ leBytes 8 (2 ^ 63 + kind * 2 ^ 48 + tenant * 2 ^ 32)) 0 128

/-! ### The seal unit -/

/-- The authority of SEAL or UNSEAL (R23, R32). -/
def sealAuth (a : Cap) (right : Nat) : Bool := (capCheck a [right] true false (capCursor a) 1).isNone

/-- SEAL (R32). -/
def execSeal (s : State) : Out :=
  islRow 0 1 (fun s o =>
    let c := opVal o 0
    let a := opVal o 1
    let t := capCursor a
    if zeroBad o 15 12 || zeroBad o 63 32 then islFinish s 0 o 0x17 []
    else if !c.tag then islFinish s 0 o 0x10 []
    else if capOtype c ≠ 0 then islFinish s 0 o 0x11 []
    else if !sealAuth a rSeal || decide (t = 0) || decide (15 < t) then islFinish s 0 o 0x13 []
    else islFinish s 0 o 0 [(0x20, capSetOtype c t)]) s

/-- UNSEAL (R32). -/
def execUnseal (s : State) : Out :=
  islRow 0 2 (fun s o =>
    let c := opVal o 0
    let a := opVal o 1
    if zeroBad o 15 12 || zeroBad o 63 32 then islFinish s 0 o 0x17 []
    else if !c.tag then islFinish s 0 o 0x10 []
    else if capOtype c = 0 then islFinish s 0 o 0x12 []
    else if !sealAuth a rUnseal || decide (capCursor a ≠ capOtype c) then islFinish s 0 o 0x13 []
    else islFinish s 0 o 0 [(0x20, capSetOtype c 0)]) s

/-- RECOLOUR (R34). -/
def execRecolour (s : State) : Out :=
  islRow 0 3 (fun s o =>
    if zeroBad o 15 12 || zeroBad o 63 32 then islFinish s 0 o 0x17 []
    else islFinish s 0 o 0 [(0x20, capSet (opVal o 0) 71 68 (fld (opWord o) 11 8))]) s

/-! ### Tenant entries (R38) -/

def entryAddr (t : Nat) : Nat := spadBase + 0x3E80000 + 8 * t

/-- Tenant entry `t` read through G5 as class 14; none where the read fails. -/
def entryRead (s : State) (t : Nat) : Option Word × State :=
  match memTxn s (entryAddr t) 8 .read 14 0 0 0 with
  | (.ok d, s) => (if d.poison.any id then none else some (wd (leNat d.bytes)), s)
  | (_, s) => (none, s)

/-- Tenant entry `t` written; false where the write fails. -/
def entryWrite (s : State) (t : Nat) (v : Word) : Bool × State :=
  match memTxn s (entryAddr t) 8 (.write (leBytes 8 v.toNat) [] []) 14 0 0 0 with
  | (.ok _, s) => (true, s)
  | (_, s) => (false, s)

/-- The MAC of R37: the first eight bytes of the CMAC of writ bytes 0 to 23. -/
def writMac (key body : List Byte) : List Byte := (cmac key body).take 8

/-- The verdict of R39 on the 32 bytes of a writ. -/
def writVerdict (s : State) (w : List Byte) : Nat × State :=
  let (e, s) := entryRead s (leAt w 16 2)
  match e with
  | none => (5, s)
  | some e =>
    if !bitAt e 63 then (1, s)
    else
      let (k, s) := slotRead s (fld e 59 48)
      if !slotIs k 2 || decide (writMac (slotKey k) (w.take 24) ≠ w.drop 24) then (2, s)
      else if leAt w 18 6 ≠ fld e 47 0 then (3, s)
      else if !writImageOk { bits := BitVec.ofNat 128 (leAt w 0 16), tag := true } then (4, s)
      else (0, s)

/-- An aperture takes the verdict of its check (R364). -/
def apVerdict (s : State) (o : IslOp) (v : Nat) (c : Cap) (tenant : Nat) : State :=
  match o.src with
  | .aperture h a =>
    let x := apAt s h a
    if v = 0 then setAp s h a { x with state := 2, verdict := 0, cap := c, tenant := BitVec.ofNat 16 tenant }
    else setAp s h a { x with state := 0, verdict := v }
  | _ => s

/-- WCHECK (R39, R364): its code is the verdict, whatever the rest of its trigger (R336). -/
def execWcheck (s : State) : Out :=
  islRow 0 4 (fun s o =>
      let w := capBytes (opVal o 0) ++ capBytes (opVal o 1)
      let (v, s) := writVerdict s w
      let c : Cap := { bits := (opVal o 0).bits, tag := decide (v = 0) }
      islFinish (apVerdict s o v c (leAt w 16 2)) 0 o v [(0x20, c)]) s

/-- The tenant number of a trigger. -/
def opTenant (o : IslOp) : Nat := fld (opWord o) 31 16

/-- WMAKE (R40). -/
def execWmake (s : State) : Out :=
  islRow 0 5 (fun s o =>
    let c := opVal o 0
    if zeroBad o 15 12 || zeroBad o 63 32 then islFinish s 0 o 0x17 []
    else if !c.tag then islFinish s 0 o 0x10 []
    else if capOtype c ≠ 0 then islFinish s 0 o 0x11 []
    else if capHas c rCustody || capHas c rSeal || capHas c rUnseal then islFinish s 0 o 0x15 []
    else
      let (e, s) := entryRead s (opTenant o)
      match e with
      | none => islFinish s 0 o 0x1A []
      | some e =>
        if !bitAt e 63 then islFinish s 0 o 0x14 []
        else
          let (k, s) := slotRead s (fld e 59 48)
          if !slotIs k 2 then islFinish s 0 o 0x18 []
          else
            let body := capBytes c ++ leBytes 2 (opTenant o) ++ leBytes 6 (fld e 47 0)
            let hi := leNat (body.drop 16 ++ writMac (slotKey k) body)
            islFinish s 0 o 0 [(0x20, { c with tag := false }), (0x21, { bits := BitVec.ofNat 128 hi, tag := false })]) s

/-- Every aperture open for a tenant closes (R366). -/
def closeTenant (s : State) (t : Nat) : State :=
  let is (x : Aperture) : Bool := decide (x.state = 2) && decide (x.tenant.toNat = t)
  closeAps (closeAps s 0 2 is) 1 2 is

/-- EPOCH (R41, R366). -/
def execEpoch (s : State) : Out :=
  islRow 0 6 (fun s o =>
    if zeroBad o 15 12 || zeroBad o 63 32 then islFinish s 0 o 0x17 []
    else
      let s := closeTenant s (opTenant o)
      let (e, s) := entryRead s (opTenant o)
      match e with
      | none => islFinish s 0 o 0x1A []
      | some e =>
        if !bitAt e 63 then islFinish s 0 o 0x14 []
        else if fld e 47 0 = 2 ^ 48 - 1 then islFinish s 0 o 0x16 []
        else
          let (ok, s) := entryWrite s (opTenant o) (e + 1)
          if ok then islFinish s 0 o 0 [(0x20, intCap (wd (fld e 47 0 + 1)))] else islFinish s 0 o 0x1A []) s

/-- TENANT (R38): the RES0 bits of the entry are kept zero. -/
def execTenant (s : State) : Out :=
  islRow 0 7 (fun s o =>
    let e := setFld (capWord (opVal o 0)) 62 60 0
    if zeroBad o 15 12 || zeroBad o 63 32 then islFinish s 0 o 0x17 []
    else
      let (k, s) := slotRead s (fld e 59 48)
      if bitAt e 63 && !slotIs k 2 then islFinish s 0 o 0x18 []
      else
        let (ok, s) := entryWrite s (opTenant o) e
        islFinish s 0 o (if ok then 0 else 0x1A) []) s

/-- TREAD (R38). -/
def execTread (s : State) : Out :=
  islRow 0 8 (fun s o =>
    if zeroBad o 15 12 || zeroBad o 63 32 then islFinish s 0 o 0x17 []
    else
      let (e, s) := entryRead s (opTenant o)
      match e with
      | none => islFinish s 0 o 0x1A []
      | some e => islFinish s 0 o 0 [(0x20, intCap e)]) s

/-! ### The key ladder (R333, R334) -/

def kSlot (o : IslOp) : Nat := fld (opWord o) 19 8
def kWslot (o : IslOp) : Nat := fld (opWord o) 31 20
def kKind (o : IslOp) : Nat := fld (opWord o) 39 32
def kTenant (o : IslOp) : Nat := fld (opWord o) 55 40

/-- A root, where the life-cycle state lets it be used (R341). -/
def rootKey (s : State) (otk : Bool) : Option (List Byte) :=
  if (s.life.state ≠ 1 ∧ s.life.state ≠ 2) ∨ s.life.noRoot = true then none
  else if otk then (if Config.otkFused then some (beBytes 32 Config.rootOtk.toNat) else none)
  else some (beBytes 32 Config.rootDr.toNat)

/-- The derivation of R333. -/
def derivedKey (root : List Byte) (label context : List Byte) : List Byte :=
  hmacSha256 root ([0, 0, 0, 1] ++ label ++ [0] ++ context ++ [0, 0, 1, 0])

/-- DERIVE. -/
def execDerive (s : State) : Out :=
  islRow 2 1 (fun s o =>
    if zeroBad o 63 57 || (decide (kKind o ≠ 2) && decide (kKind o ≠ 3)) then islFinish s 2 o 0x10 []
    else match rootKey s (bitAt (opWord o) 56) with
      | none => islFinish s 2 o 0x12 []
      | some r =>
        let label := leBytes 8 (capCursor (opVal o 0)) ++ leBytes 1 (kKind o) ++ leBytes 2 (kTenant o)
        let k := derivedKey r label (capBytes (opVal o 1))
        islFinish (slotWrite s (kSlot o) (slotBytes k [] (kKind o) (kTenant o))) 2 o 0 []) s

/-- The blob read line by line as class 14 and colour 0: its bytes, or whether poison was met, or none for an error
response or a window read still outstanding. -/
def blobRead (s : State) : List (Nat × Nat) → Option (List Byte × Bool) × State
  | [] => (some ([], false), s)
  | (a, n) :: ps =>
    match fabricTxn s a n .read 14 0 0 0 with
    | (.ok d, s) =>
      let (r, s) := blobRead s ps
      (r.map fun x => (d.bytes ++ x.1, d.poison.any id || x.2), s)
    | (_, s) => (none, s)

/-- A read of the blob waits for a window's answer (R369). -/
def blobPending (s : State) (ps : List (Nat × Nat)) : Bool × State :=
  ps.foldl (fun (a : Bool × State) p =>
    let (b, s) := readReady a.2 p.1 p.2 14 0 0 none
    (a.1 || !b, s)) (false, s)

/-- UNWRAP: an error response to the blob read has no code in R334, so the code is then a free one that is not OK. -/
def execUnwrap (s : State) : Out :=
  islRow 2 2 (fun s o =>
    if zeroBad o 63 57 || (decide (kKind o ≠ 1) && decide (kKind o ≠ 2)) then islFinish s 2 o 0x10 []
    else
      let (w, s) := slotRead s (kWslot o)
      if !slotIs w 3 then islFinish s 2 o 0x11 []
      else
        let c := opVal o 2
        let n := if kKind o = 1 then 72 else 40
        if (capCheck c [rLoad] true false (capCursor c) n).isSome then islFinish s 2 o 0x13 []
        else
          let ps := linesOf (capCursor c) n
          let (wait, s) := blobPending s ps
          if wait then s
          else match blobRead s ps with
            | (none, s) =>
              let (i, s) := freeNat s
              islFinish s 2 o (1 + (Config.freeWord i).toNat % 255) []
            | (some (_, true), s) => islFinish s 2 o 0x15 []
            | (some (b, false), s) =>
              match kwUnwrap (slotKey w) b with
              | none => islFinish s 2 o 0x14 []
              | some k => islFinish (slotWrite s (kSlot o) (slotBytes (k.take 32) (k.drop 32) (kKind o) (kTenant o))) 2 o 0 []) s

/-- CLEAR. -/
def execClearKey (s : State) : Out :=
  islRow 2 3 (fun s o =>
    if zeroBad o 63 57 then islFinish s 2 o 0x10 []
    else islFinish (slotWrite s (kSlot o) (List.replicate 128 0)) 2 o 0 []) s

/-- ATTR. -/
def execAttr (s : State) : Out :=
  islRow 2 4 (fun s o =>
    if zeroBad o 63 57 then islFinish s 2 o 0x10 []
    else
      let (b, s) := slotRead s (kSlot o)
      islFinish s 2 o 0 [(0x20, intCap (slotAttr b))]) s

/-! ### The digest unit (R425, R426) -/

def setMeas (s : State) (i : Nat) (b : List Byte) : State :=
  { s with island := { s.island with meas := smSet 0 s.island.meas i (BitVec.ofNat 384 (beNat b)) } }

/-- M = SHA-384(M ‖ v) (R340). -/
def extendMeas (s : State) (i : Nat) (v : List Byte) : State := setMeas s i (sha384 (measAt s i ++ v))

/-- REG of a trigger. -/
def opReg (o : IslOp) : Nat := fld (opWord o) 9 8

/-- EXTEND. -/
def execExtend (s : State) : Out :=
  islRow 1 1 (fun s o =>
    if zeroBad o 63 10 then islFinish s 1 o 0x10 []
    else if opReg o < 2 ∧ rbit s (pg .sys + 0x108) 8 = true then islFinish s 1 o 0x11 []
    else
      let v := capBytes (opVal o 0) ++ capBytes (opVal o 1) ++ capBytes (opVal o 2)
      islFinish (extendMeas s (opReg o) v) 1 o 0 []) s

/-- 48 or fewer bytes as the values of three ports. -/
def threePorts (b : List Byte) : SMap Cap :=
  (List.range 3).map fun i => (0x20 + i, { bits := BitVec.ofNat 128 (leAt b (16 * i) 16), tag := false })

/-- READM. -/
def execReadm (s : State) : Out :=
  islRow 1 3 (fun s o =>
    if zeroBad o 63 10 then islFinish s 1 o 0x10 []
    else islFinish s 1 o 0 (threePorts (measAt s (opReg o)))) s

/-- The device digest of R426 that a FOLD gives, from its snapshot. -/
def deviceDigest (s : State) (o : IslOp) : List Byte := sha256 (o.snap.getD (foldBytes s))

/-- FOLD. -/
def execFold (s : State) : Out :=
  islRow 1 2 (fun s o =>
    let n := capWord (opVal o 0)
    let mer := pg .mer
    if zeroBad o 63 10 then islFinish s 1 o 0x10 []
    else if n.toNat ≤ (rget s (mer + 0x120)).toNat then islFinish s 1 o 0x12 []
    else
      let d := deviceDigest s o
      let s := (List.range 4).foldl (fun s k => rset s (mer + 0x100 + 8 * k) (wd (leAt d (8 * k) 8))) s
      let s := rset s (mer + 0x120) n
      intSet (islFinish s 1 o 0 (threePorts (d ++ leBytes 16 n.toNat))) .mer 0 0) s

/-! ### Image key, wipes and life cycle (R337, R341 to R343) -/

/-- Contexts that wait for the image key go on. -/
def wakeImage (s : State) : State :=
  s.ctxs.foldl (fun s p => wakeIf s (BitVec.ofNat 11 p.1) .imageKey) s

/-- IMAGE_KEY_READY: the key drawn at the last reset of the island can be used. -/
def execImageKeyReady (s : State) : Out :=
  if !domOn s 2 || rbit s (pg .seal + 0x100) 0 then .next s
  else .next (wakeImage (rsetB s (pg .seal + 0x100) 0 true))

/-- TRANSITION_COMPLETE (R343): the fuses read back, once the wipe has ended. -/
def execTransitionComplete (s : State) : Out :=
  let off := pg .lct + 0x100
  if !rbit s off 8 || rbit s (pg .lct + 0x118) 8 then .next s
  else
    let t := s.life.target
    let s := { s with life := { s.life with state := t } }
    let s := rsetF (rsetF (rsetB s off 8 false) off 6 4 0) off 2 0 t
    .next (intSet s .lct 0 2)

/-- TAMPER_PIN: TAMPER_N held low. -/
def execTamperPin (s : State) : Out := .next (tamperCause s 0)

/-- REFCLK_OUT_OF_RANGE: in NADIR, where D0 runs on REFCLK, it has stopped and TB with it (R466, log 94). -/
def execRefclkOutOfRange (s : State) : Out :=
  .next (tamperCause (if s.power.nadir then { s with power := { s.power with refStop := true } } else s) 1)

/-- COLD_TAMPER: a cause while TCFG.COLD is 1. -/
def execColdTamper (s : State) : Out :=
  if rbit s (pg .lct + 0x110) 0 then .next (tamperCause s 2) else .next s

/-- WIPE_COMPLETE: the wipe ends, and queued operations may run. -/
def execWipeComplete (s : State) : Out := .next (islSweep (islSweep (wipeEnd s) 0) 2)

end Sys2Proof.Machine
end

