-- ==== Sys2Proof/Machine/Cipher.lean ====
section
/-! DEFINITION. The Cipher (R326 to R331): handles, records, and its two operations. -/

namespace Sys2Proof.Machine
open Sys2Proof

/-- L and A of PARAM0, and F[0] to F[15]. -/
def cphL (d : RData) : Nat := fld (edParam d 0) 31 0
def cphA (d : RData) : Nat := fld (edParam d 0) 40 32
def cphF (d : RData) : List Byte := leBytes 8 (edParam d 1).toNat ++ leBytes 8 (edParam d 2).toNat

/-- The form of both operations, with the lengths of IN0 and OUT0 (R327, R330). IN1 defines no extent. -/
def cphForm (d : RData) (inN outN : Nat) : EngForm :=
  { slots := [0, 1, 2], params := [0, 1, 2], exts := [inSlot d 0 inN, outSlot d 2 outN]
    own := if slotMissing d [0, 1, 2] then 16 else if edFlags d ≠ 0 then 17
      else if cphL d = 0 ∨ 4194324 < cphL d ∨ 256 < cphA d ∨ fld (edParam d 0) 63 41 ≠ 0 then 18 else 0 }

/-- The test of a handle on the capability alone: EDETAIL of BAD_HANDLE, 0 for none (R326). -/
def handleWhy (h : Cap) : Nat :=
  if !h.tag then 1
  else if capOtype h ≠ 14 then 2
  else if !capHas h rCustody then 3
  else if capCursor h < capBase h ∨ capTop h ≤ capCursor h ∨ 4095 < capCursor h then 4
  else 0

/-- The whole test, with the slot as it was read at acceptance (R328, R331). -/
def handleBad (h : Cap) (slot : List Byte) : Nat :=
  if handleWhy h ≠ 0 then handleWhy h
  else if !bitAt (slotAttr slot) 63 then 5
  else if !slotIs slot 1 then 6
  else 0

/-- The slot that a descriptor takes with it when it is accepted: over the private path, for a handle that names one. -/
def handleSlot (s : State) (d : RData) : (List Byte × Bool) × State :=
  if handleWhy (edSlot d 1) = 0 then slotReadBad s (capCursor (edSlot d 1)) else (([], false), s)

/-- The nonce of R328. -/
def cphNonce (slot f : List Byte) : List Byte := (aesBlock (roundKeys (slotNkey slot)) f).take 12

/-- A descriptor that a wipe met ends with WIPED and OUT0 zero over its whole extent (R330, R331); where its tests fail,
nothing may be written (R236, R237), and where a write fails, that ends it (assumption log 77). -/
def cphWiped (s : State) (r i : Nat) (d : EngDesc) (f : EngForm) (outN : Nat) : State :=
  let status := engStatus 0 0 0 0x12
  let zeros := engOut d.raw 2 (List.replicate outN 0)
  if engReject s .cph r d.raw f ≠ 0 ∨ (engCapFault f.exts).isSome = true then engFin s .cph r i status 0 none none
  else match (engPages (ringReq s .cph r) f.exts s).1 with
    | some (.xlat _ _) => engFin s .cph r i status 0 none none
    | _ => engWrite s .cph r i [zeros] status 0

/-- Both operations: the wipe, the checks, the handle and its slot, and then `act` on the bytes of IN0. A key slot with an
uncorrectable codeword gives POISON, on the side that names it (R250). -/
def cphRun (s : State) (r i : Nat) (d : EngDesc) (inN outN : Nat) (act : List Byte → List Byte → State → State) : State :=
  let f := cphForm d.raw inN outN
  if d.wiped then cphWiped (engIssued s .cph r i true) r i d f outN
  else engRun s .cph r i d f fun s =>
      let why := handleBad (edSlot d.raw 1) d.aux
      if handleWhy (edSlot d.raw 1) = 0 ∧ d.auxBad = true then engEnd (engIssued s .cph r i false) .cph r i 4 1 0
      else if why ≠ 0 then engFin s .cph r i (engStatus why 0 0 0x11) 0 none none
      else engRead s .cph r i [inSlot d.raw 0 inN] fun b s => act (b 0) (cphNonce d.aux (cphF d.raw)) s

/-- ENCRYPT (R327, R328). -/
def execEncrypt (r : BitVec 4) (i : Nat) (s : State) : Out :=
  engRow .cph 1 r i (fun d s =>
    let l := cphL d.raw
    let a := cphA d.raw
    cphRun s r.toNat i d (a + l) (a + l + 16) fun b nonce s =>
      let (c, t) := gcmEncrypt (slotKey d.aux) nonce (b.take a) (b.drop a)
      engOk s .cph r.toNat i [engOut d.raw 2 (b.take a ++ c ++ t)] (a + l + 16)) s

/-- DECRYPT (R327, R328, R330). -/
def execDecrypt (r : BitVec 4) (i : Nat) (s : State) : Out :=
  engRow .cph 2 r i (fun d s =>
    let l := cphL d.raw
    let a := cphA d.raw
    cphRun s r.toNat i d (a + l + 16) l fun b nonce s =>
      match gcmDecrypt (slotKey d.aux) nonce (b.take a) ((b.drop a).take l) (b.drop (a + l)) with
      | some p => engOk s .cph r.toNat i [engOut d.raw 2 p] l
      | none => engWrite s .cph r.toNat i [engOut d.raw 2 (List.replicate l 0)] (engStatus 0 0 0 0x10) 0) s

end Sys2Proof.Machine
end

