-- ==== Sys2Proof/Machine/Coder.lean ====
section
/-! DEFINITION. The Coder (R307 to R323): field arithmetic, programs and their checks, and its operations. -/

namespace Sys2Proof.Machine
open Sys2Proof

/-! ### Fields (R307, R308) -/

/-- Element width and reduction polynomial of FIELD. -/
def cfW (f : Nat) : Nat := if f = 0 then 8 else 16
def cfPoly (f : Nat) : Nat := if f = 0 then 0x11D else 0x1100B
/-- Bytes of an element. -/
def cfEs (f : Nat) : Nat := cfW f / 8

/-- The loop of gmul(), over the bits of `b` from `n` steps before the end. -/
def cfMulN (f : Nat) : Nat → Nat → Nat → Nat
  | 0, _, _ => 0
  | n + 1, a, b =>
    let a2 := 2 * a
    (if b % 2 = 1 then a else 0) ^^^ cfMulN f n (if a2.testBit (cfW f) then a2 ^^^ cfPoly f else a2) (b / 2)

/-- gmul(). -/
def cfMul (f a b : Nat) : Nat := cfMulN f (cfW f) a b

/-- a^(2^w − 2) as the product of a^2, a^4, … : `n` factors from the square of `a` on. -/
def cfInvN (f : Nat) : Nat → Nat → Nat
  | 0, _ => 1
  | n + 1, a =>
    let a2 := cfMul f a a
    cfMul f a2 (cfInvN f n a2)

/-- ginv(). -/
def cfInv (f a : Nat) : Nat := cfInvN f (cfW f - 1) a

/-- The elements of a vector, and back. -/
def cfElems (f : Nat) (b : List Byte) : List Nat := (List.range (b.length / cfEs f)).map fun e => leAt b (e * cfEs f) (cfEs f)
def cfBytes (f : Nat) (es : List Nat) : List Byte := es.flatMap (leBytes (cfEs f))

/-- vmac() of R308. -/
def vmac (f : Nat) (acc : List Byte) (c : Nat) (d : List Byte) : List Byte :=
  cfBytes f (((cfElems f acc).zip (cfElems f d)).map fun p => p.1 ^^^ cfMul f c p.2)

def vecZero : List Byte := List.replicate 128 0
def vecXor (a b : List Byte) : List Byte := (a.zip b).map fun p => p.1 ^^^ p.2

/-! ### Programs (R310, R311) -/

/-- A word of program memory. -/
def progWord (s : State) (k : Nat) : Nat := (smGet 0 s.prog k).toNat

/-- A program with the values of its operand words: BASE, S1, C1, S2 of each walker. -/
structure CodProg where
  field : Nat
  areas : List Nat
  walks : List (Int × Int × Int × Int)
  code  : List Nat
  v     : List Nat
  deriving DecidableEq, Repr

/-- The value of an operand word. -/
def operandOf (v : List Nat) (x : Nat) : Int := if x.testBit 31 then (v.getD (x % 4) 0 : Nat) else signed 31 (x % 2 ^ 31)

/-- The count of a LOOP (R313). -/
def loopCount (v : List Nat) (x : Nat) : Nat := if x.testBit 27 then v.getD (x % 4) 0 else x % 2 ^ 24

/-- The program at ENTRY, if it passes the first check of R315. -/
def progLoad (s : State) (entry : Nat) (v : List Nat) : Option CodProg :=
  let w := fun k => progWord s (entry + k)
  let len := w 1 % 2 ^ 16
  let ops := (List.range 32).map fun k => w (4 + k)
  if w 1 / 2 ^ 24 ≠ 1 ∨ nfld (w 1) 22 16 ≠ 0 ∨ w 2 / 2 ^ 16 ≠ 0 ∨ w 3 ≠ 0 ∨
      (ops.any fun x => x.testBit 31 && decide (nfld x 30 2 ≠ 0)) = true ∨ len = 0 ∨ 16384 < entry + 36 + len then none
  else some
    { field := nfld (w 1) 23 23
      areas := (List.range 8).map fun k => w 2 / 4 ^ k % 4
      walks := (List.range 8).map fun k =>
        let o := fun j => operandOf v (ops.getD (4 * k + j) 0)
        (o 0, o 1, o 2, o 3)
      code := (List.range len).map fun k => w (36 + k)
      v := v }

/-- The fields of a code word (R313). -/
def insOp (x : Nat) : Nat := nfld x 31 28
def insA (x : Nat) : Nat := nfld x 27 24
def insN (x : Nat) : Nat := nfld x 23 20 + 1
def insW (x : Nat) : Nat := nfld x 19 17
def insK (x : Nat) : Nat := nfld x 16 14

/-- The bits of a code word that R313 fixes at zero. -/
def insZeros (x : Nat) : Nat :=
  match insOp x with
  | 1 => nfld x 19 0
  | 2 => nfld x 15 0
  | 3 => nfld x 16 0
  | 4 => nfld x 13 0
  | 5 => if x.testBit 27 then nfld x 26 2 else nfld x 26 24
  | _ => nfld x 27 0

/-- A walker is in use and its area is an input or an output as `out` says. -/
def walkerOk (p : CodProg) (w : Nat) (out : Bool) : Bool :=
  decide ((p.walks.getD w (0, 0, 0, 0)).2.2.1 ≠ 0) && (decide (2 ≤ p.areas.getD w 0) == out)

/-- The walkers of a code word, with whether each must name an output. -/
def insWalkers (x : Nat) : List (Nat × Bool) :=
  match insOp x with
  | 2 => [(insW x, false)]
  | 3 => [(insW x, true)]
  | 4 => [(insW x, false), (insK x, false)]
  | _ => []

/-- WHY of the first condition that a code word breaks under `d` open loops, and its walker; 0 for none (R315). -/
def insWhy (p : CodProg) (d x : Nat) : Nat × Nat :=
  let op := insOp x
  if op = 0 ∨ 6 < op ∨ insZeros x ≠ 0 then (2, 0)
  else if (op = 6 ∧ d = 0) ∨ (op = 5 ∧ d = 4) then (3, 0)
  else if op < 5 ∧ 16 < insA x + insN x then (4, 0)
  else match (insWalkers x).find? fun w => !walkerOk p w.1 w.2 with
    | some w => (5, w.1)
    | none =>
      if op = 4 ∧ insW x = insK x then (5, insW x)
      else if op = 5 ∧ loopCount p.v x = 0 then (6, 0)
      else (0, 0)

/-- The second check of R315: pc, WHY and walker of the first bad code word. -/
def codeCheck (p : CodProg) : Nat → Nat → List Nat → Option (Nat × Nat × Nat)
  | pc, d, [] => if d = 0 then none else some (pc, 3, 0)
  | pc, d, x :: xs =>
    let (why, w) := insWhy p d x
    if why ≠ 0 then some (pc, why, w)
    else codeCheck p (pc + 1) (if insOp x = 5 then d + 1 else if insOp x = 6 then d - 1 else d) xs

/-- Vectors read and written, and code words executed; `ms` holds how often the code at each open depth runs. -/
def codeCount (p : CodProg) : List Nat → List Nat → Nat × Nat
  | _, [] => (0, 0)
  | ms, x :: xs =>
    let m := ms.headD 1
    let (a, b) := codeCount p
      (if insOp x = 5 then m * loopCount p.v x :: ms else if insOp x = 6 then ms.drop 1 else ms) xs
    let n := match insOp x with
      | 2 | 3 => insN x
      | 4 => 1
      | _ => 0
    (a + m * n, b + m)

/-! ### Execution (R312, R314) -/

/-- An executed code word with the accesses of its walkers: walker, offset, bytes. -/
structure CodAct where
  pc  : Nat
  ins : Nat
  acc : List (Nat × Int × Nat)
  deriving DecidableEq, Repr

/-- Control of a RUN: pc, loop stack (start, left), uses of each walker, and what was executed, newest first. -/
structure CodCtl where
  pc    : Nat
  stack : List (Nat × Nat)
  uses  : List Nat
  acts  : List CodAct

/-- The offset of use `i` of a walker (R312); division truncates (R8). -/
def walkerOff (p : CodProg) (w i : Nat) : Int :=
  let (base, s1, c1, s2) := p.walks.getD w (0, 0, 0, 0)
  base + (i : Int).tmod c1 * s1 + (i : Int).tdiv c1 * s2

/-- next(w), `n` times. -/
def walkerNext (p : CodProg) (w bytes : Nat) : Nat → List Nat → List (Nat × Int × Nat) × List Nat
  | 0, us => ([], us)
  | n + 1, us =>
    let i := us.getD w 0
    let (l, us) := walkerNext p w bytes n (us.set w (i + 1))
    ((w, walkerOff p w i, bytes) :: l, us)

/-- One code word. -/
def codStep (p : CodProg) (c : CodCtl) : CodCtl :=
  let x := p.code.getD c.pc 0
  let next := { c with pc := c.pc + 1 }
  let act := fun (a : List (Nat × Int × Nat) × List Nat) =>
    { next with uses := a.2, acts := { pc := c.pc, ins := x, acc := a.1 } :: c.acts }
  match insOp x with
  | 5 => { next with stack := (c.pc + 1, loopCount p.v x) :: c.stack }
  | 6 =>
    match c.stack with
    | (st, left) :: rest => if left ≤ 1 then { next with stack := rest } else { c with pc := st, stack := (st, left - 1) :: rest }
    | [] => next
  | 2 | 3 => act (walkerNext p (insW x) 128 (insN x) c.uses)
  | 4 =>
    let (d, us) := walkerNext p (insW x) 128 1 c.uses
    let (k, us) := walkerNext p (insK x) (insN x * cfEs p.field) 1 us
    act (d ++ k, us)
  | _ => act ([], c.uses)

/-- The execution of a program of `n` steps. -/
def codTrace (p : CodProg) : Nat → CodCtl → CodCtl
  | 0, c => { c with acts := c.acts.reverse }
  | n + 1, c => codTrace p n (codStep p c)

/-- The fourth check of R315: pc and walker of the first use out of its area, by walker and then by use. -/
def walkRange (p : CodProg) (lens : List Nat) (acts : List CodAct) : Option (Nat × Nat) :=
  (List.range 8).findSome? fun w =>
    (acts.find? fun a => a.acc.any fun x =>
      decide (x.1 = w) && (decide (x.2.1 < 0) || decide ((lens.getD (p.areas.getD w 0) 0 : Int) < x.2.1 + x.2.2))).map
      fun a => (a.pc, w)

/-- The extent of an access. -/
def codSlot (d : RData) (p : CodProg) (x : Nat × Int × Nat) (out : Bool) : EngSlot :=
  let side := p.areas.getD x.1 0
  { side := side, ext := runOf (edSlot d side) (capCursor (edSlot d side) + x.2.1.toNat) x.2.2
    rights := [if out then rStore else rLoad], need := if out then needW else needR }

/-- A lane's data: accumulators, the bytes still to come from IN0 and IN1, and the vectors written, newest first. -/
structure CodLane where
  acc  : List (List Byte)
  ins  : List (List Byte)
  outs : List (EngSlot × List Byte)

/-- A read by a walker. -/
def laneRead (p : CodProg) (l : CodLane) (w n : Nat) : List Byte × CodLane :=
  let k := p.areas.getD w 0
  let b := l.ins.getD k []
  (b.take n, { l with ins := l.ins.set k (b.drop n) })

def accAt (l : CodLane) (a : Nat) : List Byte := l.acc.getD a vecZero
def setAcc (l : CodLane) (a : Nat) (v : List Byte) : CodLane := { l with acc := l.acc.set a v }

/-- What one executed code word does (R314). -/
def laneStep (d : RData) (p : CodProg) (l : CodLane) (a : CodAct) : CodLane :=
  let x := a.ins
  let regs := List.range (insN x)
  match insOp x with
  | 1 => regs.foldl (fun l j => setAcc l (insA x + j) vecZero) l
  | 2 => regs.foldl (fun l j =>
      let (v, l) := laneRead p l (insW x) 128
      setAcc l (insA x + j) (if x.testBit 16 then vecXor (accAt l (insA x + j)) v else v)) l
  | 3 => { l with outs := (((List.range a.acc.length).zip a.acc).map fun j => (codSlot d p j.2 true, accAt l (insA x + j.1))).reverse ++ l.outs }
  | 4 =>
    let (v, l) := laneRead p l (insW x) 128
    let (ks, l) := laneRead p l (insK x) (insN x * cfEs p.field)
    regs.foldl (fun l j => setAcc l (insA x + j) (vmac p.field (accAt l (insA x + j)) (leAt ks (j * cfEs p.field) (cfEs p.field)) v)) l
  | _ => l

/-! ### Operations (R317, R318) -/

def runLens (d : RData) : List Nat :=
  [fld (edParam d 1) 31 0, fld (edParam d 1) 63 32, fld (edParam d 2) 31 0, fld (edParam d 2) 63 32]
def runVals (d : RData) : List Nat :=
  [fld (edParam d 3) 31 0, fld (edParam d 3) 63 32, fld (edParam d 4) 31 0, fld (edParam d 4) 63 32]

def runForm (d : RData) : EngForm :=
  let n := fun i => (runLens d).getD i 0
  { slots := [0, 1, 2, 3], params := [0, 1, 2, 3, 4]
    exts := [inSlot d 0 (n 0), inSlot d 1 (n 1), outSlot d 2 (n 2), outSlot d 3 (n 3)]
    own := if slotMissing d [0, 2] || ([1, 3].any fun i => edNull d i && decide (n i ≠ 0)) then 16
      else if edFlags d ≠ 0 then 17
      else if fld (edParam d 0) 63 16 ≠ 0 then 20 else 0 }

def ploadForm (d : RData) : EngForm :=
  let l := fld (edParam d 1) 31 0
  { slots := [0], params := [0, 1], exts := [inSlot d 0 l]
    own := if slotMissing d [0] then 16 else if edFlags d ≠ 0 then 17
      else if l % 4 ≠ 0 ∨ l < 4 ∨ 65536 < l ∨ 65536 < fld (edParam d 0) 15 0 * 4 + l then 18
      else if fld (edParam d 0) 63 16 ≠ 0 ∨ fld (edParam d 1) 63 32 ≠ 0 then 20 else 0 }

def cauchyForm (d : RData) : EngForm :=
  let f := fld (edParam d 0) 0 0
  let k := fld (edParam d 1) 31 0
  let m := fld (edParam d 1) 63 32
  { slots := [2], params := [0, 1], exts := [outSlot d 2 (k * m * cfEs f)]
    own := if slotMissing d [2] then 16 else if edFlags d ≠ 0 then 17
      else if k = 0 ∨ m = 0 ∨ (if f = 0 then 48 else 2048) < m ∨ (if f = 0 then 240 else 4096) < k + m then 19
      else if fld (edParam d 0) 63 1 ≠ 0 then 20 else 0 }

/-- BAD_PROGRAM and WALK_RANGE: STATUS and RESULT only (R315). -/
def codEnd (s : State) (r i code why w pc : Nat) : State :=
  engFin s .cdr r i (engStatus (why * 2 ^ 20 + w * 2 ^ 16 + pc) 0 0 code) 0 none none

/-- The registers of a lane, and those with which a RUN starts (R314). -/
def LaneRegs.start : LaneRegs := { acc := List.replicate 16 vecZero, uses := List.replicate 8 0, stack := [] }
def laneRegs (s : State) (k : Nat) : LaneRegs := smGet LaneRegs.start s.codRegs k
def setLane (s : State) (k : Nat) (x : LaneRegs) : State := { s with codRegs := smSet LaneRegs.start s.codRegs k x }

/-- A RUN whose program has passed its checks, on lane `k`: it starts with the lane's registers cleared (R314). -/
def codRun (s : State) (r i k : Nat) (d : RData) (p : CodProg) (c : CodCtl) : State :=
  let reads := c.acts.flatMap fun a => if insOp a.ins = 3 then [] else a.acc.map fun x => codSlot d p x false
  engRead s .cdr r i reads fun b s =>
    let s := setLane s k LaneRegs.start
    let l := c.acts.foldl (laneStep d p) { acc := (laneRegs s k).acc, ins := [b 0, b 1], outs := [] }
    let s := setLane s k { acc := l.acc, uses := c.uses, stack := c.stack }
    engOk s .cdr r i l.outs.reverse l.outs.length

/-- The words of program memory that a RUN at ENTRY reads, header and code. -/
def progWords (s : State) (entry : Nat) : Nat := 36 + progWord s (entry + 1) % 2 ^ 16

/-- One of them has an uncorrectable codeword (R310). -/
def progPoison (s : State) (entry : Nat) : Bool :=
  s.progBad.any fun w => decide (entry ≤ w) && (decide (w < entry + 36) || decide (w < entry + progWords s entry))

/-- RUN (R311 to R316); it waits for every PLOAD accepted before it (R310). -/
def execRun (r : BitVec 4) (i : Nat) (s : State) : Out :=
  engRow .cdr 1 r i (fun d s =>
    engRun s .cdr r.toNat i d (runForm d.raw) fun s =>
      if progPoison s (fld (edParam d.raw 0) 15 0) then engEnd s .cdr r.toNat i 4 4 0
      else match progLoad s (fld (edParam d.raw 0) 15 0) (runVals d.raw) with
      | none => codEnd s r.toNat i 0x10 1 0 0
      | some p =>
        match codeCheck p 0 0 p.code with
        | some (pc, why, w) => codEnd s r.toNat i 0x10 why w pc
        | none =>
          let (vecs, steps) := codeCount p [1] p.code
          if 2 ^ 40 < vecs then codEnd s r.toNat i 0x10 7 0 0
          else
            let c := codTrace p steps { pc := 0, stack := [], uses := List.replicate 8 0, acts := [] }
            match walkRange p (runLens d.raw) c.acts with
            | some (pc, w) => codEnd s r.toNat i 0x11 0 w pc
            | none => codRun s r.toNat i (d.lane.getD 0) d.raw p c) s

/-- The words of a PLOAD go into program memory. -/
def ploadDo (s : State) (r i : Nat) (d : RData) : State :=
  let l := fld (edParam d 1) 31 0
  let wa := fld (edParam d 0) 15 0
  engRead s .cdr r i [inSlot d 0 l] fun b s =>
    let prog := (List.range (l / 4)).foldl (fun m k => smSet 0 m (wa + k) (BitVec.ofNat 32 (leAt (b 0) (4 * k) 4))) s.prog
    let bad := s.progBad.filter fun w => decide (w < wa) || decide (wa + l / 4 ≤ w)
    engOk { s with prog := prog, progBad := bad } .cdr r i [] (l / 4)

/-- PLOAD (R310), behind its ring's earlier descriptors, and held while a RUN or PLOAD accepted before it is open. -/
def execPload (r : BitVec 4) (i : Nat) (s : State) : Out :=
  heldRow .cdr 2 r i (fun _ d => ploadForm d) (fun d s => ploadDo s r.toNat i d.raw) s

/-- A held PLOAD proceeds. -/
def execPloadProceed (r : BitVec 4) (i : Nat) (s : State) : Out :=
  proceedRow .cdr 2 r i (fun d s => ploadDo s r.toNat i d.raw) s

/-- CAUCHY (R320). -/
def execCauchy (r : BitVec 4) (i : Nat) (s : State) : Out :=
  engRow .cdr 3 r i (fun d s =>
    engRun s .cdr r.toNat i d (cauchyForm d.raw) fun s =>
      let f := fld (edParam d.raw 0) 0 0
      let k := fld (edParam d.raw 1) 31 0
      let m := fld (edParam d.raw 1) 63 32
      let b := (List.range k).flatMap fun c => (List.range m).flatMap fun j => leBytes (cfEs f) (cfInv f ((k + j) ^^^ c))
      engOk s .cdr r.toNat i [engOut d.raw 2 b] (k * m)) s

end Sys2Proof.Machine
end

