-- ==== Sys2Proof/Machine/Df1.lean ====
section
/-! DEFINITION. Deep format DF1 (R292 to R304): tables, model, arithmetic coder, frames. Model tables are sparse: an entry
that is not listed holds its reset value of R297. -/

namespace Sys2Proof.Machine
open Sys2Proof

/-! ### Tables (R294 to R296) -/

def squashT : List Nat :=
  [1, 2, 3, 6, 10, 16, 27, 45, 73, 120, 194, 310, 488, 747, 1101, 1546, 2047, 2549, 2994, 3348, 3607, 3785, 3901, 3975,
    4022, 4050, 4068, 4079, 4085, 4089, 4092, 4093, 4094]

def squash (d : Int) : Nat :=
  let q := (max (-2047) (min 2047 d) + 2048).toNat
  let j := q / 128
  let f := q % 128
  (squashT.getD j 0 * (128 - f) + squashT.getD (j + 1) 0 * f + 64) / 128

/-- The least d of [lo, lo + 2^fuel − 1] with squash d ≥ p, if the last one is. -/
def stretchFrom (p : Nat) : Nat → Int → Int
  | 0, lo => lo
  | n + 1, lo => if p ≤ squash (lo + 2 ^ n - 1) then stretchFrom p n lo else stretchFrom p n (lo + 2 ^ n)

/-- st[p] of R295: the first d whose squash reaches p, and 2,047 where none does; squash never falls. -/
def stretch (p : Nat) : Int := if 4094 < p then 2047 else stretchFrom p 12 (-2047)

def countRate : List Nat := [1, 2, 2, 3, 3, 3, 3, 4, 4, 4, 4, 4, 5, 5, 5, 5]

/-- A counter updated with bit `y` (R296). -/
def countUp (c : Nat) (y : Bool) : Nat :=
  let p : Int := c / 16
  let n := c % 16
  let p := p + ((if y then 4095 else 0) - p) / 2 ^ countRate.getD n 5
  p.toNat * 16 + Nat.min 15 (n + 1)

/-! ### Model (R297) -/

structure Df where
  o1  : SMap Nat
  o2  : SMap Nat
  o4  : SMap Nat
  a   : SMap Int
  mt  : SMap Nat
  w   : SMap Int
  mc  : SMap Nat
  c0  : Nat
  bp  : Nat
  c4  : Nat
  h6  : Nat
  b4  : Nat
  len : Nat
  ptr : Nat
  e   : Nat
  u   : Array Byte

def Df.reset : Df :=
  { o1 := [], o2 := [], o4 := [], a := [], mt := [], w := [], mc := [], c0 := 1, bp := 0, c4 := 0, h6 := 0, b4 := 0,
    len := 0, ptr := 0, e := 0, u := #[] }

def dfCount (m : SMap Nat) (k : Nat) : Nat := smGet 0x8000 m k
def dfMap (d : Df) (c j : Nat) : Int := (smFind d.a (c * 17 + j)).getD (squash (256 * (j : Int) - 2048))
def dfW (d : Df) (s k : Nat) : Int := (smFind d.w (s * 5 + k)).getD (if k < 4 then 16384 else 0)

/-- The temporaries of R298. -/
structure DfTmp where
  n1  : Nat
  n2  : Nat
  n4  : Nat
  x   : List Int
  eb  : Bool
  lb  : Nat
  sel : Nat
  pm  : Nat
  j   : Nat
  f   : Nat
  pf  : Nat

/-- predict() of R298. -/
def dfPredict (d : Df) : DfTmp :=
  let c1 := d.c4 % 256
  let c2 := d.c4 / 256 % 256
  let n1 := c1 * 256 + d.c0
  let n2 := (c2 / 32 * 8 + c1 / 32) * 256 + d.c0
  let n4 := (d.b4 ^^^ (d.c0 * 37)) % 8192
  let eb := (d.e / 2 ^ (7 - d.bp)) % 2 = 1
  let lb := Nat.min d.len 15
  let s := stretch (dfCount d.mc lb / 16)
  let x : List Int := [stretch (dfCount d.o1 n1 / 16), stretch (dfCount d.o2 n2 / 16), stretch (dfCount d.o4 n4 / 16),
    if d.len = 0 then 0 else if eb then s else -s, 256]
  let ms := if d.len = 0 then 0 else if d.len < 16 then 1 else if d.len < 32 then 2 else 3
  let sel := ms * 8 + d.bp
  let dot := (x.zipIdx.map fun p => dfW d sel p.2 * p.1).foldl (· + ·) 0 / 65536
  let dot := max (-2047) (min 2047 dot)
  let pm := squash dot
  let q := (dot + 2048).toNat
  let j := q / 256
  let f := q % 256
  let pa := (dfMap d d.c0 j * (256 - f : Nat) + dfMap d d.c0 (j + 1) * (f : Nat)) / 256
  let pf := ((pm : Int) + 3 * pa + 2) / 4
  { n1 := n1, n2 := n2, n4 := n4, x := x, eb := eb, lb := lb, sel := sel, pm := pm, j := j, f := f
    pf := (max 1 (min 4095 pf)).toNat }

/-- The length of the match that ends before positions `p` and `i`, at most 32 (R300). -/
def dfMatch (u : Array Byte) (p i : Nat) : Nat → Nat → Nat
  | 0, n => n
  | fuel + 1, n => if n < p ∧ u.getD (p - 1 - n) 0 = u.getD (i - 1 - n) 0 then dfMatch u p i fuel (n + 1) else n

/-- boundary() of R300. -/
def dfBoundary (d : Df) : Df :=
  let b := d.c0 % 256
  let u := d.u.push (BitVec.ofNat 8 b)
  let i := u.size
  let d : Df := if 0 < d.len then { d with len := Nat.min (d.len + 1) 65535, ptr := d.ptr + 1 } else d
  let c4 := (d.c4 * 256 + b) % 2 ^ 32
  let h6 := (d.h6 * 256 + b) % 2 ^ 48
  let d : Df := { d with u := u, c4 := c4, h6 := h6, b4 := c4 * 0x9E3B2C71 % 2 ^ 32 / 2 ^ 19 }
  let d : Df :=
    if i < 6 then d
    else
      let hm := h6 * 0x9C6B17E5D04A3F29 % 2 ^ 64 / 2 ^ 54
      let p := smGet 0 d.mt hm
      let n := dfMatch u p i 32 0
      let d : Df := if d.len = 0 ∧ p ≠ 0 ∧ 6 ≤ n then { d with len := n, ptr := p } else d
      { d with mt := smPut hm i d.mt }
  let d : Df := if 0 < d.len then { d with e := (u.getD d.ptr 0).toNat } else d
  { d with c0 := 1, bp := 0 }

/-- update() of R299. -/
def dfUpdate (d : Df) (t : DfTmp) (y : Bool) : Df :=
  let yi : Int := if y then 1 else 0
  let err := (yi * 4096 - (t.pm : Int)) * 6
  let w := t.x.zipIdx.foldl (fun w p =>
    let v := dfW d t.sel p.2 + (p.1 * err + 0x8000) / 65536
    smPut (t.sel * 5 + p.2) (min (max v (-524288)) 524287) w) d.w
  let d : Df := { d with
    w := w
    o1 := smPut t.n1 (countUp (dfCount d.o1 t.n1) y) d.o1
    o2 := smPut t.n2 (countUp (dfCount d.o2 t.n2) y) d.o2
    o4 := smPut t.n4 (countUp (dfCount d.o4 t.n4) y) d.o4 }
  let d : Df := if d.len = 0 then d
    else { d with mc := smPut t.lb (countUp (dfCount d.mc t.lb) (y == t.eb)) d.mc, len := if y == t.eb then d.len else 0 }
  let k := t.j + t.f / 128
  let v := dfMap d d.c0 k
  let d : Df := { d with a := smPut (d.c0 * 17 + k) (v + (yi * 4095 - v) / 64) d.a, c0 := d.c0 * 2 + b2n y, bp := d.bp + 1 }
  if d.bp = 8 then dfBoundary d else d

/-! ### Coder (R301, R302) -/

/-- The bounds, and the bytes emitted, newest first. -/
structure DfEnc where
  x1  : Nat
  x2  : Nat
  out : List Byte

def dfMid (x1 x2 p : Nat) : Nat := x1 + (x2 - x1) / 4096 * p

def dfEmit : Nat → DfEnc → DfEnc
  | 0, c => c
  | n + 1, c =>
    if c.x1 / 2 ^ 24 = c.x2 / 2 ^ 24 then
      dfEmit n { x1 := c.x1 * 256 % 2 ^ 32, x2 := c.x2 * 256 % 2 ^ 32 + 255, out := BitVec.ofNat 8 (c.x2 / 2 ^ 24) :: c.out }
    else c

def dfCode (c : DfEnc) (y : Bool) (p : Nat) : DfEnc :=
  let m := dfMid c.x1 c.x2 p
  dfEmit 4 (if y then { c with x2 := m } else { c with x1 := m + 1 })

/-- One bit of the encoder. -/
def dfEncBit (c : Df × DfEnc) (y : Bool) : Df × DfEnc :=
  let t := dfPredict c.1
  (dfUpdate c.1 t y, dfCode c.2 y t.pf)

def byteBits (b : Byte) : List Bool := [7, 6, 5, 4, 3, 2, 1, 0].map fun i => b.getLsbD i

/-- The coded payload of `s` (R303). -/
def dfPayload (s : List Byte) : List Byte :=
  let c := s.foldl (fun c b => (byteBits b).foldl dfEncBit c) (Df.reset, ({ x1 := 0, x2 := 0xFFFFFFFF, out := [] } : DfEnc))
  (BitVec.ofNat 8 (c.2.x1 / 2 ^ 24) :: c.2.out).reverse

/-- The frame that DENC writes (R292, R303). -/
def dfEncode (s : List Byte) : List Byte :=
  let p := dfPayload s
  let coded := decide (p.length ≤ s.length)
  let p := if coded then p else s
  [0x5A, 0x44, 0x46, 0x31, 1, if coded then 1 else 0, 0, 0] ++ leBytes 4 s.length ++ leBytes 4 p.length ++ p ++
    leBytes 4 (crc32c s).toNat

/-- The decoder: bounds, value, bytes left, and calls of take(). -/
structure DfDec where
  x1    : Nat
  x2    : Nat
  x     : Nat
  rest  : List Byte
  calls : Nat

def dfTake (c : DfDec) : Nat × DfDec :=
  ((c.rest.headD 0xFF).toNat, { c with rest := c.rest.tail, calls := c.calls + 1 })

def dfPull : Nat → DfDec → DfDec
  | 0, c => c
  | n + 1, c =>
    if c.x1 / 2 ^ 24 = c.x2 / 2 ^ 24 then
      let (b, c) := dfTake c
      dfPull n { c with x1 := c.x1 * 256 % 2 ^ 32, x2 := c.x2 * 256 % 2 ^ 32 + 255, x := c.x * 256 % 2 ^ 32 + b }
    else c

def dfStart (p : List Byte) : DfDec :=
  (List.range 4).foldl (fun c _ =>
    let (b, c) := dfTake c
    { c with x := c.x * 256 + b }) { x1 := 0, x2 := 0xFFFFFFFF, x := 0, rest := p, calls := 0 }

/-- One bit of the decoder. -/
def dfDecBit (c : Df × DfDec) : Df × DfDec :=
  let t := dfPredict c.1
  let m := dfMid c.2.x1 c.2.x2 t.pf
  let y := decide (c.2.x ≤ m)
  (dfUpdate c.1 t y, dfPull 4 (if y then { c.2 with x2 := m } else { c.2 with x1 := m + 1 }))

def dfDecBits : Nat → Df × DfDec → Df × DfDec
  | 0, c => c
  | n + 1, c => dfDecBits n (dfDecBit c)

/-- The decoded bytes of a coded payload, and whether take() was called CLEN + 3 times (R304 step 6). -/
def dfDecode (p : List Byte) (ulen : Nat) : List Byte × Bool :=
  let c := dfDecBits (8 * ulen) (Df.reset, dfStart p)
  (c.1.u.toList, decide (c.2.calls = p.length + 3))

/-- DDEC of the frame `b` into at most `cap` bytes: its bytes, or the engine code (R289, R304). -/
def dfFrame (b : List Byte) (cap : Nat) : Except Nat (List Byte) :=
  let ulen := leAt b 8 4
  let clen := leAt b 12 4
  let mode := leAt b 5 1
  if b.length < 16 then .error 0x21
  else if leAt b 0 4 ≠ 0x3146445A ∨ leAt b 4 1 ≠ 1 ∨ leAt b 6 2 ≠ 0 ∨ 1 < mode ∨ ulen = 0 ∨ 4194304 < ulen ∨
      (mode = 0 ∧ clen ≠ ulen) ∨ (mode = 1 ∧ (clen = 0 ∨ ulen < clen)) then .error 0x20
  else if cap < ulen then .error 0x17
  else if b.length < clen + 20 then .error 0x21
  else if clen + 20 < b.length then .error 0x20
  else
    let p := sliceZ b 16 clen
    let (out, ok) := if mode = 1 then dfDecode p ulen else (p, true)
    if !ok || decide (crc32c out ≠ BitVec.ofNat 32 (leAt b (16 + clen) 4)) then .error 0x21 else .ok out

end Sys2Proof.Machine
end

