-- ==== Sys2Proof/Machine/Zstd.lean ====
section
/-! DEFINITION. The frames of RFC 8878 that portable mode reads and writes (R280 to R287): XXH64, FSE and Huffman
tables, blocks, frames and dictionaries. Constants and table layouts are those of RFC 8878, which the spec
names and does not repeat (assumption log 25). -/

namespace Sys2Proof.Machine
open Sys2Proof

/-! ### XXH64 -/

def xp1 : Word := 0x9E3779B185EBCA87
def xp2 : Word := 0xC2B2AE3D27D4EB4F
def xp3 : Word := 0x165667B19E3779F9
def xp4 : Word := 0x85EBCA77C2B2AE63
def xp5 : Word := 0x27D4EB2F165667C5

def xxRound (acc lane : Word) : Word := (acc + lane * xp2).rotateLeft 31 * xp1
def xxMerge (h v : Word) : Word := (h ^^^ xxRound 0 v) * xp1 + xp4

def xxStripes : Nat → List Byte → List Word → List Word × List Byte
  | 0, b, v => (v, b)
  | n + 1, b, v => xxStripes n (b.drop 32) (v.zipIdx.map fun p => xxRound p.1 (wd (leAt (b.take 32) (8 * p.2) 8)))

def xxTail : Nat → Word → List Byte → Word
  | 0, h, _ => h
  | n + 1, h, b =>
    if 8 ≤ b.length then xxTail n ((h ^^^ xxRound 0 (wd (leNat (b.take 8)))).rotateLeft 27 * xp1 + xp4) (b.drop 8)
    else if 4 ≤ b.length then xxTail n ((h ^^^ wd (leNat (b.take 4)) * xp1).rotateLeft 23 * xp2 + xp3) (b.drop 4)
    else match b with
      | [] => h
      | x :: xs => xxTail n ((h ^^^ wd x.toNat * xp5).rotateLeft 11 * xp1) xs

/-- XXH64 with seed 0. -/
def xxh64 (m : List Byte) : Word :=
  let n := m.length
  let (v, rest) := xxStripes (n / 32) m [xp1 + xp2, xp2, 0, 0 - xp1]
  let h : Word := if n < 32 then xp5
    else v.foldl xxMerge ((v.zip [1, 7, 12, 18]).foldl (fun a p => a + p.1.rotateLeft p.2) 0)
  let h := xxTail (n + 1) (h + wd n) rest
  let h := (h ^^^ (h >>> 33)) * xp2
  let h := (h ^^^ (h >>> 29)) * xp3
  h ^^^ (h >>> 32)

/-! ### Bit streams -/

/-- `n` bits from bit `pos` on, least significant first; bytes beyond the end are 0. -/
def zBits (b : Array Byte) (pos n : Nat) : Nat :=
  let v := (List.range ((pos % 8 + n + 7) / 8)).foldr (fun i a => a * 256 + (b.getD (pos / 8 + i) 0).toNat) 0
  v / 2 ^ (pos % 8) % 2 ^ n

/-- A stream read backwards: its first byte, and the bits left; bits below its start read as 0. -/
structure BackBits where
  lo : Nat
  p  : Int

/-- The stream in bytes [lo, hi): its last byte holds the end mark. -/
def backStart (b : Array Byte) (lo hi : Nat) : Option BackBits :=
  if hi ≤ lo then none
  else
    let x := (b.getD (hi - 1) 0).toNat
    if x = 0 then none else some { lo := lo, p := 8 * (hi - lo - 1 : Nat) + Nat.log2 x }

def backPeek (b : Array Byte) (r : BackBits) (n : Nat) : Nat :=
  if (n : Int) ≤ r.p then zBits b (8 * r.lo + (r.p - n).toNat) n
  else if 0 < r.p then zBits b (8 * r.lo) r.p.toNat * 2 ^ (n - r.p.toNat)
  else 0
def backSkip (r : BackBits) (n : Nat) : BackBits := { r with p := r.p - n }
def backRead (b : Array Byte) (r : BackBits) (n : Nat) : Nat × BackBits := (backPeek b r n, backSkip r n)

/-! ### FSE tables -/

/-- An FSE decoding table: accuracy log, and symbol, bits and base of each state. -/
structure FseTab where
  al   : Nat
  ents : Array (Nat × Nat × Nat)

/-- Zero probabilities that follow one: how many, and the position after them. -/
def fseZeros (b : Array Byte) : Nat → Nat → Nat → Nat × Nat
  | 0, pos, k => (k, pos)
  | fuel + 1, pos, k =>
    let r := zBits b pos 2
    if r = 3 then fseZeros b fuel (pos + 2) (k + 3) else (k + r, pos + 2)

/-- The probabilities, newest first, from bit `pos`: at most `max` symbols that use up `left`. -/
def fseProbs (b : Array Byte) (max : Nat) : Nat → Nat → Nat → List Int → Option (List Int × Nat)
  | 0, _, _, _ => none
  | fuel + 1, left, pos, acc =>
    if left = 0 then (if acc.length ≤ max then some (acc, pos) else none)
    else if max ≤ acc.length then none
    else
      let n := Nat.log2 (left + 1) + 1
      let v := zBits b pos n
      let low := v % 2 ^ (n - 1)
      let thr := 2 ^ n - 1 - (left + 1)
      let (v, pos) := if low < thr then (low, pos + n - 1) else (if 2 ^ (n - 1) ≤ v then v - thr else v, pos + n)
      let used := if v = 0 then 1 else v - 1
      if left < used then none
      else if v = 1 then
        let (z, pos) := fseZeros b 256 pos 0
        fseProbs b max fuel left pos (List.replicate (z + 1) 0 ++ acc)
      else fseProbs b max fuel (left - used) pos (((v : Int) - 1) :: acc)

/-- A table description in bytes [lo, hi): accuracy log, probabilities, and the byte after it. -/
def fseHead (b : Array Byte) (lo hi maxLog maxSyms : Nat) : Option (Nat × List Int × Nat) :=
  let al := zBits b (8 * lo) 4 + 5
  if hi ≤ lo ∨ maxLog < al then none
  else match fseProbs b maxSyms 600 (2 ^ al) (8 * lo + 4) [] with
    | none => none
    | some (acc, pos) =>
      let next := (pos + 7) / 8
      if hi < next then none else some (al, acc.reverse, next)

/-- The states that a symbol takes when it is spread: `k` of them from position `pos` on. -/
def fseSpread (size high step sym : Nat) : Nat → Nat → Array Nat → Nat × Array Nat
  | 0, pos, t => (pos, t)
  | k + 1, pos, t =>
    let t := t.setIfInBounds pos sym
    let rec skip : Nat → Nat → Nat
      | 0, p => p
      | f + 1, p => if high ≤ p then skip f ((p + step) % size) else p
    fseSpread size high step sym k (skip size ((pos + step) % size)) t

/-- The decoding table of a distribution. -/
def fseBuild (al : Nat) (probs : List Int) : FseTab :=
  let size := 2 ^ al
  let syms := probs.zipIdx
  let low := (syms.filter fun p => p.1 = -1).map (·.2)
  let high := size - low.length
  let t : Array Nat := Array.replicate size 0
  let t := low.zipIdx.foldl (fun t p => t.setIfInBounds (size - 1 - p.2) p.1) t
  let step := size / 2 + size / 8 + 3
  let t := (syms.foldl (fun (a : Nat × Array Nat) p => fseSpread size high step p.2 p.1.toNat a.1 a.2) (0, t)).2
  let next : Array Nat := (probs.map fun p => if p = -1 then 1 else p.toNat).toArray
  let ents := t.foldl (fun (a : Array (Nat × Nat × Nat) × Array Nat) sym =>
    let x := a.2.getD sym 1
    let nb := al - Nat.log2 x
    (a.1.push (sym, nb, x * 2 ^ nb - size), a.2.setIfInBounds sym (x + 1))) (#[], next)
  { al := al, ents := ents.1 }

def fseRle (sym : Nat) : FseTab := { al := 0, ents := #[(sym, 0, 0)] }
def fseSym (t : FseTab) (st : Nat) : Nat := (t.ents.getD st (0, 0, 0)).1
def fseNext (b : Array Byte) (t : FseTab) (st : Nat) (r : BackBits) : Nat × BackBits :=
  let e := t.ents.getD st (0, 0, 0)
  let (v, r) := backRead b r e.2.1
  (e.2.2 + v, r)

/-! ### Huffman trees -/

/-- A literal decoding table: the longest code, and symbol and code length for each value of that many bits. -/
structure HufTab where
  bits : Nat
  ents : Array (Nat × Nat)

/-- Weights of two interleaved states (RFC 8878 section 4.2.1.2), newest first. -/
def hufWeights (b : Array Byte) (t : FseTab) : Nat → Nat → Nat → BackBits → List Nat → Option (List Nat)
  | 0, _, _, _, _ => none
  | fuel + 1, s1, s2, r, acc =>
    let acc := fseSym t s1 :: acc
    let (s1, r) := fseNext b t s1 r
    if r.p < 0 then some (fseSym t s2 :: acc) else hufWeights b t fuel s2 s1 r acc

/-- The table of a list of weights, the last of which is implied. -/
def hufBuild (ws : List Nat) : Option HufTab :=
  let sum := (ws.map fun w => if w = 0 then 0 else 2 ^ (w - 1)).foldl (· + ·) 0
  if sum = 0 ∨ 255 < ws.length then none
  else
    let bits := Nat.log2 sum + 1
    let left := 2 ^ bits - sum
    if 11 < bits ∨ 2 ^ Nat.log2 left ≠ left ∨ (ws.any fun w => bits < w) = true then none
    else
      let all := (ws ++ [Nat.log2 left + 1]).zipIdx
      let ents := (List.range bits).foldl (fun (a : Array (Nat × Nat)) k =>
        all.foldl (fun a p =>
          if p.1 = k + 1 then (List.range (2 ^ k)).foldl (fun a _ => a.push (p.2, bits - k)) a else a) a) #[]
      some { bits := bits, ents := ents }

/-- A tree description in bytes [lo, hi), and the byte after it. -/
def hufHead (b : Array Byte) (lo hi : Nat) : Option (HufTab × Nat) :=
  let h := (b.getD lo 0).toNat
  if hi ≤ lo then none
  else if 128 ≤ h then
    let n := h - 127
    let next := lo + 1 + (n + 1) / 2
    if hi < next then none
    else (hufBuild ((List.range n).map fun i =>
      let x := (b.getD (lo + 1 + i / 2) 0).toNat
      if i % 2 = 0 then x / 16 else x % 16)).map fun t => (t, next)
  else
    let next := lo + 1 + h
    if hi < next then none
    else match fseHead b (lo + 1) next 6 12 with
      | none => none
      | some (al, probs, at_) =>
        let t := fseBuild al probs
        match backStart b at_ next with
        | none => none
        | some r =>
          let (s1, r) := backRead b r al
          let (s2, r) := backRead b r al
          match hufWeights b t 256 s1 s2 r [] with
          | none => none
          | some ws => (hufBuild ws.reverse).map fun t => (t, next)

/-- `n` literals of one stream, which they use up exactly. -/
def hufStream (b : Array Byte) (t : HufTab) : Nat → BackBits → Array Byte → Option (Array Byte)
  | 0, r, out => if r.p = 0 then some out else none
  | n + 1, r, out =>
    let e := t.ents.getD (backPeek b r t.bits) (0, 0)
    let r := backSkip r e.2
    if r.p < 0 then none else hufStream b t n r (out.push (BitVec.ofNat 8 e.1))

/-! ### Blocks -/

/-- What blocks of a frame hand on: Huffman table, the three FSE tables, and the repeat offsets. -/
structure ZTabs where
  huf  : Option HufTab
  ll   : Option FseTab
  of   : Option FseTab
  ml   : Option FseTab
  reps : Nat × Nat × Nat

def ZTabs.start : ZTabs := { huf := none, ll := none, of := none, ml := none, reps := (1, 4, 8) }

def llBase : List Nat := List.range 16 ++ [16, 18, 20, 22, 24, 28, 32, 40, 48, 64, 128, 256, 512, 1024, 2048, 4096, 8192, 16384, 32768, 65536]
def llBits : List Nat := List.replicate 16 0 ++ [1, 1, 1, 1, 2, 2, 3, 3, 4, 6, 7, 8, 9, 10, 11, 12, 13, 14, 15, 16]
def mlBase : List Nat := (List.range 32).map (· + 3) ++
  [35, 37, 39, 41, 43, 47, 51, 59, 67, 83, 99, 131, 259, 515, 1027, 2051, 4099, 8195, 16387, 32771, 65539]
def mlBits : List Nat := List.replicate 32 0 ++ [1, 1, 1, 1, 2, 2, 3, 3, 4, 4, 5, 7, 8, 9, 10, 11, 12, 13, 14, 15, 16]

def llDefault : FseTab := fseBuild 6
  [4, 3, 2, 2, 2, 2, 2, 2, 2, 2, 2, 2, 2, 1, 1, 1, 2, 2, 2, 2, 2, 2, 2, 2, 2, 3, 2, 1, 1, 1, 1, 1, -1, -1, -1, -1]
def mlDefault : FseTab := fseBuild 6
  ([1, 4, 3, 2, 2, 2, 2, 2, 2] ++ List.replicate 37 1 ++ List.replicate 7 (-1))
def ofDefault : FseTab := fseBuild 5
  ([1, 1, 1, 1, 1, 1, 2, 2, 2] ++ List.replicate 15 1 ++ List.replicate 5 (-1))

/-- Four literal streams after their jump table in [lo, hi). -/
def hufFour (b : Array Byte) (t : HufTab) (lo hi n : Nat) : Option (Array Byte) :=
  let z := fun i => zBits b (8 * lo + 16 * i) 16
  let k := (n + 3) / 4
  let p0 := lo + 6
  let p1 := p0 + z 0
  let p2 := p1 + z 1
  let p3 := p2 + z 2
  if hi < p3 ∨ hi < p0 ∨ n < 3 * k then none
  else [(p0, p1, k), (p1, p2, k), (p2, p3, k), (p3, hi, n - 3 * k)].foldl (fun (a : Option (Array Byte)) x =>
    match a with
    | none => none
    | some out => match backStart b x.1 x.2.1 with
      | none => none
      | some r => hufStream b t x.2.2 r out) (some #[])

/-- The literals section in [lo, hi): literals, Huffman table, and the byte after it. -/
def zLiterals (b : Array Byte) (lo hi maxLit : Nat) (huf : Option HufTab) : Option (Array Byte × Option HufTab × Nat) :=
  let x := (b.getD lo 0).toNat
  let typ := x % 4
  let sf := x / 4 % 4
  if hi ≤ lo then none
  else if typ < 2 then
    let (hd, n) := if sf % 2 = 0 then (1, x / 8) else if sf = 1 then (2, zBits b (8 * lo + 4) 12) else (3, zBits b (8 * lo + 4) 20)
    let next := lo + hd + (if typ = 0 then n else 1)
    if hi < next ∨ maxLit < n then none
    else if typ = 0 then some (b.extract (lo + hd) next, huf, next)
    else some (Array.replicate n (b.getD (lo + hd) 0), huf, next)
  else
    let (hd, w) := if sf < 2 then (3, 10) else if sf = 2 then (4, 14) else (5, 18)
    let n := zBits b (8 * lo + 4) w
    let c := zBits b (8 * lo + 4 + w) w
    let next := lo + hd + c
    if hi < next ∨ hi < lo + hd ∨ maxLit < n then none
    else match if typ = 2 then hufHead b (lo + hd) next else huf.map fun t => (t, lo + hd) with
      | none => none
      | some (t, at_) =>
        match if sf = 0 then (backStart b at_ next).bind fun r => hufStream b t n r #[] else hufFour b t at_ next n with
        | none => none
        | some out => some (out, some t, next)

/-- One table of the sequences section: by its mode, from byte `lo`. -/
def zTable (b : Array Byte) (mode lo hi maxLog maxSyms : Nat) (dflt : FseTab) (old : Option FseTab) : Option (FseTab × Nat) :=
  if mode = 0 then some (dflt, lo)
  else if mode = 1 then
    let s := (b.getD lo 0).toNat
    if hi ≤ lo ∨ maxSyms ≤ s then none else some (fseRle s, lo + 1)
  else if mode = 2 then (fseHead b lo hi maxLog maxSyms).map fun x => (fseBuild x.1 x.2.1, x.2.2)
  else old.map fun t => (t, lo)

/-- A sequence: literal length, match length, offset value. -/
abbrev ZSeq := Nat × Nat × Nat

/-- `n` sequences (newest first), which use up the stream exactly. -/
def zSeqs (b : Array Byte) (ll of ml : FseTab) : Nat → Nat × Nat × Nat → BackBits → List ZSeq → Option (List ZSeq)
  | 0, _, r, acc => if r.p = 0 then some acc else none
  | n + 1, (sl, so, sm), r, acc =>
    let oc := fseSym of so
    let mc := fseSym ml sm
    let lc := fseSym ll sl
    if 31 < oc ∨ 52 < mc ∨ 35 < lc then none
    else
      let (ov, r) := backRead b r oc
      let (mx, r) := backRead b r (mlBits.getD mc 0)
      let (lx, r) := backRead b r (llBits.getD lc 0)
      let seq : ZSeq := (llBase.getD lc 0 + lx, mlBase.getD mc 0 + mx, 2 ^ oc + ov)
      if r.p < 0 then none
      else if n = 0 then zSeqs b ll of ml 0 (sl, so, sm) r (seq :: acc)
      else
        let (sl, r) := fseNext b ll sl r
        let (sm, r) := fseNext b ml sm r
        let (so, r) := fseNext b of so r
        if r.p < 0 then none else zSeqs b ll of ml n (sl, so, sm) r (seq :: acc)

/-- The sequences section in [lo, hi). -/
def zSequences (b : Array Byte) (lo hi : Nat) (z : ZTabs) : Option (List ZSeq × ZTabs) :=
  let x := (b.getD lo 0).toNat
  let y := (b.getD (lo + 1) 0).toNat
  let w := (b.getD (lo + 2) 0).toNat
  let (n, hd) := if x < 128 then (x, 1) else if x < 255 then ((x - 128) * 256 + y, 2) else (y + w * 256 + 0x7F00, 3)
  if hi < lo + hd then none
  else if n = 0 then (if hi = lo + hd then some ([], z) else none)
  else
    let m := (b.getD (lo + hd) 0).toNat
    if hi ≤ lo + hd ∨ m % 4 ≠ 0 then none
    else match zTable b (m / 64) (lo + hd + 1) hi 9 36 llDefault z.ll with
      | none => none
      | some (ll, p) => match zTable b (m / 16 % 4) p hi 8 32 ofDefault z.of with
        | none => none
        | some (of, p) => match zTable b (m / 4 % 4) p hi 9 53 mlDefault z.ml with
          | none => none
          | some (ml, p) => match backStart b p hi with
            | none => none
            | some r =>
              let (sl, r) := backRead b r ll.al
              let (so, r) := backRead b r of.al
              let (sm, r) := backRead b r ml.al
              if r.p < 0 then none
              else (zSeqs b ll of ml n (sl, so, sm) r []).map fun qs =>
                (qs.reverse, { z with ll := some ll, of := some of, ml := some ml })

/-- The offset that an offset value names, and the repeat offsets after it; none for an offset of 0. -/
def zOffset (reps : Nat × Nat × Nat) (ll ov : Nat) : Option (Nat × (Nat × Nat × Nat)) :=
  let (a, b, c) := reps
  if 3 < ov then some (ov - 3, (ov - 3, a, b))
  else match ov + (if ll = 0 then 1 else 0) with
    | 1 => some (a, (a, b, c))
    | 2 => some (b, (b, a, c))
    | 3 => some (c, (c, a, b))
    | _ => if a = 1 then none else some (a - 1, (a - 1, a, b))

/-- `n` bytes copied from `off` back. -/
def zCopy (off : Nat) : Nat → Array Byte → Array Byte
  | 0, h => h
  | n + 1, h => zCopy off n (h.push (h.getD (h.size - off) 0))

/-- The sequences carried out on the history `h` (dictionary content, then the frame's bytes from `base` on). -/
def zExec (lits : Array Byte) (win base : Nat) : List ZSeq → Nat → Nat × Nat × Nat → Array Byte → Option (Array Byte × (Nat × Nat × Nat))
  | [], p, reps, h => some (h ++ lits.extract p lits.size, reps)
  | (ll, ml, ov) :: qs, p, reps, h =>
    if lits.size < p + ll then none
    else
      let h := h ++ lits.extract p (p + ll)
      match zOffset reps ll ov with
      | none => none
      | some (off, reps) =>
        let total := h.size - base
        if (if total ≤ win then h.size < off else win < off) then none
        else zExec lits win base qs (p + ll) reps (zCopy off ml h)

/-- A compressed block in bytes [lo, hi) (RFC 8878 section 3.1.1.3): history and tables after it. -/
def zBlock (b : Array Byte) (lo hi win base : Nat) (z : ZTabs) (h : Array Byte) : Option (Array Byte × ZTabs) :=
  match zLiterals b lo hi (Nat.min win 131072) z.huf with
  | none => none
  | some (lits, huf, p) =>
    match zSequences b p hi { z with huf := huf } with
    | none => none
    | some (qs, z) =>
      match zExec lits win base qs 0 z.reps h with
      | none => none
      | some (h', reps) => if Nat.min win 131072 < h'.size - h.size then none else some (h', { z with reps := reps })

/-! ### Frames (R284, R285) -/

/-- A frame's header: window, content size, dictionary ID, checksum flag, and its length with the magic. -/
structure ZHead where
  win  : Nat
  fcs  : Option Nat
  did  : Nat
  sum  : Bool
  len  : Nat

/-- The frame header after the magic in [lo, hi): its fields, or the engine code. -/
def zHeader (b : Array Byte) (lo hi : Nat) : Except Nat ZHead :=
  let d := (b.getD (lo + 4) 0).toNat
  if hi < lo + 5 then .error 0x18
  else if d / 8 % 2 = 1 then .error 0x11
  else
    let ss := d / 32 % 2 = 1
    let wlen := if ss then 0 else 1
    let dlen := [0, 1, 2, 4].getD (d % 4) 0
    let flen := if d / 64 = 0 then (if ss then 1 else 0) else 2 ^ (d / 64)
    let len := 5 + wlen + dlen + flen
    if hi < lo + len then .error 0x18
    else
      let wb := (b.getD (lo + 5) 0).toNat
      let base := 2 ^ (10 + wb / 8)
      let did := zBits b (8 * (lo + 5 + wlen)) (8 * dlen)
      let f := zBits b (8 * (lo + 5 + wlen + dlen)) (8 * flen)
      let fcs := if flen = 0 then none else some (if flen = 2 then f + 256 else f)
      let win := if ss then fcs.getD 0 else base + base / 8 * (wb % 8)
      if 8388608 < win then .error 0x12
      else .ok { win := win, fcs := fcs, did := did, sum := d / 4 % 2 = 1, len := len }

/-- The blocks of a frame from byte `p` on, into at most `room` bytes: history and the byte after the last block, or the
engine code. -/
def zBlocks (b : Array Byte) (hi win base room : Nat) : Nat → Nat → ZTabs → Array Byte → Except Nat (Array Byte × Nat)
  | 0, _, _, _ => .error 0x18
  | fuel + 1, p, z, h =>
    let v := zBits b (8 * p) 24
    let size := v / 8
    let typ := v / 2 % 4
    let next := p + 3 + (if typ = 1 then 1 else size)
    if hi < p + 3 then .error 0x18
    else if typ = 3 ∨ Nat.min win 131072 < size then .error 0x14
    else if hi < next then .error 0x18
    else
      let r := if typ = 0 then some (h ++ b.extract (p + 3) next, z)
        else if typ = 1 then some (h ++ Array.replicate size (b.getD (p + 3) 0), z)
        else zBlock b (p + 3) next win base z h
      match r with
      | none => .error 0x14
      | some (h, z) =>
        if room < h.size - base then .error 0x17
        else if v % 2 = 1 then .ok (h, next)
        else zBlocks b hi win base room fuel next z h

/-- A dictionary in use: the tables it starts a frame with, and its content. -/
structure ZDict where
  tabs    : ZTabs
  content : Array Byte

def ZDict.none : ZDict := { tabs := ZTabs.start, content := #[] }

/-- A Zstandard frame whose header is known: its content and the byte after it, or the engine code. -/
def zFrame (b : Array Byte) (lo hi room : Nat) (hd : ZHead) (d : ZDict) : Except Nat (List Byte × Nat) :=
  let base := d.content.size
  match zBlocks b hi hd.win base room (hi - lo + 1) (lo + hd.len) d.tabs d.content with
  | .error e => .error e
  | .ok (h, p) =>
    let out := (h.extract base h.size).toList
    let next := p + (if hd.sum then 4 else 0)
    if hi < next then .error 0x18
    else if hd.sum && decide (zBits b (8 * p) 32 ≠ (xxh64 out).toNat % 2 ^ 32) then .error 0x15
    else if hd.fcs.any fun n => decide (n ≠ out.length) then .error 0x16
    else .ok (out, next)

/-! ### Dictionaries (R286) -/

/-- The part of a formatted dictionary before its content: ID, tables, and the offset of the content. -/
def zDictParse (b : Array Byte) : Option (Nat × ZTabs × Nat) :=
  let hi := b.size
  if hi < 8 ∨ zBits b 0 32 ≠ 0xEC30A437 ∨ zBits b 32 32 = 0 then none
  else match hufHead b 8 hi with
    | none => none
    | some (huf, p) => match fseHead b p hi 8 32 with
      | none => none
      | some (oa, op, p) => match fseHead b p hi 9 53 with
        | none => none
        | some (ma, mp, p) => match fseHead b p hi 9 36 with
          | none => none
          | some (la, lp, p) =>
            let rep := fun i => zBits b (8 * p + 32 * i) 32
            if hi < p + 12 then none
            else some (zBits b 32 32,
              { huf := some huf, ll := some (fseBuild la lp), of := some (fseBuild oa op), ml := some (fseBuild ma mp)
                reps := (rep 0, rep 1, rep 2) }, p + 12)

/-- A formatted dictionary; none where it breaks the format. Each repeat offset lies within the content. -/
def zDictHead (b : Array Byte) : Option (Nat × ZTabs × Nat) :=
  (zDictParse b).filter fun x =>
    let n := b.size - x.2.2
    let ok := fun r => decide (r ≠ 0) && decide (r ≤ n)
    ok x.2.1.reps.1 && ok x.2.1.reps.2.1 && ok x.2.1.reps.2.2

/-! ### Frames that portable mode writes (R280, R281) -/

/-- The frame header of PCOMP. -/
def zWriteHead (l did : Nat) (sum : Bool) : List Byte :=
  let df := if did = 0 then 0 else if did < 256 then 1 else if did < 65536 then 2 else 3
  let ff := if l ≤ 255 then 0 else if l ≤ 65791 then 1 else 2
  [0x28, 0xB5, 0x2F, 0xFD, BitVec.ofNat 8 (ff * 64 + 32 + b2n sum * 4 + df)] ++
    leBytes ([0, 1, 2, 4].getD df 0) did ++
    (if ff = 0 then leBytes 1 l else if ff = 1 then leBytes 2 (l - 256) else leBytes 4 l)

def zBlockHead (last : Bool) (typ size : Nat) : List Byte := leBytes 3 (size * 8 + typ * 2 + b2n last)

/-- The blocks of a frame: `cand` gives the compressed encoding of block k, which is taken where it is shorter than the
block and decodes to it (R281, R283). -/
def zWriteBlocks (cand : Nat → List Byte) (win base : Nat) : Nat → Nat → List Byte → ZTabs → Array Byte → List Byte
  | 0, _, _, _, _ => []
  | fuel + 1, k, rest, z, h =>
    let blk := rest.take 131072
    let rest := rest.drop 131072
    let last := decide (rest = [])
    let c := cand k
    let whole := h ++ blk.toArray
    let dec := if c.length < blk.length then zBlock c.toArray 0 c.length win base z h else none
    let (bytes, z) :=
      if blk.all (· == blk.headD 0) then (zBlockHead last 1 blk.length ++ blk.take 1, z)
      else match dec with
        | some (h', z') => if h' == whole then (zBlockHead last 2 c.length ++ c, z') else (zBlockHead last 0 blk.length ++ blk, z)
        | none => (zBlockHead last 0 blk.length ++ blk, z)
    if last then bytes else bytes ++ zWriteBlocks cand win base fuel (k + 1) rest z whole

/-- A PCOMP frame from the candidates of one level. -/
def zWriteFrame (cand : Nat → List Byte) (input : List Byte) (did : Nat) (sum : Bool) (d : ZDict) : List Byte :=
  zWriteHead input.length did sum ++
    zWriteBlocks cand input.length d.content.size (input.length / 131072 + 1) 0 input d.tabs d.content ++
    (if sum then leBytes 4 (xxh64 input).toNat else [])

end Sys2Proof.Machine
end

