-- ==== Sys2Proof/Machine/Condenser.lean ====
section
/-! DEFINITION. The Condenser (R276 to R291): dictionary slots, and its operations. -/

namespace Sys2Proof.Machine
open Sys2Proof

def cdnL (d : RData) : Nat := fld (edParam d 0) 31 0
def cdnC (d : RData) : Nat := fld (edParam d 2) 31 0

/-- The form of an operation (R278, R279): slots, parameters, FLAGS it defines, the bits of PARAM1 and PARAM2 it names, its
ranges of L and C (none where it has none), and what reasons 19 and 20 test. -/
def cdnForm (d : RData) (slots params : List Nat) (flags : Nat) (m1 m2 : Word) (lr cr : Option (Nat × Nat)) (r19 r20 : Bool) : EngForm :=
  let l := cdnL d
  let c := cdnC d
  let out := fun (r : Option (Nat × Nat)) x => r.any fun y => decide (x < y.1) || decide (y.2 < x)
  { slots := slots, params := params
    exts := (if slots.contains 0 then [inSlot d 0 l] else []) ++ (if slots.contains 2 then [outSlot d 2 c] else [])
    own := if slotMissing d slots then 16 else if edFlags d / flags ≠ 0 then 17
      else if fld (edParam d 0) 63 32 ≠ 0 ∨ edParam d 1 &&& ~~~m1 ≠ 0 ∨ edParam d 2 &&& ~~~m2 ≠ 0 ∨ out lr l = true ∨ out cr c = true then 18
      else if r19 then 19 else if r20 then 20 else 0 }

def pcompForm (d : RData) : EngForm :=
  let l := cdnL d
  let lv := fld (edParam d 1) 3 0
  cdnForm d [0, 2] [0, 1, 2] 4 (if edFlag d 11 then 0xF0F else 0xF) 0xFFFFFFFF (some (1, 262144)) (some (1, 0xFFFFFFFF))
    (decide (lv < 1) || decide (9 < lv)) (decide (cdnC d < l + 17 + 3 * ceilDiv l 131072))
def pdecForm (d : RData) : EngForm :=
  cdnForm d [0, 2] [0, 1, 2] 2 (if edFlag d 10 then 0xF else 0) 0xFFFFFFFF (some (1, 16777216)) (some (1, 0xFFFFFFFF)) false false
def dloadForm (d : RData) : EngForm :=
  cdnForm d [0] [0, 1, 2] 2 0xF (if edFlag d 10 then 0xFFFFFFFF else 0) (some (8, 1048576)) none false false
def dfreeForm (d : RData) : EngForm := cdnForm d [] [1] 1 0xF 0 none none false false
def dencForm (d : RData) : EngForm :=
  cdnForm d [0, 2] [0, 2] 1 0 0xFFFFFFFF (some (1, 4194304)) (some (1, 0xFFFFFFFF)) false (decide (cdnC d < cdnL d + 20))
def ddecForm (d : RData) : EngForm :=
  cdnForm d [0, 2] [0, 2] 1 0 0xFFFFFFFF (some (1, 4194324)) (some (1, 4194304)) false false

/-! ### Dictionary slots (R286 to R288) -/

def dslotOff (k : Nat) : Nat := pg .cdn + 0x200 + 8 * k

/-- DSLOT[k] after a load or a free. -/
def setDict (s : State) (k : Nat) (d : Option Dict) : State :=
  match d with
  | none => rset { s with dicts := smErase k s.dicts } (dslotOff k) 0
  | some x => rset { s with dicts := smPut k x s.dicts } (dslotOff k)
      (wd (2 ^ 63 + b2n x.raw * 2 ^ 62 + (x.len - x.hdr.length) * 2 ^ 32 + x.id))

/-- The content of a dictionary with these bytes before it. -/
def dictExt (cap : Cap) (len hdr : Nat) : Extent := runOf cap (capCursor cap + hdr) (len - hdr)

/-- The content of a dictionary is read for descriptor `i` of ring `r` through the kept capability (R286); failures carry
SIDE 0. -/
def dictContent (s : State) (r i : Nat) (x : Dict) : Except (Option XferErr) (List Byte) × State :=
  let s := descUse s .cdn r i x.uses x.torn
  match engPieces (bindReq .cdn x.bind) { side := 0, ext := dictExt x.cap x.len x.hdr.length, rights := [], need := needR } s with
  | (.error e, s) => (.error (some e), s)
  | (.ok ps, s) =>
    match piecesReady 5 (engSrc .cdn r) ps s with
    | (false, s) => (.error (some .wait), s)
    | (true, s) =>
      match readPieces 5 (engSrc .cdn r) ps [] s with
      | (.error e, s) => (.error (some e), s)
      | (.ok ds, s) =>
        if ds.any fun d => d.poison.any id then (.error none, s) else (.ok (ds.flatMap (·.bytes)), s)

/-- A dictionary with its content, as frames use it. -/
def dictOf (x : Dict) (content : List Byte) : ZDict :=
  { tabs := if x.raw then ZTabs.start else ((zDictParse x.hdr.toArray).map fun p => p.2.1).getD ZTabs.start
    content := content.toArray }

/-- A failure of a dictionary read ends the operation. -/
def dictFail (s : State) (r i : Nat) (e : Option XferErr) : State :=
  match e with
  | none => engEnd s .cdn r i 4 0 0
  | some e => engFail s .cdn r i e

/-- DLOAD of the bytes `b` into slot `k`. A write of software that left the load undefined leaves the dictionary so
(R246). -/
def dloadDo (s : State) (r i : Nat) (d : RData) (b : List Byte) : State :=
  let k := cdnSlot d
  let raw := edFlag d 10
  let dup := fun id => decide (id ≠ 0) && s.dicts.any fun p => decide (p.1 ≠ k) && decide (p.2.id = id)
  let put := fun (id : Nat) (n : Nat) =>
    if dup id then engCode s .cdn r i 0x1A 0
    else
      let x : Dict :=
        { id := id, raw := raw, hdr := b.take n, cap := edSlot d 0, len := b.length, bind := rcfg s .cdn r
          uses := extUses (ringReq s .cdn r) needR (dictExt (edSlot d 0) b.length n) s, torn := (descAt s .cdn r i).any (·.torn) }
      engOk (setDict s k (some x)) .cdn r i [] id
  if raw then put (cdnC d) 0
  else match zDictHead b.toArray with
    | none => engCode s .cdn r i 0x19 0
    | some (id, _, n) => put id n

/-- A dictionary operation whose turn has come. -/
def dictDo (s : State) (r i : Nat) (d : EngDesc) : State :=
  if edOp d.raw = 3 then
    engRead s .cdn r i [inSlot d.raw 0 (cdnL d.raw)] fun b s => dloadDo s r i d.raw (b 0)
  else engOk (setDict s (cdnSlot d.raw) none) .cdn r i [] 0

/-- DLOAD and DFREE, behind their ring's earlier descriptors: held while what they wait for is open. -/
def dictRow (op : Nat) (form : RData → EngForm) (r : BitVec 4) (i : Nat) (s : State) : Out :=
  heldRow .cdn op r i (fun _ d => form d) (fun d s => dictDo s r.toNat i d) s

def execDload (r : BitVec 4) (i : Nat) (s : State) : Out := dictRow 3 dloadForm r i s
def execDfree (r : BitVec 4) (i : Nat) (s : State) : Out := dictRow 4 dfreeForm r i s

/-- A held dictionary operation proceeds. -/
def execDictOpProceed (r : BitVec 4) (i : Nat) (s : State) : Out :=
  match descAt s .cdn r.toNat i with
  | none => .next s
  | some d =>
    if isDictOp d then proceedRow .cdn (edOp d.raw) r i (fun d s => dictDo s r.toNat i d) s else .next s

/-! ### Portable frames -/

/-- The frame of PCOMP at `level`: the shortest of the frames that the levels up to it give (R282). -/
def pcompFrame (level flags did : Nat) (sum : Bool) (dict input : List Byte) (d : ZDict) : List Byte :=
  let frame := fun l => zWriteFrame (Config.zstdBlock l (did * 4 + flags) dict input) input did sum d
  (List.range (level - 1)).foldl (fun best k =>
    let f := frame (k + 2)
    if f.length < best.length then f else best) (frame 1)

/-- PCOMP (R280 to R283). -/
def execPcomp (r : BitVec 4) (i : Nat) (s : State) : Out :=
  engRow .cdn 1 r i (fun d s =>
    let use := edFlag d.raw 11
    engRun s .cdn r.toNat i d (pcompForm d.raw) fun s =>
      engRead s .cdn r.toNat i [inSlot d.raw 0 (cdnL d.raw)] fun b s =>
        let out := fun (s : State) (x : Option Dict) (c : List Byte) =>
          let z := match x with
            | some x => dictOf x c
            | none => ZDict.none
          let id := (x.map (·.id)).getD 0
          let f := pcompFrame (fld (edParam d.raw 1) 3 0) (edFlags d.raw) id (edFlag d.raw 10) ((x.map (·.hdr)).getD [] ++ c) (b 0) z
          engOk s .cdn r.toNat i [engOut d.raw 2 f] f.length
        if !use then out s none []
        else match smFind s.dicts (cdnSlot d.raw) with
          | none => engCode s .cdn r.toNat i 0x13 0
          | some x => match dictContent s r.toNat i x with
            | (.error e, s) => dictFail s r.toNat i e
            | (.ok c, s) => out s (some x) c) s

/-- The frames of a PDEC, descriptor `i` of ring `r`, from offset `p`: the bytes of OUT0, and either the end of the input or the failing
frame's code, offset, output offset and ordinal; none for a dictionary that could not be read (R284, R285, R287). `seen`
keeps the content of the slots read. -/
def pdecLoop (r i : Nat) (b : Array Byte) (cap : Nat) (sel : Option Nat) : Nat → Nat → Nat → List (List Byte) → Nat →
    SMap (List Byte) → State → Except (Option XferErr) (List Byte × Option (Nat × Nat × Nat × Nat)) × State
  | 0, _, _, acc, _, _, s => (.ok (acc.reverse.flatMap id, none), s)
  | fuel + 1, p, ord, acc, n, seen, s =>
    let fail := fun (code : Nat) (s : State) => ((.ok (acc.reverse.flatMap id, some (code, p, n, ord)) :
      Except (Option XferErr) (List Byte × Option (Nat × Nat × Nat × Nat))), s)
    let magic := zBits b (8 * p) 32
    if b.size ≤ p then (.ok (acc.reverse.flatMap id, none), s)
    else if b.size < p + 4 then fail 0x18 s
    else if magic / 16 = 0x184D2A5 then
      let next := p + 8 + zBits b (8 * p + 32) 32
      if b.size < p + 8 ∨ b.size < next then fail 0x18 s else pdecLoop r i b cap sel fuel next (ord + 1) acc n seen s
    else if magic ≠ 0xFD2FB528 then fail 0x10 s
    else match zHeader b p b.size with
      | .error e => fail e s
      | .ok hd =>
        let want := if hd.did ≠ 0 then some (s.dicts.find? fun q => decide (q.2.id = hd.did))
          else sel.map fun k => s.dicts.find? fun q => decide (q.1 = k)
        let run := fun (d : ZDict) (seen : SMap (List Byte)) (s : State) =>
          match zFrame b p b.size (cap - n) hd d with
          | .error e => fail e s
          | .ok (out, next) => pdecLoop r i b cap sel fuel next (ord + 1) (out :: acc) (n + out.length) seen s
        match want with
        | none => run ZDict.none seen s
        | some none => fail 0x13 s
        | some (some q) =>
          match smFind seen q.1 with
          | some c => run (dictOf q.2 c) seen s
          | none =>
            match dictContent s r i q.2 with
            | (.error e, s) => (.error e, s)
            | (.ok c, s) => run (dictOf q.2 c) (smPut q.1 c seen) s

/-- PDEC. On an engine code the rest of OUT0 is written as zero (R285). -/
def execPdec (r : BitVec 4) (i : Nat) (s : State) : Out :=
  engRow .cdn 2 r i (fun d s =>
    engRun s .cdn r.toNat i d (pdecForm d.raw) fun s =>
      engRead s .cdn r.toNat i [inSlot d.raw 0 (cdnL d.raw)] fun b s =>
        let cap := cdnC d.raw
        let sel := if edFlag d.raw 10 then some (cdnSlot d.raw) else none
        match pdecLoop r.toNat i (b 0).toArray cap sel (cdnL d.raw + 1) 0 0 [] 0 [] s with
        | (.error e, s) => dictFail s r.toNat i e
        | (.ok (out, none), s) => engOk s .cdn r.toNat i [engOut d.raw 2 out] out.length
        | (.ok (out, some (code, p, n, ord)), s) =>
          engWrite s .cdn r.toNat i [engOut d.raw 2 (sliceZ out 0 cap)] (engStatus ord 0 0 code) (wd (p * 2 ^ 32 + n))) s

/-! ### Deep frames (R289) -/

/-- A deep operation met an uncorrectable codeword in its lane's share of the SRAM (R306): it ends with POISON, SIDE 4. The
reset of the next frame writes the share anew. -/
def deepRun (s : State) (r i : Nat) (d : EngDesc) (form : EngForm) (act : State → State) : State :=
  engRun s .cdn r i d form fun s =>
    match d.lane.filter s.laneBad.contains with
    | some k => engEnd { s with laneBad := s.laneBad.filter (· ≠ k) } .cdn r i 4 4 0
    | none => act s

/-- DENC. -/
def execDenc (r : BitVec 4) (i : Nat) (s : State) : Out :=
  engRow .cdn 8 r i (fun d s =>
    deepRun s r.toNat i d (dencForm d.raw) fun s =>
      engRead s .cdn r.toNat i [inSlot d.raw 0 (cdnL d.raw)] fun b s =>
        let f := dfEncode (b 0)
        engOk s .cdn r.toNat i [engOut d.raw 2 f] f.length) s

/-- DDEC. -/
def execDdec (r : BitVec 4) (i : Nat) (s : State) : Out :=
  engRow .cdn 9 r i (fun d s =>
    deepRun s r.toNat i d (ddecForm d.raw) fun s =>
      engRead s .cdn r.toNat i [inSlot d.raw 0 (cdnL d.raw)] fun b s =>
        let cap := cdnC d.raw
        match dfFrame (b 0) cap with
        | .ok out => engOk s .cdn r.toNat i [engOut d.raw 2 out] out.length
        | .error code => engWrite s .cdn r.toNat i [engOut d.raw 2 (List.replicate cap 0)] (engStatus 0 0 0 code) 0) s

end Sys2Proof.Machine
end

