-- ==== Sys2Proof/Machine/Index.lean ====
section
/-! DEFINITION. The Index (R262 to R273): the table, batches, lookups, and commit. -/

namespace Sys2Proof.Machine
open Sys2Proof

def idxBatchOff : Nat := pg .idx + 0x118

/-! ### The table -/

/-- The candidate buckets of a fingerprint (R263). -/
def idxBuckets (s : State) (nb : Nat) (fp : List Byte) : Nat × Nat :=
  let seed := rget s (pg .idx + 0x108)
  let b := fun p => (mix64 (wd p ^^^ seed)).toNat / 2 ^ 32 * nb / 2 ^ 32
  let b1 := b (leAt fp 0 8)
  let b2 := b (leAt fp 8 8)
  (b1, if b2 = b1 then (b1 + 1) % nb else b2)

/-- The table of a batch as an operation sees it: what it has read and changed, by bucket, as (read, now), the lines read,
and the first failure, `some none` for poison. -/
structure IdxTab where
  st   : State
  bat  : Batch
  memo : SMap (List Byte × List Byte)
  got  : List (XPiece × RData)
  bad  : Option (Option XferErr)

/-- The table before anything is read. -/
def idxTab (s : State) (b : Batch) : IdxTab := { st := s, bat := b, memo := [], got := [], bad := none }

/-- The answers of windows among the lines read go back, since the operation waits for another line. -/
def idxBack (t : IdxTab) : IdxTab :=
  { t with st := t.got.foldl (fun s x => putBack s (initKey 5 x.1.colour (engSrc .idx t.bat.ring)) x.1.pa x.1.n x.2) t.st }

/-- The line of a bucket. -/
def bucketCut (b : Batch) (n : Nat) : EngSlot :=
  { side := 4, ext := runOf b.cap (capCursor b.cap + 64 * n) 64, rights := [], need := needR }

/-- Bucket `n`. -/
def bucket (t : IdxTab) (n : Nat) : List Byte × IdxTab :=
  match smFind t.memo n with
  | some x => (x.2, t)
  | none =>
    if t.bad.isSome then (List.replicate 64 0, t)
    else match engPieces (bindReq .idx t.bat.bind) (bucketCut t.bat n) t.st with
      | (.error e, s) => (List.replicate 64 0, { t with st := s, bad := some (some e) })
      | (.ok ps, s) =>
        match readPieces 5 (engSrc .idx t.bat.ring) ps [] s with
        | (.error .wait, s) => (List.replicate 64 0, idxBack { t with st := s, bad := some (some .wait) })
        | (.error e, s) => (List.replicate 64 0, { t with st := s, bad := some (some e) })
        | (.ok ds, s) =>
          let b := ds.flatMap (·.bytes)
          if ds.any fun d => d.poison.any id then (b, { t with st := s, bad := some none })
          else (b, { t with st := s, memo := smPut n (b, b) t.memo, got := t.got ++ ps.zip ds })

def bucketSet (t : IdxTab) (n : Nat) (b : List Byte) : IdxTab :=
  { t with memo := smPut n (((smFind t.memo n).map (·.1)).getD b, b) t.memo }

/-- Entry `k` of a bucket, and whether it is valid (R262). -/
def entryOf (b : List Byte) (k : Nat) : List Byte := sliceZ b (32 * k) 32
def entryValid (e : List Byte) : Bool := (e.getD 31 0).msb
def fp16 (e : List Byte) : List Byte := e.take 16

/-- The first of the four slots of a fingerprint for which `p` holds of its valid entry (R263). Both buckets are read,
also where the first holds the fingerprint (log 95). -/
def idxFind (t : IdxTab) (fp : List Byte) (p : List Byte → Bool) : Option (Nat × Nat × List Byte) × IdxTab :=
  let (b1, b2) := idxBuckets t.st t.bat.nb fp
  let (x, t) := bucket t b1
  let (y, t) := bucket t b2
  let hit := fun e => entryValid e && decide (fp16 e = fp.take 16) && p e
  (([(b1, 0, entryOf x 0), (b1, 1, entryOf x 1), (b2, 0, entryOf y 0), (b2, 1, entryOf y 1)].find? fun z => hit z.2.2), t)

/-- Slot `k` of bucket `n` holds `e`. -/
def slotPut (t : IdxTab) (n k : Nat) (e : List Byte) : IdxTab :=
  let (b, t) := bucket t n
  bucketSet t n (patch b (32 * k) e)

/-- `e` goes into an empty slot of bucket `n`, if there is one. -/
def slotEmpty (t : IdxTab) (n : Nat) (e : List Byte) : Option IdxTab × IdxTab :=
  let (b, t) := bucket t n
  if !entryValid (entryOf b 0) then (some (slotPut t n 0 e), t)
  else if !entryValid (entryOf b 1) then (some (slotPut t n 1 e), t)
  else (none, t)

/-- The displacements of place() from step `k` on: the table with every entry placed, or none (R268). -/
def placeMove : Nat → Nat → List Byte → Nat → IdxTab → Option IdxTab × IdxTab
  | 0, _, _, _, t => (none, t)
  | fuel + 1, k, cur, b, t =>
    let (x, t) := bucket t b
    let old := entryOf x (k % 2)
    let t := slotPut t b (k % 2) cur
    let (c1, c2) := idxBuckets t.st t.bat.nb (fp16 old)
    let b := if b = c1 then c2 else c1
    match slotEmpty t b old with
    | (some t', _) => (some t', t')
    | (none, t) => placeMove fuel (k + 1) old b t

/-- place() of R268: its outcome, FULL leaving every bucket as it was. -/
def idxPlace (t : IdxTab) (e : List Byte) : Nat × IdxTab :=
  let (b1, b2) := idxBuckets t.st t.bat.nb (fp16 e)
  match slotEmpty t b1 e with
  | (some t, _) => (0, t)
  | (none, t) =>
    match slotEmpty t b2 e with
    | (some t, _) => (0, t)
    | (none, t) =>
      match placeMove 32 0 e b1 t with
      | (some t, _) => (0, t)
      | (none, t') =>
        -- every bucket read stays known; the changes are undone
        (3, { t' with memo := t'.memo.map fun x => (x.1, x.2.1, ((smFind t.memo x.1).map (·.2)).getD x.2.1) })

/-! ### Lookups (R266) -/

/-- A lookup in progress: results (newest first), ordinal of the next record, NEW records of the stream, counts of
FOUND and NEW. -/
structure LookSt where
  tab   : IdxTab
  out   : List (List Byte)
  ord   : Nat
  news  : List (List Byte × Nat)
  found : Nat
  new   : Nat

def lookOne (hooks : Bool) (x : LookSt) (rec : List Byte) : LookSt :=
  let fp := sliceZ rec 0x10 16
  let put := fun (x : LookSt) (b : List Byte) (w : Nat) => { x with out := (sliceZ b 0 12 ++ leBytes 4 w) :: x.out, ord := x.ord + 1 }
  if hooks && decide ((fp.headD 0).toNat % 64 ≠ 0) then put x [] (3 * 2 ^ 28)
  else
    let (r, t) := idxFind x.tab fp fun _ => true
    let x := { x with tab := t }
    match r with
    | some z => put { x with found := x.found + 1 } (sliceZ z.2.2 0x10 12) (leAt z.2.2 0x1C 3)
    | none =>
      match x.news.find? fun n => decide (n.1 = fp) with
      | some n => put x (leBytes 4 n.2) (2 * 2 ^ 28)
      | none => put { x with news := (fp, x.ord) :: x.news, new := x.new + 1 } [] (2 ^ 28)

/-! ### Commit (R268, R269) -/

/-- Unsigned comparison of byte strings. -/
def bytesLt (a b : List Byte) : Bool := decide (beNat a < beNat b)

/-- Stable insertion in the order of FP16. -/
def insByFp (x : Nat × List Byte) : List (Nat × List Byte) → List (Nat × List Byte)
  | [] => [x]
  | y :: ys => if bytesLt (fp16 x.2) (fp16 y.2) then x :: y :: ys else y :: insByFp x ys
def sortByFp (xs : List (Nat × List Byte)) : List (Nat × List Byte) := xs.foldl (fun a x => insByFp x a) []

/-- One REMOVE entry at position `pos`. -/
def commitRemove (a : IdxTab × SMap Nat) (x : Nat × List Byte) : IdxTab × SMap Nat :=
  match idxFind a.1 x.2 fun e => decide (sliceZ e 0x10 12 = sliceZ x.2 0x10 12) with
  | (some z, t) => (slotPut t z.1 z.2.1 (List.replicate 32 0), smPut x.1 8 a.2)
  | (none, t) => (t, smPut x.1 9 a.2)

/-- One INSERT entry in sorted order; `prev` is the FP16 before it. -/
def commitInsert (hooks : Bool) (a : IdxTab × SMap Nat × Option (List Byte)) (x : Nat × List Byte) :
    IdxTab × SMap Nat × Option (List Byte) :=
  let fp := fp16 x.2
  if a.2.2 = some fp then (a.1, smPut x.1 2 a.2.1, some fp)
  else if hooks && decide ((fp.headD 0).toNat % 64 ≠ 0) then (a.1, smPut x.1 4 a.2.1, some fp)
  else match idxFind a.1 fp fun _ => true with
    | (some _, t) => (t, smPut x.1 1 a.2.1, some fp)
    | (none, t) =>
      let (o, t) := idxPlace t (x.2.take 31 ++ [0x80])
      (t, smPut x.1 o a.2.1, some fp)

/-- Phase 1: the table and the outcome of each change. -/
def commitPlan (s : State) (b : Batch) : IdxTab × SMap Nat :=
  let hooks := rbit s (pg .idx + 0x100) 0
  let chg := b.chg.zipIdx
  let rem := (chg.filter fun x => x.1.1).map fun x => (x.2, x.1.2)
  let ins := sortByFp ((chg.filter fun x => !x.1.1).map fun x => (x.2, x.1.2))
  let a := rem.foldl commitRemove (idxTab s b, [])
  let r := ins.foldl (commitInsert hooks) (a.1, a.2, none)
  (r.1, r.2.1)

/-- A bucket as it is written: an empty entry is 32 zero bytes (R262). -/
def bucketOut (b : List Byte) : List Byte :=
  [0, 1].flatMap fun k => if entryValid (entryOf b k) then entryOf b k else List.replicate 32 0

/-- Phase 2: the changed buckets in ascending address order; the last line written is kept for the read-back of R238. -/
def commitWrite (b : Batch) : List (Nat × List Byte × List Byte) → Option ((Nat × BitVec 4 × Nat) × Option TlbEnt) → State →
    Except XferErr (Option ((Nat × BitVec 4 × Nat) × Option TlbEnt)) × State
  | [], last, s => (.ok last, s)
  | (n, was, now) :: xs, last, s =>
    if was = now then commitWrite b xs last s
    else match engPieces (bindReq .idx b.bind) { bucketCut b n with need := needW } s with
      | (.error e, s) => (.error e, s)
      | (.ok ps, s) =>
        match writePieces 5 (engSrc .idx b.ring) (ps.map fun p => (p, bucketOut now, ([] : List Bool))) s with
        | (some e, s) => (.error e, s)
        | (none, s) => commitWrite b xs (lastPiece ps) s

/-- A line of an extent lies behind a port that takes no write now (R403). -/
def extHeld (q : XReq) (x : EngSlot) (s : State) : Bool :=
  match (engPieces q x s).1 with
  | .ok ps => ps.any (pieceHeld s)
  | .error _ => false

/-- Some changed bucket, or the outcomes, cannot be written now: the commit's writes wait together. -/
def commitHeld (b : Batch) (memo : SMap (List Byte × List Byte)) (q : XReq) (outs : List EngSlot) (s : State) : Bool :=
  (memo.any fun x => decide (x.2.1 ≠ x.2.2) && extHeld (bindReq .idx b.bind) (bucketCut b x.1) s) || outs.any fun x => extHeld q x s

/-! ### Descriptors (R264, R272) -/

/-- The extents share a byte with the open batch's table. -/
def hitsTable (s : State) (xs : List EngSlot) : Bool :=
  match s.batch with
  | none => false
  | some b => xs.any fun x => extShare x.ext (runOf b.cap (capCursor b.cap) (64 * b.nb))

/-- The form of an operation with these slots, parameters and extents; `range` says that N or NB is out of range. -/
def idxForm (s : State) (d : RData) (flags : Nat) (slots params : List Nat) (exts : List EngSlot) (range : Bool) : EngForm :=
  { slots := slots, params := params, exts := exts
    own := if slotMissing d slots then 16 else if edFlags d / flags ≠ 0 then 17 else if range then 18
      else if edOp d = 1 then (if capCursor (edSlot d 0) % 64 ≠ 0 then 19 else 0)
      else if hitsTable s exts then 20 else 0 }

def idxOpenForm (s : State) (d : RData) : EngForm :=
  let nb := (edParam d 1).toNat
  idxForm s d 2 [0] ((if edFlag d 10 then [0] else []) ++ [1])
    [{ inSlot d 0 (64 * nb) with rights := [rLoad, rStore], need := needR + needW }] (decide (nb < 2) || decide (1610612736 < nb))

def idxN (d : RData) : Nat := (edParam d 0).toNat
def idxNBad (d : RData) : Bool := decide (idxN d < 1) || decide (65536 < idxN d)

/-- The batch of ring `r`. -/
def ownBatch (s : State) (r : Nat) : Option Batch := s.batch.filter fun b => decide (b.ring = r)

/-- The physical bytes of the table that ring `r` opens. -/
def tableUses (s : State) (r : Nat) (c : Cap) (nb : Nat) : List (Nat × Nat) :=
  extUses (ringReq s .idx r) (needR + needW) (runOf c (capCursor c) (64 * nb)) s

/-- OPEN once no other ring's batch is open (R265). The batch is open from here on, also where the completion write of the
descriptor fails afterwards (log 95). -/
def idxOpen (s : State) (r i : Nat) (d : RData) : State :=
  let epoch := rget s (pg .idx + 0x110)
  if (ownBatch s r).isSome then engCode s .idx r i 0x11 0
  else if edFlag d 10 && decide (edParam d 0 ≠ epoch) then engCode s .idx r i 0x12 0
  else if rbit s idxBatchOff 62 then engCode s .idx r i 0x15 0
  else
    let nb := (edParam d 1).toNat
    let b : Batch :=
      { ring := r, bind := rcfg s .idx r, cap := edSlot d 0, nb := nb, chg := [], look := 0, news := []
        uses := tableUses s r (edSlot d 0) nb, torn := false }
    let s := { s with batch := some b }
    let s := rset s (pg .idx + 0x120) epoch
    let s := rset s idxBatchOff (wd (2 ^ 63 + r * 2 ^ 48))
    engOk s .idx r i [] epoch.toNat

/-- OPEN: it waits while another ring owns the batch, and behind the OPENs that wait. -/
def execOpenBatch (r : BitVec 4) (i : Nat) (s : State) : Out :=
  heldRow .idx 1 r i idxOpenForm (fun d s => idxOpen s r.toNat i d.raw) s

/-- A waiting OPEN proceeds once the batch has closed. -/
def execOpenProceed (r : BitVec 4) (i : Nat) (s : State) : Out :=
  proceedRow .idx 1 r i (fun d s => idxOpen s r.toNat i d.raw) s

/-- An operation on the ring's own batch, in the order of the ring. -/
def idxRow (op : Nat) (r : BitVec 4) (i : Nat) (form : State → RData → EngForm) (act : EngDesc → Batch → State → State)
    (s : State) : Out :=
  engRow .idx op r i (fun d s =>
    engRun s .idx r.toNat i d (form s d.raw) fun s =>
      match ownBatch s r.toNat with
      | none => engCode s .idx r.toNat i 0x10 0
      | some b => act d b s) s

/-- What the batch becomes once the descriptor has completed (R267). The descriptor used the batch's table. -/
def batchThen (s : State) (r i : Nat) (b : Batch) : State :=
  modDesc (descUse s .idx r i b.uses b.torn) .idx r i fun d => { d with next := some b }

/-- Failure of a table access (R269, R273). -/
def idxFail (s : State) (r i : Nat) (bad : Option XferErr) : State :=
  match bad with
  | none => engEnd s .idx r i 4 4 0
  | some e => engFail s .idx r i e

def recsOf (n : Nat) (b : List Byte) (size : Nat) : List (List Byte) := (List.range n).map fun k => sliceZ b (size * k) size

/-- LOOKUP. -/
def execLookup (r : BitVec 4) (i : Nat) (s : State) : Out :=
  let form := fun s d => idxForm s d 1 [0, 2] [0] [inSlot d 0 (48 * idxN d), outSlot d 2 (16 * idxN d)] (idxNBad d)
  idxRow 2 r i form (fun d b s =>
    let n := idxN d.raw
    if 65536 < b.look + n then engCode s .idx r.toNat i 0x13 0
    else engRead s .idx r.toNat i [inSlot d.raw 0 (48 * n)] fun data s =>
      let x0 : LookSt := { tab := idxTab s b, out := [], ord := b.look, news := b.news, found := 0, new := 0 }
      let x := (recsOf n (data 0) 48).foldl (lookOne (rbit s (pg .idx + 0x100) 0)) x0
      match x.tab.bad with
      | some bad => idxFail x.tab.st r.toNat i bad
      | none =>
        engOk (batchThen x.tab.st r.toNat i { b with look := b.look + n, news := x.news }) .idx r.toNat i
          [engOut d.raw 2 (x.out.reverse.flatMap id)] (x.found * 2 ^ 32 + x.new)) s

/-- INSERT and REMOVE append to the change stream. -/
def idxAppend (op : Nat) (rm : Bool) (r : BitVec 4) (i : Nat) (s : State) : Out :=
  let form := fun s d => idxForm s d 1 [0] [0] [inSlot d 0 (32 * idxN d)] (idxNBad d)
  idxRow op r i form (fun d b s =>
    let n := idxN d.raw
    if 65536 < b.chg.length + n then engCode s .idx r.toNat i 0x13 0
    else engRead s .idx r.toNat i [inSlot d.raw 0 (32 * n)] fun data s =>
      engOk (batchThen s r.toNat i { b with chg := b.chg ++ (recsOf n (data 0) 32).map fun e => (rm, e) }) .idx r.toNat i [] n) s

def execInsert (r : BitVec 4) (i : Nat) (s : State) : Out := idxAppend 3 false r i s
def execRemove (r : BitVec 4) (i : Nat) (s : State) : Out := idxAppend 4 true r i s

/-- A commit that failed in phase 2: its outcomes are not written. -/
def commitDamaged (s : State) (r i : Nat) (e : XferErr) : State :=
  intSet (rsetB (batchClose (engFail (engIssued s .idx r i false) .idx r i e)) idxBatchOff 62 true) .idx 0 2

/-- Phase 2 has ended on a batch whose table software may have written to: then the table, and what the descriptor gives, are
undefined (R271, assumption log 84). -/
def commitTorn (s : State) (r i : Nat) (b : Batch) : State :=
  let s := descUse s .idx r i b.uses b.torn
  if b.torn then undefExt (bindReq .idx b.bind) .idx r s
    { side := 4, ext := runOf b.cap (capCursor b.cap) (64 * b.nb), rights := [], need := needW }
  else s

/-- COMMIT. A failure of phase 1 writes nothing. -/
def execCommit (r : BitVec 4) (i : Nat) (s : State) : Out :=
  let form := fun s d =>
    let c := idxN d
    idxForm s d 1 (if c = 0 then [] else [2]) [0] (if c = 0 then [] else [outSlot d 2 c]) false
  idxRow 5 r i form (fun d b s =>
    let c := idxN d.raw
    if c ≠ 0 ∧ c < b.chg.length then engCode s .idx r.toNat i 0x14 0
    else
      let (t, out) := commitPlan s b
      match t.bad with
      | some bad => idxFail (engIssued t.st .idx r.toNat i false) r.toNat i bad
      | none =>
        if commitHeld b t.memo (ringReq t.st .idx r.toNat) (if c = 0 then [] else [outSlot d.raw 2 c]) t.st then (idxBack t).st
        else match commitWrite b t.memo none t.st with
        | (.error e, s) => commitDamaged (commitTorn s r.toNat i b) r.toNat i e
        | (.ok last, s) =>
          let s := commitTorn s r.toNat i b
          let epoch := rget s (pg .idx + 0x110) + 1
          let s := rset (batchClose s) (pg .idx + 0x110) epoch
          let bytes := (List.range b.chg.length).map fun k => BitVec.ofNat 8 (smGet 0 out k)
          engWriteAfter s .idx r.toNat i last (if c = 0 then [] else [engOut d.raw 2 bytes]) 0 (wd epoch.toNat)) s

/-- ABORT. -/
def execAbort (r : BitVec 4) (i : Nat) (s : State) : Out :=
  idxRow 6 r i (fun s d => idxForm s d 1 [] [] [] false) (fun _ _ s =>
    engOk (batchClose s) .idx r.toNat i [] (rget s (pg .idx + 0x110)).toNat) s

end Sys2Proof.Machine
end

