-- ==== Sys2Proof/Machine/EngRows.lean ====
section
/-! DEFINITION. The rings of the engines (R238 to R242): anchors, the fetch and acceptance of descriptors, their
completion in slot order, and bus errors. -/

namespace Sys2Proof.Machine
open Sys2Proof

/-- The OPs an engine assigns. -/
def engOps : Eng → List Nat
  | .chk => [1, 2]
  | .idx => [1, 2, 3, 4, 5, 6]
  | .cdn => [1, 2, 3, 4, 8, 9]
  | .cph => [1, 2]
  | .cdr => [1, 2, 3]

/-- The ring may read its anchor or fetch. -/
def ringLive (s : State) (e : Eng) (r : Nat) (p : RingPhase) : Bool :=
  engLive s e && decide (ringState s e r = 1) && decide ((ringAt s e r).phase = p) && (ringAt s e r).err.isNone

/-- The ring may fetch the slot at HEAD: some slot is not accepted yet, no descriptor of it waits in a way that keeps the
ring RUNNING, and the Cipher accepts nothing while a wipe runs (R331). -/
def ringFetch (s : State) (e : Eng) (r : Nat) : Bool :=
  ringLive s e r .fetch && decide ((ringAt s e r).descs.length < 2 ^ ringLog2n s e r) && !ringWaits s e r &&
    !(decide (e = .cph) && rbit s (pg .lct + 0x118) 8)

/-- The fetch of a ring has begun, and waits at a window. -/
def fetchSent (s : State) (e : Eng) (r : Nat) : Bool :=
  let key := initKey 5 (BitVec.ofNat 4 (capColour (ringAt s e r).anchor)) (fetchSrc e r)
  let has := fun (rs : List OutRead) (ds : List ReadDone) => rs.any (fun x => decide (x.src = key)) || ds.any fun x => decide (x.src = key)
  (s.hosts.any fun p => has (p.2.io.reads ++ p.2.io.waitR) p.2.io.dones) ||
    (s.meds.any fun p => has (p.2.io.reads ++ p.2.io.waitR) p.2.io.dones) || s.peers.any fun p => has (p.2.reads ++ p.2.waitR) p.2.dones

/-- The ring whose slot the engine takes next: chosen as R240 chooses among those that may fetch. -/
def fetchTurn (s : State) (e : Eng) (r : Nat) : Bool :=
  decide (ringPick s e 0 ((List.range 16).filter fun n => ringFetch s e n && !fetchSent s e n) = some r)

/-- A bus error of an anchor read or a fetch: recorded, and the ring stops (R241). -/
def ringBusStop (s : State) (e : Eng) (r wh pa txn gate cause : Nat) : State :=
  ringHalt (engRecord s e r { pa := pa, txn := txn, gate := gate, cause := cause, who := none, side := 4 }) e r wh 3 0

/-- The anchor granule of a ring is read and checked (R239). -/
def execEngineAnchorRead (e : Eng) (r : BitVec 4) (s : State) : Out :=
  let n := r.toNat
  if !ringLive s e n .anchor then .next s
  else
    let pa := spadBase + rfld s (pg (engPage e) + 0x800) 25 8 * 256 + 16 * n
    match fabricTxn s pa 16 .read 5 0 (fetchSrc e n) 0 with
    | (.ok d, s) =>
      let c := granCap d 0
      if d.poison.any id then .next (ringHalt s e n 1 4 0)
      else match headCheck c (128 * 2 ^ ringLog2n s e n) with
        | some k => .next (ringHalt s e n 1 2 k)
        | none => .next (setRing s e n { ringAt s e n with phase := .fetch, anchor := c })
    | (x, s) => .next (ringBusStop s e n 1 pa 0 (respCause pa x).1 (respCause pa x).2)

/-- The extents that the OP of a descriptor defines. -/
def engExts (d : RData) (e : Eng) : List EngSlot :=
  let len := cphA d + cphL d
  match e, edOp d with
  | .chk, 1 => (chunkForm d).exts
  | .chk, 2 => (fprintForm d).exts
  | .idx, 1 => [inSlot d 0 (64 * (edParam d 1).toNat)]
  | .idx, 2 => [inSlot d 0 (48 * idxN d), outSlot d 2 (16 * idxN d)]
  | .idx, 3 | .idx, 4 => [inSlot d 0 (32 * idxN d)]
  | .idx, 5 => [outSlot d 2 (idxN d)]
  | .cdn, 1 => (pcompForm d).exts
  | .cdn, 2 => (pdecForm d).exts
  | .cdn, 3 => (dloadForm d).exts
  | .cdn, 8 => (dencForm d).exts
  | .cdn, 9 => (ddecForm d).exts
  | .cph, 1 => (cphForm d len (len + 16)).exts
  | .cph, 2 => (cphForm d (len + 16) (cphL d)).exts
  | .cdr, 1 => (runForm d).exts
  | .cdr, 2 => (ploadForm d).exts
  | .cdr, 3 => (cauchyForm d).exts
  | _, _ => []

/-- The physical bytes of a descriptor's extents: of none where its capabilities do not allow them. -/
def engUses (s : State) (e : Eng) (r : Nat) (d : RData) : List (Nat × Nat) :=
  let xs := (engExts d e).filter fun x => !edNull d x.side
  if (engCapFault xs).isSome then [] else xs.flatMap fun x => extUses (ringReq s e r) x.need x.ext s

/-- A descriptor is accepted: HEAD advances, and what the descriptor takes with it is read (R239, R331). A descriptor with
an unassigned OP is rejected at once (R236). From here on a write of software to its extents leaves its outputs and RESULT
undefined (R246, assumption log 84). -/
def ringAccept (s : State) (e : Eng) (r va pa : Nat) (d : RData) : State :=
  let ((aux, bad), s) := if e = .cph then handleSlot s d else (([], false), s)
  let x := ringAt s e r
  let desc : EngDesc :=
    { va := va, pa := pa, colour := BitVec.ofNat 4 (capColour x.anchor), raw := d
      fin := if (engOps e).contains (edOp d) then none else some (engStatus 0 4 1 7, 0)
      last := none, lastXl := none, begun := false, lane := none, issued := false, wiped := false, aux := aux, auxBad := bad
      next := none, seq := s.accepts, uses := engUses s e r d, torn := false }
  let s := setRing s e r { x with descs := x.descs ++ [desc] }
  setRingHead { s with accepts := s.accepts + 1 } e r ((ringHead s e r + 1) % 2 ^ ringLog2n s e r)

/-- The slot at HEAD is fetched, once the engine's choice of a ring falls on this one (R240). -/
def execEngineDescriptorFetch (e : Eng) (r : BitVec 4) (s : State) : Out :=
  let n := r.toNat
  let x := ringAt s e n
  if !ringFetch s e n || !(fetchSent s e n || fetchTurn s e n) then .next s
  else
    let s := if fetchSent s e n then s else ringChosen s e 0 n
    let va := capCursor x.anchor + 128 * ringHead s e n
    match descFetch (ringReq s e n) 5 (fetchSrc e n) x.anchor va s with
    | (.error .wait, s) => .next s
    | (.error (.xlat _ _), s) => .next (ringHalt s e n 2 5 0)
    | (.error (.bus pa txn g k _), s) => .next (ringBusStop s e n 2 pa txn g k)
    | (.ok (pa, d), s) =>
      if d.poison.any id then .next (ringHalt s e n 2 4 0)
      else if bitAt (edWord d 0) 63 then .next (ringAccept s e n va pa d)
      else if rbit s (rstatOff e n) 8 then .next (rsetB s (rstatOff e n) 8 false)
      else .next (setRing (setRingState s e n 2) e n { ringAt s e n with phase := .idle })

/-! ### Completion -/

/-- The slot of a descriptor. -/
def descSlot (s : State) (e : Eng) (r va : Nat) : Nat := (va - capCursor (ringAt s e r).anchor) / 128

/-- A completion write at offset `off` of a descriptor. -/
def engCplWrite (s : State) (e : Eng) (r : Nat) (d : EngDesc) (off txn : Nat) (b : List Byte) : Except XferErr Unit × State :=
  match xferPa (ringReq s e r) (d.va + off) needW 4 s with
  | (.error x, s) => (.error x, s)
  | (.ok (pa, _), s) =>
    match fabricTxn s pa b.length (.write b [] []) 5 d.colour (engSrc e r) 0 with
    | (.ok _, s) => (.ok (), s)
    | (x, s) => (.error (busFail pa txn 4 x), s)

/-! ### Outputs that are left undefined (R238, R242) -/

/-- The output extents that the OP of a descriptor defines. -/
def engOuts (d : RData) (e : Eng) : List EngSlot :=
  (engExts d e).filter fun x => decide (2 ≤ x.side) && !edNull d x.side

/-- The outputs of a descriptor that ended in the fault class or was abandoned, or whose extents software wrote to (R246):
undefined within the extents that its OP defines and its capabilities allow. -/
def engUndef (e : Eng) (r : Nat) (d : RData) (s : State) : State :=
  let outs := engOuts d e
  if (engCapFault outs).isSome then s
  else outs.foldl (fun s x => undefExt (ringReq s e r) e r s x) s

/-- The descriptors that a ring accepted after its oldest are abandoned (R242). -/
def engAbandon (s : State) (e : Eng) (r : Nat) : State :=
  ((ringAt s e r).descs.drop 1).foldl (fun s d => engUndef e r d.raw s) s

/-- A completion write that fails stops the ring at this descriptor (R241); so does a translation that no longer holds
(assumption log 24). -/
def engCplFail (s : State) (e : Eng) (r : Nat) (d : EngDesc) (x : XferErr) : State :=
  let stop := fun (s : State) (code : Nat) =>
    let s := engAbandon s e r
    ringStop (setRingHead s e r (descSlot s e r d.va)) e r 3 code 0
  match x with
  | .xlat _ _ => stop s 5
  | .bus pa txn g k side => stop (engRecord s e r { pa := pa, txn := txn, gate := g, cause := k, who := some 0, side := side }) 3
  | .wait => s

/-- What the engine's own state becomes when a descriptor has completed with `code`: the Index's batch with its CHANGES and
LOOKUPS (R267), the Coder's count of PLOADs (R322). -/
def engAfter (s : State) (e : Eng) (d : EngDesc) (code : Nat) : State :=
  match e with
  | .idx =>
    match d.next with
    | some b =>
      if faultCode code || s.batch.isNone then s
      else rsetF (rsetF { s with batch := some { b with torn := s.batch.any (·.torn) } } (pg .idx + 0x118) 40 24 b.chg.length) (pg .idx + 0x118) 16 0 b.look
    | none => s
  | .cdr => if edOp d.raw = 2 then rincF s (pg .cdr + 0x110) 31 0 else s
  | _ => s

/-- RESULT as it is written: a free value where software wrote to what the descriptor uses (R246). -/
def engResult (s : State) (d : EngDesc) (result : Word) : Word × State :=
  if d.torn then (Config.freeWord s.free, { s with free := s.free + 1 }) else (result, s)

/-- OWN is clear: the bells in their order, and then the ring goes on or stops (R238, R242). A fault-class code, and a write
in breach of R246, leaves the outputs undefined, unless the operation had issued nothing (R236, R237, R269). -/
def engFollow (s : State) (e : Eng) (r : Nat) (d : EngDesc) (code : Nat) : State :=
  let ctrl := edWord d.raw 0
  let s := if (faultCode code || d.torn) && d.issued then engUndef e r d.raw s else s
  let s := if faultCode code then engAbandon s e r else s
  let s := engAfter s e d code
  let s := if bitAt ctrl 9 then engRing s e r 0 else s
  let s := if faultCode code then engRing s e r 1 else s
  let s := if bitAt ctrl 31 then ringBell s (fld ctrl 27 16) else s
  if faultCode code then
    ringStop (setRingHead s e r ((descSlot s e r d.va + 1) % 2 ^ ringLog2n s e r)) e r 3 0 0
  else
    let x := ringAt s e r
    ringSettle (setRing s e r { x with descs := x.descs.drop 1 }) e r

/-- The oldest descriptor of a ring completes: read-back, STATUS and RESULT, CTRL, bells (R238, R215). What the read-back
returns is discarded: poison met there ends nothing (log 95). -/
def execEngineDescriptorComplete (e : Eng) (r : BitVec 4) (s : State) : Out :=
  let n := r.toNat
  match descAt s e n 0 with
  | none => .next s
  | some d =>
    match d.fin with
    | none => .next s
    | some (status, result) =>
      if !engLive s e || (ringAt s e n).err.isSome then .next s
      else
        let back : Option XferErr × State := match d.last with
          | none => (none, s)
          | some (pa, col, side) =>
            match fabricTxn s pa 64 .read 5 col (engSrc e n) 0 with
            | (.ok _, s) => (none, s)
            | (x, s) => (some (busFail pa 5 side x), s)
        match back with
        | (some x, s) => .next (engFail s e n 0 x)
        | (none, s) =>
          let (result, s) := engResult s d result
          match engCplWrite s e n d 0x70 6 (leBytes 8 status.toNat ++ leBytes 8 result.toNat) with
          | (.error x, s) => .next (engCplFail s e n d x)
          | (.ok _, s) =>
            match engCplWrite s e n d 0 7 (leBytes 8 (setBit (edWord d.raw 0) 63 false).toNat) with
            | (.error x, s) => .next (engCplFail s e n d x)
            | (.ok _, s) => .next (engFollow s e n d (fld status 7 0))

/-- A bus error ends its descriptor with GATE_ERROR (R241). -/
def execEngineBusError (e : Eng) (r : BitVec 4) (s : State) : Out :=
  let n := r.toNat
  match (ringAt s e n).err with
  | none => .next s
  | some x =>
    let s := engRecord s e n x
    let s := setRing s e n { ringAt s e n with err := none }
    .next (engEnd s e n (x.who.getD 0) 3 x.side x.cause)

end Sys2Proof.Machine
end

