-- ==== Sys2Proof/Machine/Evict.lean ====
section
/-! DEFINITION. Eviction and loading of banks (R64 to R66, R93, R337). -/

namespace Sys2Proof.Machine
open Sys2Proof

/-! ### Bank images (R66) -/

/-- A number whose fields are, from bit 0 up, these (width, value) pairs. -/
def packBits : List (Nat × Nat) → Nat
  | [] => 0
  | (w, v) :: fs => v % 2 ^ w + 2 ^ w * packBits fs

/-- The capabilities of a bank in the order of the image. -/
def bankCaps (c : Ctx) : List Cap := c.pcc :: (List.range 135).map fun i => smGet Cap.null c.bank (i + 1)

/-- The control state of an image: 56 bytes in the model's own arrangement, which software cannot see. -/
def packControl (c : Ctx) : List Byte :=
  let f := c.flags
  capBytes c.alh ++ leBytes 8 c.alm.toNat ++
    leBytes 8 (packBits [(1, b2n c.alh.tag), (1, b2n c.em), (1, b2n c.dze), (1, b2n c.ove), (1, b2n f.n), (1, b2n f.z),
      (1, b2n f.c), (1, b2n f.v), (3, c.cwp), (3, c.depth), (1, b2n c.repAct), (6, c.alb.toNat), (1, b2n c.super),
      (1, b2n c.mode.xlat), (16, c.mode.asid.toNat)]) ++
    leBytes 8 c.repCnt.toNat ++ List.replicate 16 0

/-- The FP state of an image: 272 bytes. -/
def packFp (f : FpState) : List Byte :=
  ((List.range 32).flatMap fun i => leBytes 8 (smGet 0 f.regs i).toNat) ++ leBytes 8 f.fcsr.toNat ++ leBytes 8 f.taddr.toNat

/-- The body of an image, bytes 0x010 to 0x9EF. -/
def packBody (c : Ctx) (f : FpState) : List Byte :=
  let caps := bankCaps c
  (caps.flatMap capBytes) ++ leBytes 24 (bitsNat (caps.map (·.tag))) ++ packControl c ++ packFp f

/-- The context of an image body, PARKED. -/
def unpackBody (world : Bool) (b : List Byte) : Ctx :=
  let tags := leAt b 0x880 24
  let cap (i : Nat) : Cap := { bits := BitVec.ofNat 128 (leAt b (16 * i) 16), tag := tags.testBit i }
  let w := leAt b (0x898 + 24) 8
  let bank := (List.range 135).foldl (fun m i => smSet Cap.null m (i + 1) (cap (i + 1))) []
  { Ctx.empty with
    run := .parked, cust := world, super := w.testBit 21, pcc := cap 0, bank := bank
    alh := { bits := BitVec.ofNat 128 (leAt b 0x898 16), tag := w.testBit 0 }
    alm := wd (leAt b (0x898 + 16) 8), alb := BitVec.ofNat 6 (nfld w 20 15)
    em := w.testBit 1, dze := w.testBit 2, ove := w.testBit 3
    flags := { n := w.testBit 4, z := w.testBit 5, c := w.testBit 6, v := w.testBit 7 }
    cwp := nfld w 10 8, depth := nfld w 13 11, repAct := w.testBit 14
    repCnt := BitVec.ofNat 32 (leAt b (0x898 + 32) 4)
    mode := { asid := BitVec.ofNat 16 (nfld w 38 23), xlat := w.testBit 22 } }

/-- The FP state of an image body. -/
def unpackFp (b : List Byte) : FpState :=
  let o := 0x8D0
  { FpState.zero with
    regs := (List.range 32).foldl (fun m i => smSet 0 m i (wd (leAt b (o + 8 * i) 8))) []
    fcsr := wd (leAt b (o + 256) 8), taddr := wd (leAt b (o + 264) 8) }

/-- An image under the key and nonce in force (R66, R337), and the state with the nonce used. -/
def sealImage (s : State) (world : Bool) (body : List Byte) : List Byte × State :=
  let nonce := leBytes 12 s.island.nonce
  let hdr : List Byte := [1, 0, BitVec.ofNat 8 (b2n world), 0] ++ nonce
  let (c, t) := gcmEncrypt (beBytes 32 (Config.imageKey s.island.keyNo).toNat) nonce hdr body
  (hdr ++ c ++ t, { s with island := { s.island with nonce := s.island.nonce + 1 } })

/-- The world and body of an authentic image. -/
def openImage (s : State) (img : List Byte) : Option (Bool × List Byte) :=
  if img.take 2 ≠ [1, 0] then none
  else
    (gcmDecrypt (beBytes 32 (Config.imageKey s.island.keyNo).toNat) ((img.drop 4).take 12) (img.take 16)
      ((img.drop 16).take 0x9E0) (img.drop 0x9F0)).map fun b => (decide (img.getD 2 0 ≠ 0), b)

/-! ### The instructions -/

/-- The seal unit has an image key (R337). -/
def imageReady (s : State) : Bool := domOn s 2 && rbit s (pg .seal + 0x100) 0

/-- A context is named by its world's designations in SVCCX (R64, R141). -/
def designated (s : State) (x : CtxId) : Bool :=
  let t := ctxAt s x
  [true, false].any fun f => decide (svcEff s (coreOf x) t.cust f = some (cxLow x))

/-- The target of eviction: not EMPTY and not designated. -/
def evictable (s : State) (x : CtxId) : Bool := decide ((ctxAt s x).run ≠ .empty) && !designated s x

/-- The checks of R64 and R65: the target, and the area's lines translated. -/
def imageArea (cx : CtxId) (word : BitVec 32) (rs1 rs2 : Reg) (ok : State → CtxId → Bool) (right need : Nat) (c : Ctx) (s : State) :
    Except Res (CtxId × CoreAcc × List Piece × State) :=
  match ctlTarget s cx c (readInt c rs1) (fun _ => true) with
  | .error k => .error (.fault s (flt k))
  | .ok x =>
    let a := readReg c rs2
    let at' := capCursor a
    if !ok s x then .error (.fault s (flt kIllegal))
    else match capCheck a [right] true false at' 2560 with
      | some k => .error (.fault s (accFault k at' rs2.toNat 0))
      | none =>
        if at' % 64 ≠ 0 then .error (.fault s (accFault kCapAlign at' rs2.toNat 0))
        else
          let acc : CoreAcc := { cx := cx, c := c, reg := rs2.toNat, cap := a, word := word }
          match xlateParts acc need false 0 (linesOf at' 2560) s with
          | .error r => .error r
          | .ok (ps, s) => if imageReady s then .ok (x, acc, ps, s) else .error (.stall s .imageKey)

/-- The target's loads, FP operations and divide complete, and its stores drain (step 2 of R64). -/
def settleCtx (s : State) (x : CtxId) : State :=
  let c := ctxAt s x
  let s := setCtx s x { c with loads := [], fp := [], div := none }
  let s := c.loads.foldl (fun s l => loadLand s x l) s
  let s := c.fp.foldl (fun s o => fpLand s x o) s
  let s := match c.div with
    | some (k, v) => if k = 0 then s else setCtx s x (writeKey (ctxAt s x) k (intCap v))
    | none => s
  drainAll s x

/-- A line of an image is written as a store of the issuer is (R12, R57): into the cluster cache where the area is
cacheable, and otherwise to its target. Its tags are cleared (R26). -/
def imageStore (a : CoreAcc) (p : Piece) (d : List Byte) (s : State) : Resp × State :=
  let core := coreOf a.cx
  let cls := ctxClass a.c
  let colour := BitVec.ofNat 4 (capColour a.cap)
  let src := (cxidWord a.cx a.c).toNat
  if cacheable s core p.pa p.uc then
    match l2Line s (clusterOf core) p.pa cls colour kW src with
    | (.ok l, s) =>
      (.ok noData, l2Store s core l
        { pa := p.pa, data := d, tag := false, cls := cls, colour := colour, cached := true, xl := p.ent, old := false })
    | (.error r, s) => (r, s)
  else fabricTxn s p.pa 64 (.write d [] []) cls colour src 0

/-- The image's lines written in order, each judged with the issuer's class and the area's colour (R64). -/
def writeImage (a : CoreAcc) : List Piece → List Byte → State → Except Res State
  | [], _, s => .ok s
  | p :: ps, d, s =>
    match imageStore a p (d.take 64) s with
    | (.ok _, s) => writeImage a ps (d.drop 64) (softWrite s p.pa 64)
    | (.pending, s) => .error (.stall s .port)
    | (r, s) => .error (.fault s (respFault r (accFault kGate p.va a.reg 0)))

/-- The issuer's own stores have drained: what an image is written over, or read from, is ordered behind them (R12). -/
def issuerDrained (s : State) (cx : CtxId) : Bool := decide ((ctxAt s cx).stores = [])

/-- CXEVICT (R64). The issuer waits for its own stores to drain, for a REPU in progress on the target to end, and for the
target's stores to drain. -/
def execCxevict (cx : CtxId) (rs1 rs2 : Reg) (s : State) : Out :=
  let word := wReg 0x1A 0 rs1 rs2 0
  issue cx { word := word, reads := [rs1, rs2] }
    (fun c s => match imageArea cx word rs1 rs2 evictable rStore needW c s with
      | .error r => r
      | .ok (x, a, ps, s) =>
        if !issuerDrained s cx then .stall s .drain
        else if inRepu (ctxAt s x) && decide ((ctxAt s x).run ≠ .parked) then .stall (parkSoon s x) .settle else
        let s := settleCtx (parkOp s x) x
        let t := ctxAt s x
        if t.stores ≠ [] then .stall s .settle else
        let (img, s) := sealImage s t.cust (packBody t (fpOf s x))
        match writeImage a ps img s with
        | .error r => r
        | .ok s => .done (emptyCtx s x)) s

/-- A piece of an image whose read at a port window has not been answered. -/
def imagePending (a : CoreAcc) (p : Piece) (s : State) : Bool × State :=
  let (b, s) := readReady s p.pa 64 (ctxClass a.c) (BitVec.ofNat 4 (capColour a.cap)) (cxidWord a.cx a.c).toNat p.ent
  (!b, s)

/-- The lines of an image read in order, as a load of the issuer reads (R12). -/
def readImage (a : CoreAcc) : List Piece → State → Except Res (List Byte × State)
  | [], s => .ok ([], s)
  | p :: ps, s =>
    match readPiece a p s with
    | (.ok d, s) =>
      if d.poison.any id then .error (.fault s (accFault kPoison p.va a.reg 0))
      else match readImage a ps s with
        | .ok (b, s) => .ok (d.bytes ++ b, s)
        | .error r => .error r
    | (.pending, s) => .error (.stall s .port)
    | (r, s) => .error (.fault s (respFault r (accFault kGate p.va a.reg 0)))

/-- CXLOAD (R65). -/
def execCxload (cx : CtxId) (rd rs1 rs2 : Reg) (s : State) : Out :=
  let word := wReg 0x1A rd rs1 rs2 1
  issue cx { word := word, reads := [rs1, rs2], writes := [rd] }
    (fun c s => match imageArea cx word rs1 rs2 (fun s x => decide ((ctxAt s x).run = .empty)) rLoad needR c s with
      | .error r => r
      | .ok (x, a, ps, s) =>
        if !issuerDrained s cx then .stall s .drain else
        let (wait, s) := ps.foldl (fun (r : Bool × State) p => let (w, s) := imagePending a p r.2; (r.1 || w, s)) (false, s)
        if wait then .stall s .port
        else match readImage a ps s with
          | .error r => r
          | .ok (img, s) =>
            let verdict (s : State) (v : Nat) : Res := .done (setCtx s cx (writeInt (ctxAt s cx) rd (wd v)))
            match openImage s img with
            | none => verdict s 1
            | some (w, b) =>
              if !c.cust && w then verdict s 2
              else verdict (setFp (setCtx s x (unpackBody w b)) x (unpackFp b)) 0) s

end Sys2Proof.Machine
end

