-- ==== Sys2Proof/Machine/Illegal.lean ====
section
/-! DEFINITION. Instruction words whose encoding is unassigned or breaks a field rule (R70, R72, R73 and the rule of
each group): their issue faults ILLEGAL. -/

namespace Sys2Proof.Machine
open Sys2Proof

/-- Field [hi:lo] of an instruction word. -/
def wf (w : BitVec 32) (hi lo : Nat) : Nat := nfld w.toNat hi lo

def wOp (w : BitVec 32) : Nat := wf w 31 26
def wRd (w : BitVec 32) : Nat := wf w 25 21
def wRs1 (w : BitVec 32) : Nat := wf w 20 16
def wRs2 (w : BitVec 32) : Nat := wf w 15 11
def wFunc (w : BitVec 32) : Nat := wf w 10 0

/-- A rounding field that R126 admits, for an operation that rounds or one that does not. -/
def roundOk (rounds : Bool) (rm : Nat) : Bool :=
  if rounds then decide (rm ≠ 5) && decide (rm ≠ 6) else decide (rm = 0)

/-- Integer groups: ops 0x01 to 0x0B (R74, R76 to R78, R80 to R82). -/
def okInteger (w : BitVec 32) : Bool :=
  let f := wFunc w
  match wOp w with
  | 0x01 => decide (f % 1024 ≤ 0x1A) && (decide (wRs2 w = 0) || decide (f % 1024 < 0x10) || decide (0x18 < f % 1024))
  | 0x02 =>
    let c := wRs2 w % 16
    decide (c ≤ 10) && (decide (c < 5) || decide (8 < c) || decide (f < 64))
  | 0x03 | 0x04 | 0x08 => true
  | 0x05 => decide (f ≤ 7) && decide (f ≠ 3)
  | 0x06 => decide (f = 0) && decide (wRs1 w = 0) && decide (8 ≤ wRd w) && decide (wRd w % 2 = 0)
  | 0x09 => decide (wf w 25 22 ≠ 15)
  | 0x0A => decide (wf w 25 22 ≠ 15) && decide (wf w 21 21 = 0)
  | 0x0B => decide (wRs2 w = 0) && (decide (f = 1) || (decide (f = 0) && decide (wRd w = 0)))
  | _ => false

/-- Codes of stores (R84). -/
def storeCode (c : Nat) : Bool := decide (c < 4) || decide (c = 7)

/-- Memory, capability and system-register groups: ops 0x10 to 0x1C (R84 to R94). -/
def okMemory (w : BitVec 32) : Bool :=
  let f := wFunc w
  let z (b : Bool) (x : Nat) : Bool := b || decide (x = 0)
  match wOp w with
  | 0x10 => decide (wRs2 w ≤ 7)
  | 0x11 => storeCode (wRd w)
  | 0x12 => decide (f ≤ 7)
  | 0x13 => storeCode f
  | 0x14 => decide (f ≤ 2)
  | 0x15 => decide (f ≤ 1) && decide (wf w 25 11 = 0)
  | 0x16 => decide (wRd w ≤ 3) && decide (wRs2 w = 0)
  | 0x17 =>
    let c := f % 256
    decide (c ≤ 5) && decide (f / 512 = 0) && decide (wRd w = 0) && z (c == 0 || c == 3) (wRs1 w) && z (c == 0 || c == 1) (wRs2 w)
  | 0x18 => match f with
    | 0 | 6 => decide (wRs2 w = 0)
    | 1 | 2 | 3 | 4 | 5 | 17 => true
    | 8 => decide (wRs2 w ≤ 6)
    | 16 => decide (wRs1 w = 0) && decide (wRs2 w = 0)
    | _ => false
  | 0x19 => decide (wRs2 w = 0) || (decide (wRs2 w = 1) && decide (f < 1024))
  | 0x1A => decide (f = 1) || (decide (f = 0) && decide (wRd w = 0))
  | 0x1C => (decide (wRs2 w = 0) && decide (wRs1 w = 0) && decide (f ≤ 4)) ||
      (decide (wRs2 w = 1) && decide (wRd w = 0) && decide (f ≤ 2))
  | _ => false

/-- Calls, repeats, bells, MOVP and service entry: ops 0x20 to 0x2B (R99 to R118, R148 to R153). -/
def okControl (w : BitVec 32) : Bool :=
  let f := wFunc w
  match wOp w with
  | 0x20 | 0x2B => decide (wOp w = 0x20) || (decide (wRd w = 0) && decide (f < 64))
  | 0x21 => (decide (f = 0) && decide (wRd w = 0) && decide (wRs2 w = 0)) || (decide (f ≤ 2) && decide (wf w 25 11 = 0))
  | 0x22 => decide (wf w 20 16 = 0)
  | 0x23 | 0x28 => decide (wf w 25 16 = 0)
  | 0x24 => decide (wRs2 w ≤ 1) && decide (wRd w = 0) && (decide (wRs1 w = 0) || decide (f = 0))
  | 0x25 => match wRs2 w with
    | 0 | 1 => decide (wRd w = 0)
    | 2 => true
    | 3 => decide (wRd w = 0) && decide (wRs1 w = 0) && decide (f = 0)
    | 4 => decide (wRd w = 0) && decide (f < 64)
    | 5 | 6 => decide (wRd w = 0) && decide (f = 0)
    | _ => false
  | 0x26 => (decide (f = 0) && decide (wRd w = 0)) || (decide (f = 1) && decide (wRs2 w = 0))
  | 0x27 => decide (f = 0)
  | 0x29 => decide (wf w 25 11 = 0) && ((decide (f % 256 = 0) && decide (f / 256 ≤ 4)) || decide (f = 1) || decide (f = 2))
  | 0x2A => decide (wRd w = 0) && decide (f ≤ 3) && (decide (f = 1) || decide (wRs2 w = 0))
  | _ => false

/-- Floating point: ops 0x30 to 0x33 (R126, R130, R132 to R134). -/
def okFloat (w : BitVec 32) : Bool :=
  let f := wFunc w
  match wOp w with
  | 0x30 =>
    let c := f % 128
    decide (c ≤ 9) && decide (c ≠ 7) && roundOk (decide (c < 5)) (wf w 9 7) && (decide (c ≠ 4) || decide (wRs2 w = 0)) &&
      (decide (c < 8) || decide (wRd w = 0))
  | 0x31 => roundOk true (wf w 4 2)
  | 0x32 =>
    let c := f % 128
    let rounds := decide (c = 0) || (decide (2 ≤ c) && decide (c ≤ 9))
    decide (f < 1024) && decide (wRs2 w = 0) && roundOk rounds (wf w 9 7) &&
      (rounds || decide (c = 1) || decide (c = 16) || decide (c = 17) || (decide (c = 24) && decide (wRs1 w = 0)) ||
        (decide (c = 25) && decide (wRd w = 0)) || (decide (c = 31) && decide (wRd w = 0) && decide (wRs1 w = 0)))
  | 0x33 => decide (wRs2 w ≤ 3)
  | _ => false

/-- The encoding is assigned, and its fields are as the rule of its group has them. -/
def wordOk (w : BitVec 32) : Bool := okInteger w || okMemory w || okControl w || okFloat w

/-- ILLEGAL_INSTRUCTION (R72): the issue of a word that is not assigned; one of ops 0x30 to 0x33 meets a pending trap
first (R136). -/
def execIllegalInstruction (cx : CtxId) (word : BitVec 32) (s : State) : Out :=
  if wordOk word then .next s
  else if wOp word / 4 = 0x0C then fpIllegal cx word s
  else issue cx { word := word, bad := true } (fun _ s => .fault s (flt kIllegal)) s

end Sys2Proof.Machine
end

