-- ==== Sys2Proof/Machine/RegRows.lean ====
section
/-! DEFINITION. The rows that are one access of a register of their own, and what goes on in the pages of the
gates (R200), the memory controllers (R180 to R184) and the scratchpad (R186 to R188) by itself. -/

namespace Sys2Proof.Machine
open Sys2Proof

/-! ### Register pages (R441, R451, R120) -/

/-- REGISTER_WRITE (R4). -/
def execRegisterWrite (off : BitVec 24) (v : Word) (ic : InitClass) (s : State) : Out :=
  .next (if off.toNat % 8 = 0 then (regWrite s off.toNat v ic 0).2 else s)

/-- REGISTER_READ_CLEAR (R4): a read, which clears what its access code says. -/
def execRegisterReadClear (off : BitVec 24) (_ic : InitClass) (s : State) : Out :=
  .next (if off.toNat % 8 = 0 then (regRead s off.toNat).2 else s)

/-- PHASE (R451). -/
def execPhase (v : Word) (ic : InitClass) (s : State) : Out := regRow s .sys 0 0x108 v ic 0
/-- PEND (R120): bits 63:0 of BELL_PEND[n]. -/
def execPend (n : BitVec 6) (v : Word) (ic : InitClass) (s : State) : Out :=
  regRow s .car 0 (0x500 + 8 * n.toNat) v ic 0
/-- INJECT (R437): a write of the INJECT register of a page. -/
def execInject (off : BitVec 24) (v : Word) (ic : InitClass) (s : State) : Out :=
  .next (if off.toNat % 0x1000 = 0x040 then (regWrite s off.toNat v ic 0).2 else s)

/-! ### Cluster caches (R59, R452) -/

/-- CMAINT with OP 1 (R59). -/
def execCleanAll (cluster : BitVec 3) (ic : InitClass) (s : State) : Out := regRow s .clu cluster.toNat 0x100 1 ic 0
/-- CMAINT with OP 2 (R59). -/
def execFlushAll (cluster : BitVec 3) (ic : InitClass) (s : State) : Out := regRow s .clu cluster.toNat 0x100 2 ic 0
/-- CMAINT with OP 3 (R59). -/
def execInvalidateAll (cluster : BitVec 3) (ic : InitClass) (s : State) : Out :=
  regRow s .clu cluster.toNat 0x100 3 ic 0
/-- WAYEN (R452). -/
def execWayenWrite (cluster : BitVec 3) (v : Word) (ic : InitClass) (s : State) : Out :=
  regRow s .clu cluster.toNat 0x110 v ic 0

/-! ### Gates (R200) -/

/-- GCTRL.SWAP. -/
def execSwap (g : BitVec 4) (ic : InitClass) (s : State) : Out := regRow s .gate g.toNat 0x100 1 ic 0

/-- The transactions judged under the old set have completed: a pending swap is DONE. -/
def execSwapDone (g : BitVec 4) (s : State) : Out :=
  let st := pg .gate g.toNat + 0x108
  .next (if rfld s st 3 1 = 1 ∧ oldDone s g.toNat = true then intSet (rsetF s st 3 1 2) .gate g.toNat 1 else s)

/-! ### Memory controllers (R180 to R184) -/

/-- MC[m].TRAIN. -/
def trainOff (m : Nat) : Nat := pg .mc m + 0x118

/-- The PHY temperature in °C, from the Orrery's sensor 32 + m (R182, R414). -/
def ntemp (s : State) (m : Nat) : Int := signed 8 (rfld s (pg .orr + 0x300 + 8 * (32 + m)) 9 2)

/-- |NTEMP − TTEMP| exceeds 20 °C. -/
def tempMoved (s : State) (m : Nat) : Bool :=
  decide (20 < (ntemp s m - signed 8 (rfld s (trainOff m) 39 32)).natAbs)

/-- Retraining is marked as due when the temperature has moved. -/
def markDue (s : State) (m : Nat) : State := if tempMoved s m then rsetB s (trainOff m) 1 true else s

/-- A stack is being retrained. -/
def training (s : State) : Bool := (List.range 5).any fun m => rbit s (trainOff m) 0

/-- DRAM_REFRESH (R180): refresh only delays accesses, and delays are outside the model. -/
def execDramRefresh (_m : Fin 5) (s : State) : Out := .next s

/-- RECENTRE (R180, R183): eye settings are inside the controller; retraining may become due. -/
def execRecentre (m : Fin 5) (s : State) : Out := .next (if memOn s then markDue s m.val else s)

/-- TCMD.RETRAIN (R183). -/
def execRetrain (m : Fin 5) (ic : InitClass) (s : State) : Out := regRow s .mc m.val 0x120 1 ic 0

/-- A sequence begins (step 1 of R183): the stack is due, no other is being retrained, none of lower number is
due. -/
def trainBegin (s : State) (m : Nat) : State :=
  let off := trainOff m
  if rbit s off 0 || !rbit s off 1 || training s || (List.range m).any (fun j => rbit s (trainOff j) 1) then s
  else
    let t := rfld s (pg .orr + 0x300 + 8 * (32 + m)) 9 2
    rsetF (rsetF (rsetF (rsetB (rsetB s off 0 true) off 1 false) off 39 32 t) off 7 4 0) off 23 16 0

/-- The sequence goes on to the next channel, or ends after channel 15; `bits` are INT_RAW bits that this step has set,
for which the page rings with bit 3 (R448). -/
def trainNext (s : State) (m : Nat) (bits : List Nat) : State :=
  let off := trainOff m
  let s := rsetF s off 23 16 0
  let c := rfld s off 7 4
  if c < 15 then ringBits (rsetF s off 7 4 (c + 1)) .mc m bits
  else markDue (ringBits (rsetB (rsetF (rsetB s off 0 false) off 7 4 0) (pg .mc m + 0x018) 3 true) .mc m (3 :: bits)) m

/-- One step on the current channel (R183, R184). -/
def trainStep (s : State) (m : Nat) (found : Bool) : State :=
  let off := trainOff m
  if found then trainNext s m []
  else
    let s := rsatF s off 23 16 1
    if rfld s off 23 16 < 3 then s
    else trainNext (rasEvent (rsetB s (pg .mc m + 0x018) 2 true) 2 1 0 (pg .mc m)) m [2]

/-- A step whose turn has come: withheld in HOLD or an orderly stop. -/
def trainTurn (s : State) (m : Nat) (found : Bool) : State :=
  let off := trainOff m
  if inHold s || stopped s then rsetB s off 2 true else trainStep (rsetB s off 2 false) m found

/-- RETRAIN_STEP (R183). A due sequence whose first step HOLD or an orderly stop withholds does not begin: BUSY and HELD stay
0 (log 91). -/
def execRetrainStep (m : Fin 5) (found : Bool) (s : State) : Out :=
  if !memOn s then .next s
  else
    let s := if inHold s || stopped s then s else trainBegin s m.val
    let off := trainOff m.val
    .next (if rbit s off 0 && decide (rfld s off 23 16 = 0) then trainTurn s m.val found else s)

/-- RETRAIN_RETRY (R184): FAILS is not 0 while a failed step waits to be retried. -/
def execRetrainRetry (m : Fin 5) (found : Bool) (s : State) : Out :=
  let off := trainOff m.val
  .next (if memOn s && rbit s off 0 && decide (rfld s off 23 16 ≠ 0) then trainTurn s m.val found else s)

/-- The words of [lo, hi) whose stored codeword has an error. -/
def errWords (m : Mem) (lo hi : Nat) : List Nat :=
  (m.err.map (·.1)).filter fun w => decide (lo ≤ 8 * w) && decide (8 * w < hi)

/-- SCRUB_PAIR (R181): the pair at SCRUBPOS is decoded, and the position moves on; a unit is two pairs. -/
def execScrubPair (m : Fin 5) (s : State) : Out :=
  let i := m.val
  let pos := pg .mc i + 0x108
  if !memOn s || !rbit s (pg .mc i + 0x100) 32 || inHold s || training s || stopped s then .next s
  else
    let u := rfld s pos 28 0
    let second := setHas i s.scrubHalf
    let a := u * 256 + b2n second * 128
    let s := eccRing (.dram i) (eccScan s (.dram i) 1 (errWords s.mem a (a + 128)))
    let s := { s with scrubHalf := setPut i (!second) s.scrubHalf }
    if !second then .next s
    else if u + 5 < 2 ^ 29 then .next (rsetF s pos 28 0 (u + 5))
    else .next (intSet (rincF (rsetF s pos 28 0 i) pos 63 32) .mc i 4)

/-! ### Scratchpad banks (R186 to R188) -/

/-- BANK_SELF_SCRUB (R186): a bank that is on decodes all its lines; it pauses as R181 says. -/
def execBankSelfScrub (bank : BitVec 8) (s : State) : Out :=
  let b := bank.toNat
  if !domOn s 1 || !bankOn s b || inHold s || training s || stopped s then .next s
  else .next (eccRing (.spad b) (eccScan s (.spad b) 1 (errWords s.mem (bankBase b) (bankBase (b + 1)))))

/-- BANKREQ (R188). -/
def execBankreqWrite (n : BitVec 3) (v : Word) (ic : InitClass) (s : State) : Out :=
  regRow s .spad 0 (0x100 + 8 * n.toNat) v ic 0

/-- BANK_TRANSITION_DONE (R187): a bank in transition reaches the state requested. -/
def execBankTransitionDone (bank : BitVec 8) (s : State) : Out :=
  let b := bank.toNat
  .next (if bankState s b = 2 then intSet (setBank s b (bankReq s b)) .spad 0 3 else s)

/-! ### Mover and engine commands (R220, R228, R244) -/

/-- CMD.START of a channel (R219). -/
def execMovchStart (ch : BitVec 6) (ic : InitClass) (s : State) : Out := regRow s .movch ch.toNat 0x100 1 ic 0
/-- CMD.START with STEP (R220). -/
def execMovchStep (ch : BitVec 6) (ic : InitClass) (s : State) : Out := regRow s .movch ch.toNat 0x100 9 ic 0
/-- CMD.KICK (R217). -/
def execMovchKick (ch : BitVec 6) (ic : InitClass) (s : State) : Out := regRow s .movch ch.toNat 0x100 4 ic 0
/-- CMD.ARM (R219). -/
def execArm (ch : BitVec 6) (ic : InitClass) (s : State) : Out := regRow s .movch ch.toNat 0x100 2 ic 0
/-- CMD.DISABLE (R224). -/
def execDisable (ch : BitVec 6) (ic : InitClass) (s : State) : Out := regRow s .movch ch.toNat 0x100 0x10 ic 0
/-- CMD.ENABLE (R220). -/
def execEnable (ch : BitVec 6) (ic : InitClass) (s : State) : Out := regRow s .movch ch.toNat 0x100 0x20 ic 0
/-- GCTRL.CLEAR (R227). -/
def execGctrlClear (ic : InitClass) (s : State) : Out := regRow s .mov 0 0x108 1 ic 0

/-- RCMD.START (R244). -/
def execRcmdStart (e : Eng) (r : BitVec 4) (ic : InitClass) (s : State) : Out :=
  regRow s (engPage e) 0 (0x900 + 8 * r.toNat) 1 ic 0
/-- RCMD.START with REWIND (R244). -/
def execRewind (e : Eng) (r : BitVec 4) (ic : InitClass) (s : State) : Out :=
  regRow s (engPage e) 0 (0x900 + 8 * r.toNat) 9 ic 0
/-- RCMD.STOP (R244). -/
def execStop (e : Eng) (r : BitVec 4) (ic : InitClass) (s : State) : Out :=
  regRow s (engPage e) 0 (0x900 + 8 * r.toNat) 4 ic 0
/-- RCMD.KICK (R240). -/
def execRcmdKick (e : Eng) (r : BitVec 4) (ic : InitClass) (s : State) : Out :=
  regRow s (engPage e) 0 (0x900 + 8 * r.toNat) 2 ic 0
/-- IDX.CMD.ABORT (R270). -/
def execIdxCmdAbort (ic : InitClass) (s : State) : Out := regRow s .idx 0 0x128 1 ic 0

/-! ### Life cycle, watchdogs, planner, power (R343, R433, R422, R412) -/

/-- LCT.ADV (R343). -/
def execAdv (target : BitVec 3) (confirm : BitVec 16) (ic : InitClass) (s : State) : Out :=
  regRow s .lct 0 0x108 (wd (confirm.toNat * 2 ^ 48 + target.toNat)) ic 0
/-- SWD[w] (R433). -/
def execSwdWrite (w : Bool) (v : Word) (ic : InitClass) (s : State) : Out := regRow s .ras 0 (0x140 + 8 * b2n w) v ic 0
/-- SWDKICK (R433). -/
def execSwdkick (v : Word) (ic : InitClass) (s : State) : Out := regRow s .ras 0 0x150 v ic 0
/-- DACK (R422). -/
def execDack (v : Word) (ic : InitClass) (s : State) : Out := regRow s .orr 0 0x168 v ic 0
/-- REQ_A[i] (R422). -/
def execReqAWrite (i : BitVec 6) (v : Word) (ic : InitClass) (s : State) : Out :=
  regRow s .orr 0 (0x800 + 16 * i.toNat) v ic 0
/-- TB.SET (R397). -/
def execTbSet (v : Word) (ic : InitClass) (s : State) : Out := regRow s .tb 0 0x110 v ic 0
/-- PWR.DREQ (R400, R412). -/
def execDreq (v : Word) (ic : InitClass) (s : State) : Out := regRow s .pwr 0 0x100 v ic 0
/-- PWR.CMD.NADIR by context `cx` (R401). -/
def execNadir (ic : InitClass) (cx : CtxId) (s : State) : Out := regRow s .pwr 0 0x118 2 ic cx.toNat
/-- PWR.CMD.RESET (R412). -/
def execReset (ic : InitClass) (s : State) : Out := regRow s .pwr 0 0x118 1 ic 0
/-- KEEP.CALCMD.RECAL (R411). -/
def execRecal (ic : InitClass) (s : State) : Out := regRow s .keep 0 0x100 1 ic 0
/-- PEER[p].CTRL (R384). -/
def execPeerCtrlEn (p : BitVec 1) (v : Word) (ic : InitClass) (s : State) : Out :=
  regRow s .peer p.toNat 0x100 v ic 0

end Sys2Proof.Machine
end

