-- ==== Sys2Proof/Machine/Mgmt.lean ====
section
/-! DEFINITION. The management port (R376 to R380): I3C, the console UART, JTAG and the boot NOR. -/

namespace Sys2Proof.Machine
open Sys2Proof

/-! ### I3C (R376) -/

/-- MGMT.I3C. -/
def i3cOff : Nat := pg .mgmt + 0x118

/-- The dynamic address, 0 if none. -/
def i3cDyn (s : State) : Nat := rfld s i3cOff 15 8
def setDyn (s : State) (a : Nat) : State := rsetF s i3cOff 15 8 a

/-- Bytes that the target puts on the bus. -/
def i3cSend (s : State) (bs : List Byte) : State := { s with mgmt := { s.mgmt with i3cOut := s.mgmt.i3cOut ++ [bs] } }

/-- A direct CCC reaches a target that has a dynamic address. -/
def i3cDirect (s : State) (f : State → State) : Out := .next (if i3cDyn s = 0 then s else f s)

/-- ENTDAA assigns `da` to a target without a dynamic address. -/
def execEntdaa (da : BitVec 7) (s : State) : Out := .next (if i3cDyn s = 0 then setDyn s da.toNat else s)
/-- SETDASA gives the target at its static address `da`. -/
def execSetdasa (da : BitVec 7) (s : State) : Out := .next (if i3cDyn s = 0 then setDyn s da.toNat else s)
/-- SETNEWDA. -/
def execSetnewda (da : BitVec 7) (s : State) : Out := i3cDirect s fun s => setDyn s da.toNat
/-- RSTDAA: an I2C target again. -/
def execRstdaa (s : State) : Out := .next (setDyn s 0)
/-- ENEC: event bit 0 is the IBI. -/
def execEnec (events : Byte) (s : State) : Out := .next (if events.toNat.testBit 0 then { s with ibiEn := true } else s)
/-- DISEC. -/
def execDisec (events : Byte) (s : State) : Out := .next (if events.toNat.testBit 0 then { s with ibiEn := false } else s)

/-- The provisional ID: bits [47:33] from the Keep, part 0x7200 in [31:16], 0x0B1 in [11:0], and the bits that R376 does not
give. -/
def i3cPid (s : State) : Nat :=
  let p := Config.pid.toNat
  s.mgmt.pid.toNat * 2 ^ 33 + nfld p 32 32 * 2 ^ 32 + 0x7200 * 2 ^ 16 + nfld p 15 12 * 2 ^ 12 + 0x0B1

/-- GETPID: six bytes, most significant first. -/
def execGetpid (s : State) : Out := i3cDirect s fun s => i3cSend s (beBytes 6 (i3cPid s))
/-- GETBCR. -/
def execGetbcr (s : State) : Out := i3cDirect s fun s => i3cSend s [0x06]
/-- GETDCR. -/
def execGetdcr (s : State) : Out := i3cDirect s fun s => i3cSend s [0x00]
/-- GETSTATUS: two bytes, which the spec leaves open. -/
def execGetstatus (s : State) : Out :=
  i3cDirect s fun s =>
    let (n, s) := freeNat s
    i3cSend s (beBytes 2 (Config.freeWord n).toNat)
/-- GETMWL. -/
def execGetmwl (s : State) : Out := i3cDirect s fun s => i3cSend s (beBytes 2 Config.i3cMwl.toNat)
/-- GETMRL. -/
def execGetmrl (s : State) : Out := i3cDirect s fun s => i3cSend s (beBytes 3 Config.i3cMrl.toNat)

/-- The response of a private write: STATUS and 8 data bytes. -/
def i3cReply (s : State) (status : Nat) (data : Nat) : State :=
  { s with mgmt := { s.mgmt with i3c := leBytes 1 status ++ leBytes 8 data } }

/-- An 8-byte access of class 15, colour 0: the word read (0 for a write), or none for an error response. -/
def access15 (s : State) (pa : Nat) (w : Option Word) : Option Nat × State :=
  let op : TxnOp := match w with
    | some v => .write (leBytes 8 v.toNat) [] []
    | none => .read
  match fabricTxn s pa 8 op 15 0 0 0 with
  | (.ok d, s) => (some (match w with
    | some _ => 0
    | none => leNat d.bytes), s)
  | (_, s) => (none, s)

/-- A private write that asks for an access at `base` + ADDR, which `size` bounds. -/
def i3cAccess (s : State) (base size : Nat) (addr : BitVec 24) (w : Option Word) : Out :=
  if addr.toNat % 8 ≠ 0 ∨ size ≤ addr.toNat then .next (i3cReply s 1 0)
  else match access15 s (base + addr.toNat) w with
    | (some v, s) => .next (i3cReply s 0 v)
    | (none, s) => .next (i3cReply s 1 0)

/-- A private write where command `cmd` takes CMD, ADDR and, for a write, 8 data bytes: an unknown CMD or another length
is answered 0x02. -/
def i3cCmd (s : State) (cmd base size : Nat) (q : I3cReq) (w : Option Word) : Out :=
  if q.cmd.toNat ≠ cmd ∨ q.n ≠ (if w.isSome then 12 else 4) then .next (i3cReply s 2 0) else i3cAccess s base size q.addr w

/-- CMD 0x01. -/
def execI3cReadRegister (q : I3cReq) (s : State) : Out := i3cCmd s 1 regBase 0x1000000 q none
/-- CMD 0x02. -/
def execI3cWriteRegister (q : I3cReq) (data : Word) (s : State) : Out :=
  i3cCmd s 2 regBase 0x1000000 q (some data)
/-- CMD 0x03. -/
def execI3cReadKeep (q : I3cReq) (s : State) : Out := i3cCmd s 3 keepBase 0x400000 q none
/-- CMD 0x04. -/
def execI3cWriteKeep (q : I3cReq) (data : Word) (s : State) : Out :=
  i3cCmd s 4 keepBase 0x400000 q (some data)

/-- CMD 0x10 (R401): answered 0x00 in NADIR, where it wakes the device while WAKE.I3C is 1; 0x02 otherwise, as an unknown
CMD is. -/
def execI3cWake (s : State) : Out :=
  if s.power.nadir then
    let s := i3cReply s 0 0
    .next (wakeEvent s 2)
  else .next (i3cReply s 2 0)

/-- A private read returns the response due. -/
def execI3cPrivateRead (s : State) : Out :=
  if s.mgmt.i3c = [] then .next s
  else .next { i3cSend s s.mgmt.i3c with mgmt := { (i3cSend s s.mgmt.i3c).mgmt with i3c := [] } }

/-! ### Console UART (R377) -/

/-- The UART runs while the PLL is on. -/
def uartOn (s : State) : Bool := rbit s clkStat 0

/-- UTX. -/
def execUtx (data : Byte) (ic : InitClass) (s : State) : Out := regRow s .mgmt 0 0x108 (data.zeroExtend 64) ic 0
/-- URX. -/
def execUrx (_ic : InitClass) (s : State) : Out := .next (regRead s (pg .mgmt + 0x110)).2

/-- A byte arrives; a full FIFO does not take it. -/
def execUartRxByte (data : Byte) (s : State) : Out :=
  if uartOn s && decide (s.mgmt.rx.length < 64) then
    .next (intSet { s with mgmt := { s.mgmt with rx := s.mgmt.rx ++ [data] } } .mgmt 0 0)
  else .next s

/-- A queued byte has left; the bit of an empty FIFO is raised after the last one. -/
def execUartTxByte (s : State) : Out :=
  match s.mgmt.tx with
  | [] => .next s
  | b :: q =>
    if !uartOn s then .next s
    else
      let s := { s with mgmt := { s.mgmt with tx := q, uart := s.mgmt.uart ++ [b] } }
      .next (if q = [] then intSet s .mgmt 0 1 else s)

/-! ### JTAG (R378) -/

/-- The instruction register. -/
def setIr (s : State) (ir : Nat) : State := { s with mgmt := { s.mgmt with ir := ir } }
def jtagOut (s : State) (v : Word) : State := { s with mgmt := { s.mgmt with jtag := s.mgmt.jtag ++ [v] } }

/-- Test-Logic-Reset selects IDCODE. -/
def execTestLogicReset (s : State) : Out := .next (setIr s 1)
/-- BYPASS. -/
def execBypass (s : State) : Out := .next (setIr s 0xFF)
/-- IDCODE: 0x1720_0001 with the fused bits [11:1]. -/
def execIdcode (s : State) : Out := .next (jtagOut (setIr s 1) (wd (0x17200001 + 2 * Config.idcodeFuse.toNat)))
/-- SAMPLE/PRELOAD: boundary cells are outside the device's state. -/
def execSamplePreload (s : State) : Out := .next (setIr s 2)
/-- EXTEST: the pins are driven from the boundary cells. -/
def execExtest (s : State) : Out := .next (setIr s 3)

/-- DEBUG is loaded: in PROVISIONED this attaches a debugger, which wipes and disables both roots until reset
(R341). -/
def debugLoad (s : State) : State :=
  let s' := setIr s 0x10
  if s.life.state = 1 then wipeStart { s' with life := { s'.life with noRoot := true } } else s'

/-- DEBUG (R378): it is loaded, or, for an access, loaded unless it is already; it acts as BYPASS in DEPLOYED and
SCRAPPED. -/
def execJtagDebug (acc : Option (Bool × BitVec 24 × Option Word)) (s : State) : Out :=
  if s.life.state = 2 ∨ s.life.state = 4 then .next (setIr s 0x10)
  else
    let s := if acc.isNone || decide (s.mgmt.ir ≠ 0x10) then debugLoad s else s
    match acc with
    | none => .next s
    | some (keep, off, w) =>
      if off.toNat % 8 ≠ 0 ∨ (keep ∧ 0x400000 ≤ off.toNat) then .next s
      else match access15 s ((if keep then keepBase else regBase) + off.toNat) w with
        | (some v, s) => .next (jtagOut s (wd v))
        | (none, s) => .next s

/-! ### Boot NOR (R379) -/

/-- SPICMD with GO. -/
def execGo (v : Word) (ic : InitClass) (s : State) : Out := regRow s .mgmt 0 0x128 (v ||| 0x8000000000000000) ic 0

/-- SPIDATA. -/
def execSpidata (write : Option Word) (ic : InitClass) (s : State) : Out :=
  match write with
  | some v => regRow s .mgmt 0 0x130 v ic 0
  | none => .next (regRead s (pg .mgmt + 0x130)).2

/-- The command in progress is done; the bytes a read command returned enter the FIFO. -/
def execSpiCommandDone (data : List Byte) (s : State) : Out :=
  match s.mgmt.spiCmd with
  | none => .next s
  | some (v, _) =>
    let got := if bitAt v 49 then [] else data.take (Nat.min (fld v 48 40) 256)
    let s := { s with mgmt := { s.mgmt with spiCmd := none, spi := (s.mgmt.spi ++ got).take 256 } }
    .next (intSet (rsetB s (pg .mgmt + 0x138) 0 false) .mgmt 0 2)

end Sys2Proof.Machine
end

