-- ==== Sys2Proof/Machine/Mover.lean ====
section
/-! DEFINITION. The Mover at work (R205 to R228): anchors, descriptors, the selection of a unit's channel, the beats of
COPY, FILL, COMPARE and SWEEP, completion, and the halt. -/

namespace Sys2Proof.Machine
open Sys2Proof

/-- A channel may act: RUNNING, with no bus error about to halt the Mover. -/
def movLive (s : State) (n : Nat) : Bool :=
  decide (chState s n = 2) && s.movErr.isNone && !movHalted s && !stopped s && !s.power.nadir

/-- The binding of a channel's active bank (R155, R232). -/
def chReq (s : State) (n : Nat) : XReq :=
  let c := chCfg s n
  { world := bitAt c 14, asid := BitVec.ofNat 16 (fld c 31 16), xlat := bitAt c 15, user := false, cls := 4, src := n, ids := [264] }

/-- A bus error of a channel; the next MOVER_HALT acts on it (R225). -/
def movFail (s : State) (n : Nat) (pa txn gate cause side : Nat) : State :=
  { s with movErr := some { pa := pa, txn := txn, gate := gate, cause := cause, who := some n, side := side } }

/-! ### Anchors and descriptors -/

/-- The anchor of the active bank is read and checked (R219). -/
def execMoverAnchorRead (ch : BitVec 6) (s : State) : Out :=
  let n := ch.toNat
  let m := movAt s n
  if !movLive s n || decide (m.phase ≠ .anchor) then .next s
  else
    let pa := spadBase + rfld s (pg .mov + 0x100) 25 11 * 2048 + (2 * n + chBank s n) * 16
    match fabricTxn s pa 16 .read 4 0 n 0 with
    | (.ok d, s) =>
      let c := granCap d 0
      if d.poison.any id then .next (chStop s n 1 4 0)
      else match headCheck c 128 with
        | some k => .next (chStop s n 1 2 k)
        | none => .next (setMov s n { m with phase := .fetch, head := c })
    | (r, s) => .next (movFail s n pa 0 (respCause pa r).1 (respCause pa r).2 0)

/-- The fields of a fetched descriptor (R207, R208). -/
def mdWord (d : RData) (off : Nat) : Word := wd (leAt d.bytes off 8)
def mdOp (d : RData) : Nat := fld (mdWord d 0) 7 0
def mdCmpv (d : RData) : Bool := bitAt (mdWord d 0) 12
def mdSide (d : RData) (dst : Bool) : Extent :=
  let c := granCap d (if dst then 2 else 1)
  let g := mdWord d (if dst then 0x50 else 0x40)
  { cap := c, start := capCursor c, len := fld g 31 0, lines := fld g 63 32
    stride := (mdWord d (if dst then 0x58 else 0x48)).toInt }

/-- The operation uses its source side. -/
def mdUsesSrc (d : RData) : Bool := decide (mdOp d = 1) || (decide (mdOp d = 3) && !mdCmpv d)

/-- The tests of R210: the first reason that holds, or 0. -/
def mdReject (d : RData) : Nat :=
  let ctrl := mdWord d 0
  let op := mdOp d
  let a := mdSide d false
  let b := mdSide d true
  if op = 0 ∨ 4 < op then 1
  else if fld ctrl 62 13 ≠ 0 ∨ fld ctrl 11 10 ≠ 0 ∨ bitAt ctrl 8 = true ∨ (mdCmpv d = true ∧ op ≠ 3) ∨
      (op ≠ 4 ∧ (mdWord d 0x60 ≠ 0 ∨ mdWord d 0x68 ≠ 0)) then 2
  else if (mdUsesSrc d = true ∧ extTotal a = 0) ∨ extTotal b = 0 then 3
  else if mdUsesSrc d = true ∧ extTotal a ≠ extTotal b then 4
  else if op = 1 ∧ extMeet a b = true then 5
  else if op ≠ 3 ∧ 1 < b.lines ∧ b.stride.natAbs < b.len then 6
  else if op = 4 ∧ (b.start % 16 ≠ 0 ∨ b.len % 16 ≠ 0 ∨ b.stride % 16 ≠ 0) then 7
  else if op = 4 ∧ (mdWord d 0x68).toNat < (mdWord d 0x60).toNat then 8
  else 0

/-- NEXT is null (R211). -/
def capNull (c : Cap) : Bool := decide (c.bits = 0) && !c.tag

/-- The rights of the destination (R211). -/
def mdDstRights (d : RData) : List Nat :=
  if mdOp d = 3 then [rLoad] else if mdOp d = 4 then [rLoad, rStore, rLoadcap] else [rStore]

/-- The permission that the destination's pages need (R162). -/
def mdDstNeed (d : RData) : Nat := if mdOp d = 3 then needR else if mdOp d = 4 then needR + needW else needW

/-- The capability checks of R211 in order: fault kind and SIDE. -/
def mdCapFault (d : RData) : Option (Nat × Nat) :=
  let next := granCap d 3
  match if capNull next then none else headCheck next 128 with
  | some k => some (k, 2)
  | none =>
    match if mdUsesSrc d then extCheck (mdSide d false) [rLoad] else none with
    | some k => some (k, 0)
    | none => (extCheck (mdSide d true) (mdDstRights d)).map fun k => (k, 1)

/-- STATUS (R216). -/
def movStatus (n side detail code : Nat) : Word := wd (n * 2 ^ 18 + side * 2 ^ 16 + detail * 256 + code)

/-- The operation has ended with this status and RESULT; the unit is free of it. SIDE is 0 where no rule names a side
(assumption log 93). -/
def movEnd (s : State) (n side detail code result : Nat) : State :=
  movDrop (releaseUnit (setMov s n
    { movAt s n with phase := .ending, stat := movStatus n side detail code, result := wd result }) n) n

/-- Every page of the extents is translated before the transfer begins (R212), those of the source first (assumption log
93). -/
def movPages (s : State) (n : Nat) (d : RData) : Option XferErr × State :=
  let q := chReq s n
  if !q.xlat && !s2en s q.world then (none, s)
  else
    match if mdUsesSrc d then xferPages q needR 0 (extPages (mdSide d false)) s else (none, s) with
    | (some e, s) => (some e, s)
    | (none, s) => xferPages q (mdDstNeed d) 1 (extPages (mdSide d true)) s

/-- A descriptor that belongs to the Mover: the tests of R210, R211 and R212, after which it is eligible. -/
def movAccept (s : State) (n : Nat) (d : RData) : State :=
  let s := rset s (pg .movch n + 0x118) 0
  let s := setMov s n { movAt s n with desc := d, done := 0, count := 0, last := none, lastXl := none, phase := .ready }
  if mdReject d ≠ 0 then movEnd s n 0 (mdReject d) 7 0
  else match mdCapFault d with
    | some (k, side) => movEnd s n side k 2 0
    | none =>
      match movPages s n d with
      | (none, s) => s
      | (some (.xlat dt side), s) => movEnd s n side dt 5 0
      | (some (.bus pa txn g k side), s) => movFail s n pa txn g k side
      | (some .wait, s) => s

/-- The descriptor that `head` names is fetched (R217). -/
def execMoverDescriptorFetch (ch : BitVec 6) (s : State) : Out :=
  let n := ch.toNat
  let m := movAt s n
  let va := capCursor m.head
  if !movLive s n || decide (m.phase ≠ .fetch) then .next s
  else
    let s := rset s (pg .movch n + 0x110) (wd va)
    match descFetch (chReq s n) 4 n m.head va s with
    | (.error .wait, s) => .next s
    | (.error (.xlat _ _), s) => .next (chStop s n 2 5 0)
    | (.error (.bus pa txn g k _), s) => .next (movFail s n pa txn g k 0)
    | (.ok (_, d), s) =>
      if d.poison.any id then .next (chStop s n 2 4 0)
      else if bitAt (mdWord d 0) 63 then .next (movAccept s n d)
      else if rbit s (chStatOff n) 8 then .next (rsetB s (chStatOff n) 8 false)
      else .next (chRing (setMov (setChState s n 3) n { m with phase := .idle }) n 3)

/-! ### Selection (R221, R222) -/

/-- The service phase: SYS.PHASE is not NORMAL. -/
def svcPhase (s : State) : Bool := decide (rfld s (pg .sys + 0x108) 1 0 ≠ 2)

def chPri (s : State) (n : Nat) : Nat := fld (chCfg s n) 11 9

/-- Channels of a unit that may be selected. -/
def unitCands (s : State) (u : Nat) : List Nat :=
  ((List.range 16).map (· + 16 * u)).filter fun n =>
    let m := movAt s n
    decide (chState s n = 2) && (decide (m.phase = .ready) || decide (m.phase = .moving)) &&
      (!svcPhase s || decide (256 ≤ m.credit))

/-- Of the channels `top` of one priority, the transfer that goes on: the running one, or else one that has begun, that
selected last first; equals never pre-empt each other (R222). -/
def unitGoesOn (s : State) (u p : Nat) (top : List Nat) : Option Nat :=
  let x := unitAt s u
  let begun := top.filter fun n => decide ((movAt s n).phase = .moving)
  (begun.find? fun n => decide (x.cur = some n)).orElse fun _ =>
    (begun.find? fun n => decide (smFind x.last p = some n)).orElse fun _ => begun.head?

/-- The channel that a unit selects: highest PRI and, among equals, the transfer that has begun, or else the next in
rotation. In the normal phase the running transfer keeps the unit. -/
def unitPick (s : State) (u : Nat) : Option Nat :=
  let x := unitAt s u
  let ns := unitCands s u
  let p := (ns.map (chPri s)).foldl Nat.max 0
  let top := ns.filter fun n => decide (chPri s n = p)
  match if svcPhase s then none else x.cur with
  | some c => some c
  | none => (unitGoesOn s u p top).orElse fun _ => afterLast top (smFind x.last p)

/-- A unit selects. -/
def execUnitSelect (u : BitVec 2) (s : State) : Out :=
  let i := u.toNat
  if s.movErr.isSome || movHalted s || stopped s || s.power.nadir then .next s
  else match unitPick s i with
    | none => .next s
    | some n =>
      let x := unitAt s i
      if x.cur = some n then .next s
      else .next (setMov (setUnit s i { cur := some n, last := smPut (chPri s n) n x.last }) n { movAt s n with phase := .moving })

/-! ### Beats -/

/-- Channel `n` may issue a beat of operation `op` (R205, R221 to R223, R228). -/
def movBeat (s : State) (n op : Nat) : Bool :=
  let m := movAt s n
  movLive s n && decide (m.phase = .moving) && decide (mdOp m.desc = op) && decide (unitPick s (n / 16) = some n) &&
    decide ((unitAt s (n / 16)).cur = some n) && decide (256 ≤ m.credit) && !inHold s

/-- Bytes of a side from `k` on that two transactions reach. -/
def twoSegs (e : Extent) (k left : Nat) : Nat :=
  let a := Nat.min left (extSeg e k)
  a + Nat.min (left - a) (extSeg e (k + a))

/-- Bytes of the beat at `k` (R205). -/
def beatLen (d : RData) (k : Nat) : Nat :=
  let b := mdSide d true
  let left := extTotal b - k
  let n := twoSegs b k left
  if mdUsesSrc d then Nat.min n (twoSegs (mdSide d false) k left) else n

/-- A beat spends 256 of its channel's credit, full or partial (R223). -/
def movSpend (s : State) (n : Nat) : State := setMov s n { movAt s n with credit := (movAt s n).credit - 256 }

/-- The beat ends its operation early, with this status and RESULT. -/
def beatEnd (s : State) (n side code result : Nat) : State := movEnd (movSpend s n) n side 0 code result

/-- The beat ends: its credit is spent, and after the last byte the operation ends with OK. -/
def beatDone (s : State) (n m : Nat) (result : Nat → Nat) : State :=
  let x := movAt s n
  let s := movSpend (setMov s n { x with done := x.done + m }) n
  if extTotal (mdSide x.desc true) ≤ x.done + m then movEnd s n 0 0 0 (result (x.done + m)) else s

/-- Bytes that the beats so far have written (R212): COMPARE writes none, SWEEP the granules it cleared. -/
def movWritten (x : MovCh) : Nat :=
  if mdOp x.desc = 3 then 0 else if mdOp x.desc = 4 then 16 * x.count else x.done

/-- A beat that fails: XLAT_FAULT ends the descriptor with the bytes written before it, a bus error halts the Mover, and
a window's answer is awaited. -/
def beatFail (s : State) (n : Nat) (e : XferErr) : State :=
  match e with
  | .xlat dt side => movEnd s n side dt 5 (movWritten (movAt s n))
  | .bus pa txn g k side => movFail s n pa txn g k side
  | .wait => s

/-- The transactions of one side in a beat of `m` bytes. -/
def beatPieces (s : State) (n : Nat) (dst : Bool) (need m : Nat) : Except XferErr (List XPiece) × State :=
  let x := movAt s n
  let e := mdSide x.desc dst
  xferPieces (chReq s n) e.cap need (b2n dst) (extCuts e 4 x.done m) s

/-- PROG: bytes whose writes have been issued. -/
def progTo (s : State) (n k : Nat) : State := rset s (pg .movch n + 0x118) (wd k)

/-- Destination bytes are written, tags as `tagAt` gives them for a granule that begins at stream position k. -/
def beatWrite (s : State) (n m : Nat) (ps : List XPiece) (data : List Byte) (tagAt : Nat → Bool) : State :=
  let x := movAt s n
  let ws := ps.map fun p =>
    (p, sliceZ data (p.k - x.done) p.n, (grans p.pa p.n).map fun g =>
      decide (p.pa ≤ 16 * g) && decide (16 * g + 16 ≤ p.pa + p.n) && tagAt (p.k + (16 * g - p.pa)))
  match writePieces 4 n ws s with
  | (some e, s) => beatFail (match e with
    | .bus pa _ _ _ _ => progTo s n (((ps.find? fun p => decide (p.pa = pa)).map fun p => p.k + p.n).getD x.done)
    | _ => s) n e
  | (none, s) =>
    let p := ps.getLast?
    let s := setMov s n { x with last := p.map fun p => lineOf p.pa, lastXl := p.bind (·.xl) }
    beatDone (progTo s n (x.done + m)) n m id

/-- R31: the tag that a copied granule keeps, from the granule read at stream position k. -/
def copyTag (d : RData) (rs : List (XPiece × RData)) (k : Nat) : Bool :=
  let a := (mdSide d false).cap
  let b := (mdSide d true).cap
  match rs.find? fun x => decide (x.1.k ≤ k) && decide (k + 16 ≤ x.1.k + x.1.n) with
  | none => false
  | some x =>
    let pa := x.1.pa + (k - x.1.k)
    let i := pa / 16 - x.1.pa / 16
    let c : Cap := { bits := BitVec.ofNat 128 (leAt x.2.bytes (k - x.1.k) 16), tag := x.2.tags.getD i false }
    decide (pa % 16 = 0) && c.tag && capHas a rLoadcap && capHas b rStorecap && (capHas c rGlobal || capHas b rStorelocal)

/-- Source and destination lines of the beat, read; the poison of the first granule of a side (R214). -/
def beatRead (s : State) (n : Nat) (ps : List XPiece) : Except XferErr (List (XPiece × RData)) × State :=
  match piecesReady 4 n ps s with
  | (false, s) => (.error .wait, s)
  | (true, s) =>
    match readPieces 4 n ps [] s with
    | (.error e, s) => (.error e, s)
    | (.ok ds, s) => (.ok (ps.zip ds), s)

/-- One beat of COPY (R213, R214, R31). -/
def execCopy (ch : BitVec 6) (s : State) : Out :=
  let n := ch.toNat
  if !movBeat s n 1 then .next s
  else
    let d := (movAt s n).desc
    let m := beatLen d (movAt s n).done
    match beatPieces s n false needR m with
    | (.error e, s) => .next (beatFail s n e)
    | (.ok sp, s) =>
      match beatPieces s n true needW m with
      | (.error e, s) => .next (beatFail s n e)
      | (.ok dp, s) =>
        match beatRead s n sp with
        | (.error e, s) => .next (beatFail s n e)
        | (.ok rs, s) =>
          match firstPoison rs with
          | some k => .next (beatEnd s n 0 4 k)
          | none => .next (beatWrite s n m dp (rs.flatMap fun x => x.2.bytes) (copyTag d rs))

/-- Byte k of the repeated VALUE. -/
def valueByte (d : RData) (k : Nat) : Byte := d.bytes.getD (8 + k % 8) 0

/-- One beat of FILL. -/
def execFill (ch : BitVec 6) (s : State) : Out :=
  let n := ch.toNat
  if !movBeat s n 2 then .next s
  else
    let x := movAt s n
    let m := beatLen x.desc x.done
    match beatPieces s n true needW m with
    | (.error e, s) => .next (beatFail s n e)
    | (.ok dp, s) => .next (beatWrite s n m dp ((List.range m).map fun i => valueByte x.desc (x.done + i)) fun _ => false)

/-- The first of two positions; `b` wins only where it comes before. -/
def earlier (a b : Option (Nat × Nat)) : Option (Nat × Nat) :=
  match a, b with
  | some x, some y => if y.1 < x.1 then some y else some x
  | some x, none => some x
  | none, y => y

/-- One beat of COMPARE: the stream stops at the first difference, or at the first poisoned granule before it. -/
def execCompare (ch : BitVec 6) (s : State) : Out :=
  let n := ch.toNat
  if !movBeat s n 3 then .next s
  else
    let x := movAt s n
    let m := beatLen x.desc x.done
    match if mdCmpv x.desc then (.ok [], s) else beatPieces s n false needR m with
    | (.error e, s) => .next (beatFail s n e)
    | (.ok sp, s) =>
      match beatPieces s n true needR m with
      | (.error e, s) => .next (beatFail s n e)
      | (.ok dp, s) =>
        match beatRead s n (sp ++ dp) with
        | (.error e, s) => .next (beatFail s n e)
        | (.ok rs, s) =>
          let a := rs.take sp.length
          let b := rs.drop sp.length
          let va := if mdCmpv x.desc then (List.range m).map fun i => valueByte x.desc (x.done + i) else a.flatMap fun r => r.2.bytes
          let diff := ((va.zip (b.flatMap fun r => r.2.bytes)).zipIdx.find? fun p => decide (p.1.1 ≠ p.1.2)).map (·.2 + x.done)
          let bad := earlier ((firstPoison a).map fun k => (k, 0)) ((firstPoison b).map fun k => (k, 1))
          match bad, diff with
          | some (k, side), none => .next (beatEnd s n side 4 k)
          | some (k, side), some j => .next (if j < k then beatEnd s n 0 1 j else beatEnd s n side 4 k)
          | none, some j => .next (beatEnd s n 0 1 j)
          | none, none => .next (beatDone s n m id)

/-- The bounds of a tagged granule intersect the victim range (R42). -/
def victimHit (c : Cap) (vb vt : Int) : Bool :=
  let b := capBase c
  let t := capTop c
  c.tag && (if b = t then decide (vb ≤ b) && decide (b < vt) else decide (b < vt) && decide (vb < t))

/-- The granules of a line whose tags a SWEEP clears are written back one by one: their number. -/
def sweepLine (s : State) (n : Nat) (p : XPiece) (r : RData) (vb vt : Int) : Nat × Option XferErr × State :=
  (List.range (p.n / 16)).foldl (fun (a : Nat × Option XferErr × State) g =>
    if a.2.1.isSome || !victimHit (granCap r g) vb vt then a
    else
      let pa := p.pa + 16 * g
      match targetDo a.2.2 (targetOf pa) pa 16 (.write (sliceZ r.bytes (16 * g) 16) [false] [false]) 4 (initKey 4 p.colour n) n 0 with
      | (.ok _, s) => (a.1 + 1, none, s)
      | (x, s) => (a.1, some (busFail pa 4 1 x), s)) (0, none, s)

/-- The lines of a SWEEP beat in order; each is judged for R and W (R192). -/
def sweepPieces (n : Nat) (vb vt : Int) : List XPiece → State → Option XferErr × State
  | [], s => (none, s)
  | p :: ps, s =>
    match fabricTxnK kRW s p.pa p.n .read 4 p.colour n 0 with
    | (.ok r, s) =>
      let (c, e, s) := sweepLine s n p r vb vt
      let x := movAt s n
      let x' : MovCh := if c = 0 then x else { x with count := x.count + c, last := some (lineOf p.pa), lastXl := p.xl }
      let s := setMov s n x'
      let s := progTo s n (16 * (x.count + c + b2n e.isSome))
      match e with
      | some e => (some e, s)
      | none => sweepPieces n vb vt ps s
    | (r, s) => (some (busFail p.pa 4 1 r), s)

/-- One beat of SWEEP (R42, R213). -/
def execSweep (ch : BitVec 6) (s : State) : Out :=
  let n := ch.toNat
  if !movBeat s n 4 then .next s
  else
    let x := movAt s n
    let m := beatLen x.desc x.done
    match beatPieces s n true (needR + needW) m with
    | (.error e, s) => .next (beatFail s n e)
    | (.ok dp, s) =>
      match piecesReadyK kRW 4 n dp s with
      | (false, s) => .next s
      | (true, s) =>
        match sweepPieces n (mdWord x.desc 0x60).toNat (mdWord x.desc 0x68).toNat dp s with
        | (some e, s) => .next (beatFail s n e)
        | (none, s) => .next (beatDone s n m fun _ => (movAt s n).count)

/-! ### Completion (R215, R217, R219, R220) -/

/-- The chain ends: the shadow bank is promoted, or the channel stops and rings IDLE. -/
def chainEnd (s : State) (n : Nat) : State :=
  if rbit s (chStatOff n) 7 then
    let s := chPromote s n
    if (movAt s n).step then chStop s n 0 0 0 else setMov s n { movAt s n with phase := .anchor }
  else chRing (chStop s n 0 0 0) n 2

/-- What follows a descriptor whose OWN is clear. -/
def movFollow (s : State) (n : Nat) : State :=
  let m := { movAt s n with last := none, lastXl := none }
  let s := setMov s n m
  let code := fld m.stat 7 0
  let next := granCap m.desc 3
  let s := if bitAt (mdWord m.desc 0) 9 then chRing s n 0 else s
  let s := if code = 0 then s else chRing s n 1
  if 1 < code then chStop s n 3 0 0
  else if capNull next then chainEnd s n
  else if m.step then chStop s n 0 0 0
  else setMov s n { m with phase := .fetch, head := next }

/-- A 16-byte or 8-byte completion write at offset `off` of the descriptor. -/
def movCplWrite (s : State) (n off txn : Nat) (d : List Byte) : Except XferErr Unit × State :=
  let m := movAt s n
  match xferPa (chReq s n) (capCursor m.head + off) needW 0 s with
  | (.error e, s) => (.error e, s)
  | (.ok (pa, _), s) =>
    match fabricTxn s pa d.length (.write d [] []) 4 (BitVec.ofNat 4 (capColour m.head)) n 0 with
    | (.ok _, s) => (.ok (), s)
    | (r, s) => (.error (busFail pa txn 0 r), s)

/-- A completion step that fails. A translation that no longer holds stops the channel (assumption log 24). -/
def movCplFail (s : State) (n : Nat) (e : XferErr) : State :=
  match e with
  | .xlat _ _ => chStop s n 3 5 0
  | .bus pa txn g k side => movFail s n pa txn g k side
  | .wait => s

/-- A descriptor completes: read-back, STATUS and RESULT, CTRL, bells, and what follows. -/
def execMoverDescriptorComplete (ch : BitVec 6) (s : State) : Out :=
  let n := ch.toNat
  let m := movAt s n
  if !movLive s n || decide (m.phase ≠ .ending) then .next s
  else
    let back : Except XferErr Unit × State := match m.last with
      | none => (.ok (), s)
      | some pa =>
        let col := BitVec.ofNat 4 (capColour (mdSide m.desc true).cap)
        match fabricTxn s pa 64 .read 4 col n 0 with
        | (.ok _, s) => (.ok (), s)
        | (r, s) => (.error (busFail pa 5 1 r), s)
    match back with
    | (.error e, s) => .next (movCplFail s n e)
    | (.ok _, s) =>
      match movCplWrite s n 0x70 6 (leBytes 8 m.stat.toNat ++ leBytes 8 m.result.toNat) with
      | (.error e, s) => .next (movCplFail s n e)
      | (.ok _, s) =>
        match movCplWrite s n 0 7 (leBytes 8 (setBit (mdWord m.desc 0) 63 false).toNat) with
        | (.error e, s) => .next (movCplFail s n e)
        | (.ok _, s) => .next (movFollow s n)

/-! ### The halt (R225, R226) -/

/-- A bus error halts every RUNNING or STARVED channel, and the record is written. -/
def execMoverHalt (s : State) : Out :=
  match s.movErr with
  | none => .next s
  | some e =>
    let ch := e.who.getD 0
    let s := (List.range 64).foldl (fun s n =>
      let st := chState s n
      if st = 2 ∨ st = 3 then
        setMov (setChState (rsetF s (chStatOff n) 11 9 st) n 4) n (movAt s n).rest
      else s) s
    let s := (List.range 4).foldl (fun s u => setUnit s u { unitAt s u with cur := none }) s
    let s := abandon (fun k => decide (keyCls k = 4)) { s with movErr := none }
    let s := if intRaw s .mov 0 0 then rsetB s (pg .mov + 0x038) 63 true
      else rset (rset s (pg .mov + 0x030) (wd e.pa)) (pg .mov + 0x038)
        (wd (ch * 2 ^ 32 + ch / 16 * 2 ^ 28 + e.txn * 2 ^ 24 + e.gate * 2 ^ 16 + e.cause))
    .next (intSet (rsetB s (pg .mov + 0x110) 0 true) .mov 0 0)

end Sys2Proof.Machine
end

