-- ==== Sys2Proof/Machine/Orrery.lean ====
section
/-! DEFINITION. The Orrery: sensors and monitors (R414, R415, R381), the AVS, cap and thermal loops (R416 to R419),
the planner (R420 to R422), and the watchdogs and clock monitor (R433, R434). -/

namespace Sys2Proof.Machine
open Sys2Proof

def setOrr (s : State) (f : Orrery → Orrery) : State := { s with orrery := f s.orrery }

/-- An ORR event that is also raised on the MGMT page (R427). -/
def orrEvent (s : State) (b m : Nat) : State := intSet (intSet s .orr 0 b) .mgmt 0 m

/-! ### Sensors and monitors -/

/-- A reading in quarter degrees outside −55 °C to 150 °C. -/
def tempBad (t : Int) : Bool := decide (t < -220) || decide (600 < t)

/-- A sample of sensor `n` (R414, R415): a failing one sets FAULT or restarts its count, and sixteen good ones in a row
clear it. A reading of 115 °C or more pulls THERMTRIP_N (R381). -/
def execSensorSample (n : BitVec 6) (t : BitVec 12) (ok : Bool) (s : State) : Out :=
  let i := n.toNat
  if !domOn s (sensorDom i) then .next s
  else
    let inj := injArmed s .orr 0 (0x40 + i)
    let s := if inj then injFire s .orr 0 else s
    let off := tempOff i
    let was := rbit s off 15
    let s := rsetF s off 11 0 t.toNat
    let s := if 460 ≤ t.toInt then { s with power := { s.power with trip := true } } else s
    if !ok || inj || tempBad t.toInt then
      let s := setOrr s fun o => { o with good := smErase i o.good }
      if was then .next s
      else .next (rasEvent (orrEvent (rsetB s off 15 true) 5 7) 2 (injTyp inj) 0 (pg .orr))
    else if !was then .next s
    else
      let k := smGet 0 s.orrery.good i + 1
      if 16 ≤ k then .next (rsetB (setOrr s fun o => { o with good := smErase i o.good }) off 15 false)
      else .next (setOrr s fun o => { o with good := smPut i k o.good })

/-- PCAP.CAP in force (R427). -/
def capWatts (s : State) : Nat := Nat.max 150 (Nat.min 700 (rfld s (pg .orr + 0x100) 9 0))

def thrOff : Nat := pg .orr + 0x110
def pkgOff : Nat := pg .orr + 0x108

/-- The cap loop's step becomes `k` (R418): MOV.SCALE and CDCAP follow the table. -/
def capStep (s : State) (k : Nat) : State :=
  let was := rfld s thrOff 3 0
  let s := rsetF s thrOff 3 0 k
  let s := rsetF s (pg .mov + 0x118) 8 0 ([256, 128, 64].getD k 32)
  let s := rsetF s thrOff 27 24 (Nat.max 3 k)
  let s := rsetB s thrOff 31 (decide (k ≠ 0))
  let s := if was = 0 ∧ k = 1 then orrEvent s 0 5 else s
  setDivisor s

/-- The instantaneous power exceeds the cap by a tenth. -/
def capHot (s : State) : Bool := decide (11 * capWatts s < rfld s pkgOff 15 0)

/-- The average lies more than 5 % below the cap now in force. -/
def capBelow (s : State) : Bool := decide (2 * rfld s pkgOff 47 32 < 19 * capWatts s)

def capUp (s : State) : State :=
  let k := rfld s thrOff 3 0
  if k < 12 then capStep s (k + 1) else s

/-- Power in 0.1 W of a current in 0.1 A at a voltage in mV (R414); which way a result between two steps goes is a free
bit. -/
def powerOf (s : State) (current volt : Nat) : Nat × State :=
  let x := current * volt
  if x % 1000 = 0 then (Nat.min 0xFFFF (x / 1000), s)
  else
    let (n, s) := freeNat s
    (Nat.min 0xFFFF (x / 1000 + b2n (bitAt (Config.freeWord n) 0)), s)

/-- A sample of monitor `d` (R414): its current at its rail's present voltage. The sample of monitor 23 completes a round: package power, its average over the
last hundred rounds, and one step up if the power exceeds the cap by a tenth (R418). -/
def execCurrentSample (d : Fin 24) (current volt : BitVec 16) (s : State) : Out :=
  let (power, s) := powerOf s current.toNat volt.toNat
  let s := rset s (pg .orr + 0x180 + 8 * d.val) (wd (power * 65536 + current.toNat))
  if d.val ≠ 23 then .next s
  else
    let p := Nat.min 0xFFFF (((List.range 24).map fun i => rfld s (pg .orr + 0x180 + 8 * i) 31 16).foldl (· + ·) 0)
    let h := (p :: s.orrery.hist).take 100
    let avg := h.foldl (· + ·) 0 / 100
    let s := rsetF (rsetF s pkgOff 47 32 avg) pkgOff 15 0 p
    let low := if capBelow s then some (s.orrery.capLow.getD s.tb) else none
    let s := setOrr s fun o => { o with hist := h, capLow := low }
    .next (if capHot s && !s.power.nadir then capUp s else s)

/-! ### The loops -/

/-- 1 ms of TB has passed since `t`. -/
def heldMs (s : State) (t : Option Word) : Bool :=
  match t with
  | none => false
  | some x => decide (x.toNat + 100000 ≤ s.tb.toNat)

/-- The lowest target that the loop may reach: 50 mV below the base value, and the base value itself that a lower divisor
waits for (R417, log 56). -/
def avsFloor (s : State) : Nat :=
  let low := Nat.max 650 (avsBase s (rfld s clkStat 11 8) - 50)
  match s.power.settle with
  | none => low
  | some d => Nat.max low (avsBase s d)

/-- One adjustment of the VDD target (R417). -/
def execAvsStep (below above : Bool) (s : State) : Out :=
  let t := rfld s orrAvs 9 0
  if s.power.nadir then .next s
  else if below then .next (setTarget s (Nat.min 850 (t + 5)))
  else if above then
    .next (if avsFloor s + 5 ≤ t then setTarget s (t - 5) else s)
  else .next s

/-- One evaluation of the cap loop (R418). -/
def execCapEvaluation (s : State) : Out :=
  if s.power.nadir || capHot s then .next s
  else if 10 * capWatts s < rfld s pkgOff 47 32 then .next (capUp s)
  else if heldMs s s.orrery.capLow && capBelow s && decide (rfld s thrOff 3 0 ≠ 0) then .next (capStep s (rfld s thrOff 3 0 - 1))
  else .next s

/-- Sensor `n` is on and not faulty. -/
def sensorUsable (s : State) (n : Nat) : Bool := domOn s (sensorDom n) && !rbit s (tempOff n) 15

def sensorTemp (s : State) (n : Nat) : Int := signed 12 (rfld s (tempOff n) 11 0)

/-- Tmax in quarter degrees as the thermal loop takes it (R415): 105 °C when no sensor of a powered cluster or engine
domain is usable. -/
def thermalMax (s : State) : Int :=
  if !((List.range 32 ++ [37, 38, 39, 40, 41, 42, 43, 44, 45, 46, 47, 48]).any (sensorUsable s)) then 420
  else (((List.range 64).filter (sensorUsable s)).map (sensorTemp s)).foldl max (-220)

/-- TLIM and HYST in force, in °C (R427). -/
def thermLimit (s : State) : Nat :=
  let t := rfld s (pg .orr + 0x118) 7 0
  if 70 ≤ t ∧ t ≤ 103 then t else 100
def thermHyst (s : State) : Nat :=
  let h := rfld s (pg .orr + 0x118) 15 8
  if 1 ≤ h ∧ h ≤ 20 then h else 5

/-- CDTH becomes `d` (R419). -/
def thermalStep (s : State) (d : Nat) : State :=
  let was := rfld s thrOff 19 16
  if was = d then s
  else
    let s := rsetB (rsetF s thrOff 19 16 d) thrOff 30 (decide (3 < d))
    setDivisor (if was = 3 then orrEvent s 1 6 else s)

/-- One evaluation of the thermal loop (R419). -/
def execThermalEvaluation (s : State) : Out :=
  if s.power.nadir then .next s
  else
    let inj := injArmed s .orr 0 1
    let s := if inj then injFire s .orr 0 else s
    let t := if inj then 420 else thermalMax s
    let lim : Int := 4 * thermLimit s
    let low := if t < lim - 4 * (thermHyst s : Int) then some (s.orrery.thLow.getD s.tb) else none
    let s := setOrr s fun o => { o with thLow := low }
    let d := rfld s thrOff 19 16
    if 420 ≤ t then .next (thermalStep s 12)
    else if lim < t then .next (thermalStep s (Nat.min 12 (d + 1)))
    else if heldMs s low then .next (thermalStep s (Nat.max 3 (d - 1)))
    else .next s

/-! ### The planner -/

/-- Power that the facility still allows, in W (R420). -/
def facAvail (s : State) : Nat :=
  let f := rget s (pg .orr + 0x150)
  fld f 31 16 - fld f 15 0

/-- Request `i` is eligible (R420). -/
def reqEligible (s : State) (i : Nat) : Bool :=
  let a := rget s (reqOff i)
  bitAt a 63 && !bitAt a 62 && !bitAt a 59 && decide (1 ≤ fld a 57 48) && decide (fld a 57 48 ≤ facAvail s)

/-- The score of a request (R421). -/
def reqScore (s : State) (i : Nat) : Nat :=
  let a := rget s (reqOff i)
  let sub := (rget s (reqOff i + 8)).toNat
  let w := rget s (pg .orr + 0x148)
  let cl := fld a 61 60
  let age := if s.tb.toNat < sub then 0 else Nat.min ((s.tb.toNat - sub) / 100000000) 65535
  let raw := rfld s (pg .orr + 0x140) (16 * cl + 15) (16 * cl) * 65536 + fld w 47 32 * age + fld w 31 16 * fld a 31 16 +
    fld w 15 0 * fld a 15 0
  raw * 256 / fld a 57 48

/-- The eligible request with the highest score, the lowest index among equals. -/
def reqPick (s : State) : Option Nat :=
  (List.range 64).foldl (fun (b : Option Nat) i =>
    if !reqEligible s i then b
    else match b with
      | none => some i
      | some j => if reqScore s j < reqScore s i then some i else b) none

/-- One run of the planner (R422). -/
def execPlannerRun (s : State) : Out :=
  if !rbit s pcfgOff 16 || rbit s decisionOff 63 then .next s
  else match reqPick s with
    | none => .next s
    | some i =>
      let a := rget s (reqOff i)
      let seq := (rfld s decisionOff 55 48 + 1) % 256
      let s := rsetB s (reqOff i) 62 true
      let s := rset s decisionOff (wd (2 ^ 63 + seq * 2 ^ 48 + i * 2 ^ 32 + fld a 47 32 * 2 ^ 16 + fld a 57 48))
      .next (orrEvent s 2 4)

/-! ### Watchdogs and the clock monitor -/

/-- Watchdog `w` expires when its time has run out; it pauses in NADIR and in an orderly stop (R433). -/
def execWatchdogExpiry (w : Bool) (s : State) : Out :=
  let i := b2n w
  if rbit s (swdOff i) 63 && decide (smFind s.swdLeft i = some 0) && !s.power.nadir && !stopped s then
    .next (swdExpire s i)
  else .next s

/-- Loss of PLL lock (R434). -/
def execLossOfLock (s : State) : Out :=
  if rbit s clkStat 0 && !s.power.nadir then .next (lockLost s) else .next s

end Sys2Proof.Machine
end

