-- ==== Sys2Proof/Machine/Startup.lean ====
section
/-! DEFINITION. Transitions, resets and start-up: TB alarm (R397), domain transitions and NADIR (R398 to R401),
the supplies (R402 to R404), the reset kinds (R405), the memory field (R407), the images (R338, R339, R408, R409)
and recalibration (R411). -/

namespace Sys2Proof.Machine
open Sys2Proof

/-! ### Timebase alarm, transitions and NADIR -/

/-- TB has reached ALARM (R397). -/
def alarmDue (s : State) : Bool := decide ((rget s (pg .tb + 0x108)).toNat ≤ s.tb.toNat)

/-- TB reaches ALARM: INT_RAW bit 0, and a wake source. -/
def execTbAlarm (s : State) : Out :=
  if !alarmDue s || s.power.alarmed then .next s
  else .next (wakeEvent (intSet { s with power := { s.power with alarmed := true } } .tb 0 0) 0)

/-- The accesses of every context are completed, as far as the ports take them (step 1 of R401). -/
def settleAll (s : State) : State := (s.ctxs.map (·.1)).foldl (fun s n => settleCtx s (BitVec.ofNat 11 n)) s

/-- A store that a port holds back, in HOLD, or a read that a port has not answered: entry to NADIR waits for it (R401,
R403). -/
def accessOpen (s : State) : Bool := s.ctxs.any fun p => decide (p.2.stores ≠ []) || decide (p.2.why = some .port)

/-- Entry to NADIR completes (R401): memory is in SR, banks 248 to 255 are in
retention and the others off, every domain but D0 is off and the PLL is stopped. A wake source that arrived
meanwhile is then taken (R413). -/
def nadirEnter (s : State) (mem : Nat) : State :=
  let s := { s with mem := memAfter s.mem (decide (mem ≠ 0)) true }
  let s := (List.range 248).foldl (fun s b => setBank s b 0) s
  let s := (List.range 8).foldl (fun s b => setBank s (248 + b) 1) s
  let s := (List.range 23).foldl (fun s d => loseDomain s (d + 1)) s
  let s := rsetB (setDomains s 1 mem) clkStat 0 false
  let s := { s with power := { s.power with cur := none, entry := false, nadir := true, settle := none } }
  let s := tamperReset (intSet (rsetB s dstatOff 34 false) .pwr 0 0)
  if s.power.wake then startUp s .nadirWake else s

/-- The transition in progress completes, and the next DREQ write waiting is taken (R398, R412, R413). -/
def execDomainTransitionDone (s : State) : Out :=
  if stopped s then .next s
  else match s.power.cur with
    | none => .next s
    | some (on, mem) =>
      if s.power.entry then
        let s := settleAll s
        if accessOpen s then .next s else .next (nadirEnter s mem)
      else
        let s := domainsReach { s with power := { s.power with cur := none } } on mem
        let s := intSet (rsetB s dstatOff 34 false) .pwr 0 0
        .next (tamperReset (dreqNext s.power.queue.length s))

/-- A wake source of R401 leaves NADIR (R405). -/
def execNadirWake (src : WakeSrc) (s : State) : Out :=
  match src with
  | .tba => .next (if s.power.nadir && alarmDue s then wakeEvent s 0 else s)
  | .perst => .next (if s.power.nadir then wakeEvent s 1 else s)
  | .i3c => .next (if s.power.nadir then wakeEvent s 2 else s)

/-! ### Supplies -/

/-- A rail at its reset level (R402, R405), which is below its warning level: VDD_AON gives a power-on reset, the others a
supply reset. -/
def execSupplyReset (rail : Fin 5) (s : State) : Out :=
  .next (startUp (rsetB s supStat rail.val true) (if rail.val = 2 then .powerOn else .supply))

/-- A rail `depth` mV below its set-point: below its warning level it is a dip (R402, R403), at its reset level a reset;
no dip does more than set WARN once the device has stopped. -/
def execSupplyWarning (rail : Fin 5) (depth : BitVec 16) (s : State) : Out :=
  if railReset s rail.val depth.toNat then execSupplyReset rail s
  else if !railLow s rail.val depth.toNat then .next s
  else if stopped s then .next (rsetB s supStat rail.val true) else .next (holdEnter s rail.val depth.toNat)

/-- A rail above its warning level plus hysteresis: its WARN bit clears (R403), and start-up goes on from step 3 when no
rail is left that it waits for (R460). -/
def execSupplyRecovery (rail : Fin 5) (s : State) : Out :=
  let s := rsetB s supStat rail.val false
  .next (if startWaits s && !railsLow s then startOn s 0xFFFFFF else s)

/-- Every rail has stayed above its level for 10 µs: HOLD ends (R403). -/
def execHoldExit (s : State) : Out :=
  if stopped s || decide (rfld s supStat 4 0 ≠ 0) then .next s else .next (holdLeave s)

/-- A rail has stayed below its warning level for 2 ms since HOLD began: the device stops (R404). -/
def execOrderlyStop (s : State) : Out :=
  if inHold s && decide (rfld s supStat 4 0 ≠ 0) then .next (stopOrderly s) else .next s

/-- Power-on reset (R405). -/
def execPowerOnReset (s : State) : Out := .next (startUp s .powerOn)

/-- SYS_RST_N: a device reset (R405). -/
def execSysRstN (s : State) : Out := .next (startUp s .device)

/-- VDD has settled at its target: its levels follow, and a lower divisor whose base value it has reached takes effect
(R417). -/
def execVddSettled (s : State) : Out :=
  let s := { s with power := { s.power with level := rfld s orrAvs 9 0 } }
  match s.power.settle with
  | none => .next s
  | some d =>
    if s.power.level < avsBase s d then .next (setTarget s (avsBase s d))
    else .next (rsetF { s with power := { s.power with settle := none } } clkStat 11 8 d)

/-! ### Start-up, steps 6 to 8 -/

def bootStat : Nat := pg .pwr + 0x128

/-- Start-up is under way in the boot ROM. -/
def booting (s : State) : Bool :=
  decide (rfld s (pg .sys + 0x108) 1 0 = 0) && decide (rfld s bootStat 15 8 = 0) && !startWaits s && !s.power.nadir && !stopped s

/-- CALSTAT as the stored set gives it (R411). -/
def calStat (s : State) : State :=
  rset s (pg .keep + 0x108)
    (wd (calSeq s % 2 ^ 40 * 2 ^ 24 + (if calValid s then calOrigin s * 256 else 2)))

/-- At step 7 of R406: CALSTAT, and the AVS table of the stored set or the fuse defaults, with AVS.FUSE; the target is
brought to the least that the table allows (R411, R417). -/
def calLoad (s : State) : State :=
  let ok := calValid s
  let tab := if ok then calTable s else Orrery.idle.avsTab
  let s := rsetB { calStat s with orrery := { s.orrery with avsTab := tab, avsNext := none } } orrAvs 16 !ok
  setTarget s (Nat.max (rfld s orrAvs 9 0) (avsFloor s))

/-- The identification values of the Keep (R3, R376): little-endian from offset 0 the Subsystem IDs, at offset 4 the I3C
static address and at offset 8 bits [47:33] of the provisional ID; zero means that the Keep holds no value (assumption
log 74). -/
def idLoad (s : State) : State :=
  let at_ := fun o n => leNat (memBytes s.mem (keepBase + o) n)
  let ssid := at_ 0 4
  let addr := at_ 4 1 % 128
  rsetF { s with mgmt := { s.mgmt with
      ssid := if ssid = 0 then 0x00011D7E else BitVec.ofNat 32 ssid
      pid := BitVec.ofNat 15 (at_ 8 2) } }
    (pg .mgmt + 0x118) 6 0 (if addr = 0 then 0x5A else addr)

/-- Step 7 of R406: the Keep's values are read, the host ports are ready for configuration, and the persistent log is
found. -/
def startUpKeep (s : State) : State :=
  let s := idLoad (calLoad (rsetF s bootStat 7 0 7))
  let s := if domOn s 16 then rsetB (rsetB s (pg .host 0 + 0x100) 0 true) (pg .host 1 + 0x100) 0 true else s
  logLoad s

/-- The order of image sources: 0 NOR primary, 1 NOR backup, 2 host H0 (R408). -/
def bootOrder (s : State) : List Nat :=
  let n := (memByte s.mem (keepBase + 0x10)).toNat % 4
  match if n = 3 then Config.bootSrc3 % 3 else n with
  | 0 => [0, 1, 2]
  | 1 => [2]
  | _ => [0, 1]

/-- The capability of aperture `a` that the boot ROM opens: LOAD and STORE, colour 0 (R408). -/
def bootAperture (a : Nat) : Cap :=
  match capNarrow (mkCap 29 0 0x80000 3 0 0 (spadBase + a * 0x100000)) 0x100000 true with
  | .ok c => c
  | .error _ => Cap.null

/-- The boot ROM opens apertures 0 to 31 of H0 and sets CTRL.OPEN (R408). -/
def bootHostOpen (s : State) : State :=
  if !domOn s 16 then s
  else
    let s := (List.range 32).foldl (fun s a =>
      setAp s 0 a { apAt s 0 a with state := 2, verdict := 0, cap := bootAperture a, tenant := 0 }) s
    rsetB s (pg .host 0 + 0x100) 1 true

/-- The source now in turn is taken up: the host's apertures open. -/
def bootSourceBegin (s : State) : State :=
  if (bootOrder s)[s.power.bootAt]? = some 2 then bootHostOpen s else s

/-- The boot ROM ends start-up with a code: console, persistent log, and context 0 halted (R408, R409, R435). -/
def bootFailed (s : State) (code : Nat) : State :=
  let s := rsetF s bootStat 15 8 code
  let s := uartQueue s (BitVec.ofNat 8 code)
  let s := rasEvent s 3 6 code (pg .pwr)
  setCtx s 0 (parkCtx (ctxAt s 0))

/-- The memory field comes ON (R407): every controller takes the temperature that goes with its eye settings. -/
def memoryOn (s : State) (ttemp : List Nat) : State :=
  let s := if rfld s dstatOff 33 32 = 0 then [11, 12, 13, 14, 15].foldl initDomain s else s
  let s := setDomains s (rfld s dstatOff 23 0) 3
  let s := ttemp.zipIdx.foldl (fun s p => setTtemp s p.2 p.1) s
  bootSourceBegin (rsetF s bootStat 7 0 8)

/-- Step 8 of R406 by the path of R407 that applies. -/
def execMemoryFieldInit (path : MemInit) (s : State) : Out :=
  let m := rfld s dstatOff 33 32
  if !booting s || decide (m = 3) || decide (8 ≤ rfld s bootStat 7 0) then .next s
  else
    let ok := calValid s
    match path with
    | .warm => if m = 1 then .next (memoryOn (startUpKeep s) []) else .next s
    | .calibrated =>
      if m = 1 ∨ ok = false then .next s
      else .next (memoryOn (startUpKeep s) (List.replicate 5 (calTemp s)))
    | .trained ts =>
      if m = 1 ∨ ok = true then .next s else .next (memoryOn (startUpKeep s) (ts.map (·.toNat)))
    | .untrainable => if m = 1 ∨ ok = true then .next s else .next (bootFailed (startUpKeep s) 7)

/-! ### Images (R338, R339, R408, R409) -/

/-- Physical bytes [a, a + n) as transactions that each lie in one line. -/
def lineCuts : Nat → Nat → Nat → List (Nat × Nat)
  | 0, _, _ => []
  | fuel + 1, a, n =>
    if n = 0 then []
    else
      let k := Nat.min n (64 - a % 64)
      (a, k) :: lineCuts fuel (a + k) (n - k)

def cutsOf (a n : Nat) : List (Nat × Nat) := lineCuts (n / 64 + 2) a n

/-- Bytes the boot ROM reads; a transaction that is not answered gives zeros. -/
def romRead (s : State) (a n : Nat) : List Byte × State :=
  (cutsOf a n).foldl (fun (x : List Byte × State) p =>
    match fabricTxn x.2 p.1 p.2 .read 3 0 0 0 with
    | (.ok d, s) => (x.1 ++ d.bytes, s)
    | (_, s) => (x.1 ++ List.replicate p.2 0, s)) ([], s)

/-- Bytes the boot ROM writes, line by line. -/
def romWrite (s : State) (a : Nat) (b : List Byte) : State :=
  ((cutsOf a b.length).foldl (fun (x : List Byte × State) p =>
    (x.1.drop p.2, (fabricTxn x.2 p.1 p.2 (.write (x.1.take p.2) [] []) 3 0 0 0).2)) (b, s)).2

def imgMagic (h : List Byte) : Bool := decide (h.take 4 = [0x5A, 0x46, 0x57, 0x31])
def imgBodyLen (h : List Byte) : Nat := leAt h 0x0C 4
def imgLoad (h : List Byte) : Nat := leAt h 0x10 8
def imgEntry (h : List Byte) : Nat := leAt h 0x18 8

/-- Check 1 of R339 against the table of R338. -/
def imgForm (h : List Byte) (typ : Nat) : Bool :=
  imgMagic h && decide (leAt h 4 1 = typ) && decide (leAt h 6 2 = 0) && decide (leAt h 0x81 31 = 0) &&
    decide (leAt h 0xD0 48 = 0) && decide (leAt h 0x160 160 = 0) &&
    decide (4 ≤ imgBodyLen h) && decide (imgBodyLen h ≤ 16776704) && decide (imgBodyLen h % 4 = 0)

/-- Check 2 of R339: the key. -/
def imgKeyOk (s : State) (h : List Byte) : Bool :=
  let d := BitVec.ofNat 384 (beNat (sha384 (sliceZ h 0x20 97)))
  let i := leAt h 5 1
  if s.life.state = 0 then decide (d = Config.manufHash)
  else decide (i < 4) && decide (d = Config.keyHash i) && !Config.keyRevoked i

/-- Check 4 of R339: the signature. -/
def imgSigned (h : List Byte) : Bool :=
  ecdsaVerify (sliceZ h 0x20 97) (sha384 (h.take 0x100)) (beNat (sliceZ h 0x100 48)) (beNat (sliceZ h 0x130 48))

/-- The checks of R339 in order on one image: 0, or the number of the check that fails. The body is copied to LOAD
before check 5, which checks the copy. -/
def imgCheck (s : State) (h : List Byte) (typ : Nat) (body : State → List Byte × State) : Nat × State :=
  if !imgForm h typ then (1, s)
  else if !imgKeyOk s h then (2, s)
  else if leAt h 8 4 < Config.minSvn typ then (3, s)
  else if !imgSigned h then (4, s)
  else
    let (b, s) := body s
    let s := romWrite s (imgLoad h) b
    let (c, s) := romRead s (imgLoad h) (imgBodyLen h)
    if sha384 c = sliceZ h 0xA0 48 then (0, s) else (5, s)

/-- An image as its source holds it: its header, and how its body is read. -/
def norImage (b : List Byte) : List Byte × (State → List Byte × State) :=
  let h := sliceZ b 0 512
  (h, fun s => (sliceZ b 512 (imgBodyLen h), s))

def spadImage (s : State) (off : Nat) : (List Byte × (State → List Byte × State)) × State :=
  let (h, s) := romRead s (spadBase + off) 512
  ((h, fun s => romRead s (spadBase + off + 512) (imgBodyLen h)), s)

/-- The execute root narrowed to a body (R409). -/
def execOver (h : List Byte) : Cap :=
  match capNarrow (capMove resetPcc (imgLoad h)) (imgBodyLen h) false with
  | .ok c => c
  | .error _ => Cap.null

/-- A LOAD capability over the operator image's header (R409). -/
def headerCap (at_ : Nat) : Cap :=
  match capNarrow (mkCap 29 0 0x80000 1 0 0 at_) 512 true with
  | .ok c => c
  | .error _ => Cap.null

/-- The 512 scratchpad bytes, 512-aligned, that the ROM leaves a NOR image's header in: the spec does not place it. -/
def headerPlace (s : State) : Nat × State :=
  let (n, s) := freeNat s
  (spadBase + (Config.freeWord n).toNat % 0x1F000 * 512, s)

/-- Both images passed (R340, R406, R409): M0 and M1 are extended, SYS.PHASE becomes SERVICE and context 0 runs the
Custodian image. -/
def bootEnter (s : State) (src : Nat) (hc ho : List Byte) : State :=
  let (hat, s) := if src = 2 then (spadBase + 0x1000000, s) else
    let (a, s) := headerPlace s
    (a, romWrite s a ho)
  let s := extendMeas (extendMeas s 0 (sha384 (hc.take 0x100))) 1 (sha384 (ho.take 0x100))
  let s := phaseWrite s 1 3
  let s := rsetF (rsetF s bootStat 7 0 10) bootStat 17 16 src
  let c := ctxAt s 0
  let pcc := execOver hc
  let roots : SMap Cap := bootCtx.bank
  let bank := [(1, smGet Cap.null roots 1), (2, execOver ho), (3, smGet Cap.null roots 3),
    (4, smGet Cap.null roots 4), (5, headerCap hat)]
  let s := setCtx s 0 { c with
    run := .ready, super := true, cust := true, pcc := capMove pcc (imgLoad hc + imgEntry hc),
    bank := (c.bank.filter fun p => decide (7 < p.1)).foldl (fun b p => smPut p.1 p.2 b) bank,
    queue := [], fetch := none, why := none, wait := none, walk := none, repAct := false }
  s

/-- The next source, or the end of start-up (R408). `code` is the check that failed, 0 if the source held no
images. -/
def bootNext (s : State) (code : Nat) : State :=
  let s := { s with power := { s.power with bootAt := s.power.bootAt + 1, bootFail := if code = 0 then s.power.bootFail else code } }
  if s.power.bootAt < (bootOrder s).length then bootSourceBegin s else bootFailed s s.power.bootFail

/-- The images of one source: taken if both pass. -/
def bootTry (s : State) (src : Nat) (ic io : List Byte × (State → List Byte × State)) : State :=
  if !(imgMagic ic.1 && imgMagic io.1) then bootNext s 0
  else
    let (k, s) := imgCheck s ic.1 1 ic.2
    if k ≠ 0 then bootNext s k
    else
      let (k, s) := imgCheck s io.1 2 io.2
      if k ≠ 0 then bootNext s k else bootEnter s src ic.1 io.1

/-- A command to the NOR in the layout of SPICMD: opcode, LINES, ABYTES and address. -/
def norCmd (op lines abytes addr : Nat) : Word := wd (lines * 2 ^ 52 + abytes * 2 ^ 50 + addr % 2 ^ 32 * 2 ^ 8 + op)

/-- The commands that the boot ROM sends to the NOR for the slots at `base` and `base` + 16 MiB (R379): it reads SFDP (0x5A)
over one line; with a valid table it uses the quad read `q`, with 4-byte addresses above 16 MiB, and without one the 0x03
read with 3-byte addresses. -/
def norReads (s : State) (q : Option (Byte × BitVec 2)) (base : Nat) : State :=
  let read := fun a => match q with
    | some (op, lines) => norCmd op.toNat lines.toNat (if 0x1000000 ≤ a then 2 else 1) a
    | none => norCmd 0x03 0 1 (a % 0x1000000)
  { s with mgmt := { s.mgmt with nor := s.mgmt.nor ++ [norCmd 0x5A 0 1 0, read base, read (base + 0x1000000)] } }

/-- Step 9 of R406 for the source in turn (R408). The host source waits for doorbell 0, and its apertures close
before either image is checked. A SCRAPPED device's boot ROM halts (R341). -/
def execBootImageCheck (src : BootSrc) (s : State) : Out :=
  let turnOf := (bootOrder s)[s.power.bootAt]?
  if !booting s || decide (rfld s dstatOff 33 32 ≠ 3) || decide (10 ≤ rfld s bootStat 7 0) then .next s
  else if s.life.state = 4 then .next (setCtx s 0 (parkCtx (ctxAt s 0)))
  else match src with
    | .norPrimary q c o => if turnOf = some 0 then .next (bootTry (norReads s q 0) 0 (norImage c) (norImage o)) else .next s
    | .norBackup q c o =>
      if turnOf = some 1 then .next (bootTry (norReads s q 0x2000000) 1 (norImage c) (norImage o)) else .next s
    | .host =>
      if turnOf = some 2 ∧ bellPending s 1536 = true then
        let s := { s with bells := setDel 1536 s.bells }
        let s := (List.range 32).foldl (fun s a => closeAp s 0 a 5) s
        let (c, s) := spadImage s 0
        let (o, s) := spadImage s 0x1000000
        .next (bootTry s 2 c o)
      else .next s

/-! ### Recalibration -/

/-- Every stack is trained and the set is written to the Keep with SEQ + 1 and ORIGIN 2, trailer last (R411). The
write is not started in HOLD, and the table is used from the next divisor change (R429). -/
def execRecalComplete (set : List Byte) (s : State) : Out :=
  let off := pg .keep + 0x108
  if !rbit s off 0 || inHold s || stopped s || (List.range 5).any (trainOpen s) then .next s
  else
    let body := sliceZ set 0 65520 ++ leBytes 8 (calSeq s + 1) ++ leBytes 4 2
    let s := calStat { s with mem := memPut s.mem calBase (body ++ leBytes 4 (crc32c body).toNat) }
    .next { s with orrery := { s.orrery with avsNext := some (calTable s) } }

end Sys2Proof.Machine
end

