-- ==== Sys2Proof/Machine/Tambour.lean ====
section
/-! DEFINITION. The Tambour link (R382 to R395): bring-up, reception, retry, memory and bell messages, the time
exchange and gossip. A stroke that a port sends over and over is listed once in its output (assumption log 52). -/

namespace Sys2Proof.Machine
open Sys2Proof

/-- LINK of a port, and its STATE: 0 DISABLED, 1 ELEC, 2 ALIGN, 3 PARAM, 4 ACTIVE. -/
def linkOff (p : Nat) : Nat := pg .peer p + 0x108
def linkState (s : State) (p : Nat) : Nat := if domOn s 21 then rfld s (linkOff p) 42 40 else 0

/-! ### Bring-up (R384) -/

/-- A failed attempt returns to ELEC and counts. -/
def bringFail (s : State) (p : Nat) : State :=
  let s := rsatF (rsetF s (linkOff p) 42 40 1) (linkOff p) 63 48 1
  setPeer s p { peerAt s p with aligned := 0, inits := 0, gotInit := none }

/-- ELEC_DONE. -/
def execElecDone (p : BitVec 1) (s : State) : Out :=
  let i := p.toNat
  if linkState s i = 1 then .next (setPeer (rsetF s (linkOff i) 42 40 2) i { peerAt s i with aligned := 0 })
  else .next s

/-- BRINGUP_TIMEOUT. -/
def execBringupTimeout (p : BitVec 1) (s : State) : Out :=
  let st := linkState s p.toNat
  .next (if 1 ≤ st ∧ st ≤ 3 then bringFail s p.toNat else s)

/-- TAMBOUR_LINK_DOWN (R389). -/
def execTambourLinkDown (p : BitVec 1) (s : State) : Out :=
  .next (if linkState s p.toNat = 4 then peerDown s p.toNat else s)

/-! ### Reception (R383, R385, R386) -/

/-- Sequenced types. -/
def isSequenced (typ : Nat) : Bool := [0x10, 0x11, 0x12, 0x20, 0x30, 0x40].contains typ

/-- Payload of an ALIGN stroke: byte i is i. -/
def alignPayload : List Byte := (List.range 128).map (BitVec.ofNat 8)

/-- The words of `d` that `mask` does not name are zero. -/
def onlyWords (mask : Nat) (d : List Byte) : Bool :=
  (List.range 16).all fun w => mask.testBit w || (sliceZ d (8 * w) 8).all fun b => decide (b = 0)

/-- Bytes [lo, hi) are zero. -/
def zeroRange (d : List Byte) (lo hi : Nat) : Bool := (sliceZ d lo (hi - lo)).all fun b => decide (b = 0)

/-- A stroke has a good CRC, and every field of it that must be zero is zero (R383). -/
def strokeOk (typ : Nat) (k : Stroke) : Bool :=
  let mem := decide (typ = 0x10) || decide (typ = 0x11) || decide (typ = 0x12)
  let arg := k.arg.toNat
  decide (k.payload.length = 128) && decide (k.crc = strokeCrc typ k) && decide (k.pad = 0) && decide (k.vl.toNat < 4) &&
  (isSequenced typ || decide (k.seq = 0)) &&
  (if typ = 0x11 ∨ typ = 0x12 then decide (k.rtag.toNat < 256) else decide (k.rtag = 0)) &&
  (mem || decide (k.wmask = 0)) &&
  (if mem then decide (nfld arg 6 0 = 0) && decide (nfld arg 39 39 = 0) && decide (arg < 2 ^ 51)
    else if typ = 0x20 then decide (arg < 2 ^ 12) else decide (arg = 0)) &&
  (if typ = 0x10 ∨ typ = 0x12 then onlyWords k.wmask.toNat k.payload
    else if typ = 0x02 then zeroRange k.payload 7 128
    else if typ = 0x30 then zeroRange k.payload 1 8 && zeroRange k.payload 32 128
    else if typ = 0x40 then
      zeroRange k.payload 43 48 && zeroRange k.payload 56 64 && zeroRange k.payload 107 112 && zeroRange k.payload 120 128
    else if typ = 0xF1 then true
    else zeroRange k.payload 0 128)

/-- One NAK asks for retransmission, until the stroke awaited is accepted. -/
def sendNak (s : State) (p : Nat) : State :=
  let x := peerAt s p
  if x.nakSent then s
  else
    setPeer s p { x with
      nakSent := true, out := x.out ++ [emitStroke s x { typ := 0x01, stroke := Stroke.blank }] }

/-- A stroke discarded for its CRC or its fields (R383, R431); `inj` says that the injection point made it so. -/
def strokeDrop (s : State) (p : Nat) (inj : Bool) : State :=
  let s := rsatF s (pg .peer p + 0x110) 41 21 1
  let s := rasEvent s 0 (injTyp inj) 0 (pg .peer p)
  if linkState s p = 4 then sendNak s p else setPeer s p { peerAt s p with aligned := 0 }

/-- Strokes up to SEQ `a` are released, if one of those held has it: ACK advances. -/
def release (s : State) (x : PeerPort) (a : BitVec 16) : PeerPort :=
  match x.held.findIdx? fun t => decide (t.stroke.seq = a) with
  | some i => { x with held := x.held.drop (i + 1), resends := 0, ackTb := s.tb }
  | none => x

/-- The CRED byte of lane `l`, taken when it lies 1 to 128 ahead. -/
def takeCred (k : Stroke) (x : PeerPort) (l : Nat) : PeerPort :=
  let c := nfld k.cred.toNat (8 * l + 7) (8 * l)
  let d := (c + 256 - x.cred.getD l 0) % 256
  if 1 ≤ d ∧ d ≤ 128 then { x with cred := x.cred.set l c } else x

/-- What waits in the transmit queue is sent as far as it may be. -/
def pump (s : State) (p : Nat) : State :=
  let x := peerAt s p
  setPeer s p (peerPump s x.txq.length x)

/-- ACK and CRED of a good stroke. -/
def rxHead (s : State) (p : Nat) (k : Stroke) : State :=
  setPeer s p ([0, 1, 2, 3].foldl (takeCred k) (release s (peerAt s p) k.ack))

/-- A stroke arrives: false when the port is not ACTIVE or the stroke is discarded as bad; otherwise its ACK and CRED
are taken. A stroke that is no ALIGN breaks a row of them (R384). -/
def rxStroke (s : State) (p typ : Nat) (k : Stroke) : Bool × State :=
  if linkState s p < 2 then (false, s)
  else if injArmed s .peer p 1 then (false, strokeDrop (injFire s .peer p) p true)
  else if !strokeOk typ k then (false, strokeDrop s p false)
  else if linkState s p = 2 ∧ typ ≠ 0xF1 then (false, setPeer s p { peerAt s p with aligned := 0 })
  else if linkState s p ≠ 4 then (false, s)
  else (true, rxHead s p k)

/-- A buffer of lane `l` is freed (R386). -/
def freeBuf (s : State) (p l : Nat) : State :=
  let x := peerAt s p
  setPeer s p { x with freed := x.freed.set l ((x.freed.getD l 0 + 1) % 256) }

/-- A sequenced stroke was accepted: the SEQ awaited advances. -/
def accepted (s : State) (p : Nat) : State :=
  let x := peerAt s p
  setPeer s p { x with expect := x.expect + 1, nakSent := false }

/-- Every held stroke is sent again; the eighth time in a row for the same oldest one takes the link down (R385). -/
def resend (s : State) (p : Nat) : State :=
  let x := peerAt s p
  if x.held = [] then s
  else
    let again := x.held.map (emitStroke s x)
    let s := rsatF s (pg .peer p + 0x110) 20 0 1
    let s := setPeer s p { x with
      held := again, out := x.out ++ again, resends := x.resends + 1, ackTb := s.tb
      again := some (s.tb, x.out.length, x.held.length) }
    if 8 ≤ x.resends + 1 then peerDown s p else s

/-- IDLE_STROKE. -/
def execIdleStroke (p : BitVec 1) (k : Stroke) (s : State) : Out := .next (pump (rxStroke s p.toNat 0x00 k).2 p.toNat)

/-- A NAK in the unit of TB in which a resend began: that one resend begins at the NAK's ACK + 1, past the `n` strokes that
the NAK released (R394, assumption log 75). -/
def nakMerge (x : PeerPort) (n at' sent : Nat) : PeerPort :=
  if n = 0 then x
  else { x with out := x.out.take at' ++ x.out.drop (at' + Nat.min n sent), resends := 1 }

/-- NAK (R385): a resend, or the part left of one that began in the same unit of TB. -/
def execNak (p : BitVec 1) (k : Stroke) (s : State) : Out :=
  let i := p.toNat
  let held := (peerAt s i).held.length
  match rxStroke s i 0x01 k with
  | (true, s) =>
    let x := peerAt s i
    .next (pump (match x.again with
      | some (tb, at', sent) =>
        if tb = s.tb then setPeer s i (nakMerge x (held - x.held.length) at' sent) else resend s i
      | none => resend s i) i)
  | (false, s) => .next s

/-- ALIGN_STROKE: 16 consecutive ones that arrive deskewed with good CRC lead to PARAM (R384); while the link is ACTIVE it
carries ACK and CRED as every stroke does. -/
def execAlignStroke (p : BitVec 1) (kd : Stroke × Bool) (s : State) : Out :=
  let i := p.toNat
  let (k, deskewed) := kd
  let good := !injArmed s .peer i 1 && strokeOk 0xF1 k
  let (_, s) := rxStroke s i 0xF1 k
  if linkState s i = 2 ∧ good = true then
    let x := peerAt s i
    let n := if deskewed then x.aligned + 1 else 0
    if 16 ≤ n then .next (setPeer (rsetF s (linkOff i) 42 40 3) i { x with aligned := 0, inits := 0, gotInit := none })
    else .next (setPeer s i { x with aligned := n })
  else .next (pump s i)

/-- STROKE_BAD (R383): an armed injection point fires on it, as on every stroke received (R438). -/
def execStrokeBad (p : BitVec 1) (s : State) : Out :=
  let i := p.toNat
  let inj := injArmed s .peer i 1
  .next (if 2 ≤ linkState s i then strokeDrop (if inj then injFire s .peer i else s) i inj else s)

/-- REPLAY_TIMEOUT (R385): 8 µs of TB without ACK advancing, while strokes are held. -/
def execReplayTimeout (p : BitVec 1) (s : State) : Out :=
  let i := p.toNat
  .next (if linkState s i = 4 ∧ 800 ≤ (s.tb - (peerAt s i).ackTb).toNat then resend s i else s)

/-- The link becomes ACTIVE with the partner's INIT. -/
def linkActive (s : State) (p : Nat) (k : Stroke) : State :=
  let x := peerAt s p
  let d := k.payload
  let s := setPeer s p { PeerPort.idle with
    out := x.out, anchor := x.anchor, dones := x.dones, grace := x.grace
    credInit := [leAt d 2 1, leAt d 3 1, leAt d 4 1, leAt d 5 1] }
  let s := rsetF (rsetF (rsetB s (linkOff p) 0 true) (linkOff p) 42 40 4) (linkOff p) 19 16 (leAt d 6 1)
  intSet s .peer p 0

/-- An INIT stroke has been received, and this port has sent 8 (R384). -/
def paramDone (s : State) (p : Nat) : State :=
  let x := peerAt s p
  match x.gotInit with
  | some k => if linkState s p = 3 ∧ 8 ≤ x.inits then linkActive s p k else s
  | none => s

/-- INIT_STROKE (R384). -/
def execInitStroke (p : BitVec 1) (k : Stroke) (s : State) : Out :=
  let i := p.toNat
  let good := !injArmed s .peer i 1 && strokeOk 0x02 k
  let (_, s) := rxStroke s i 0x02 k
  if linkState s i ≠ 3 ∨ good = false then .next (pump s i)
  else if leAt k.payload 0 2 ≠ 1 then .next (bringFail s i)
  else .next (paramDone (setPeer s i { peerAt s i with gotInit := some k }) i)

/-- The device's NODE. -/
def ownNode (s : State) : Nat := rfld s (pg .peer 0 + 0x118) 3 0

/-- A stroke that the port sends over and over is put on the link, and listed unless the one before it was the same. -/
def repeatStroke (s : State) (p typ : Nat) (k : Stroke) : State :=
  let x := peerAt s p
  let e := emitStroke s x { typ := typ, stroke := k }
  if x.out.getLast? = some e then s else setPeer s p { x with out := x.out ++ [e] }

/-- What a port sends by itself in a unit of TB (R384, R385): ALIGN, INIT, or IDLE with new ACK or CRED. -/
def linkTick (s : State) (p : Nat) : State :=
  let st := linkState s p
  if st = 2 then repeatStroke s p 0xF1 { Stroke.blank with payload := alignPayload }
  else if st = 3 then
    let pay := leBytes 2 1 ++ [128, 32, 4, 8] ++ leBytes 1 (ownNode s) ++ List.replicate 121 0
    let s := repeatStroke s p 0x02 { Stroke.blank with payload := pay }
    paramDone (setPeer s p { peerAt s p with inits := Nat.min 8 ((peerAt s p).inits + 1) }) p
  else if st = 4 then
    let x := peerAt s p
    let now : BitVec 16 × BitVec 32 := (x.expect - 1, credWord x)
    if (x.out.getLast?.map fun t => (t.stroke.ack, t.stroke.cred)) = some now then s
    else repeatStroke s p 0x00 Stroke.blank
  else s

/-! ### Memory and bell messages (R387, R388) -/

/-- Runs of consecutive words that a WMASK names: first word and length. -/
def wordRuns : Nat → Nat → Nat → Option (Nat × Nat) → List (Nat × Nat)
  | 0, _, _, cur => cur.toList
  | n + 1, mask, w, cur =>
    if mask.testBit w then
      wordRuns n mask (w + 1) (match cur with
        | some (b, l) => some (b, l + 1)
        | none => some (w, 1))
    else cur.toList ++ wordRuns n mask (w + 1) none

/-- The window offset of a block. -/
def blockOff (k : Stroke) : Nat := fld k.arg 38 0

/-- Why a memory message is refused (CAUSE and KIND of R375), or the address of its block. -/
def peerAuth (s : State) (p : Nat) (k : Stroke) (store : Bool) : Except (Nat × Nat) (Cap × Nat) :=
  match (peerAt s p).anchor with
  | none => .error (3, 0)
  | some c =>
    let x := capCursor c + blockOff k
    let rs := wordRuns 16 k.wmask.toNat 0 none
    let lo := (rs.head?.map (·.1)).getD 0
    let hi := (rs.getLast?.map fun r => r.1 + r.2).getD 0
    match capCheck c [if store then rStore else rLoad] true false (x + 8 * lo) (8 * (hi - lo)) with
    | some kind => .error (4, kind)
    | none =>
      if 0x40000000000 < x + 8 * hi ∧ x + 8 * lo < 0x50000000000 then .error (13, 0) else .ok (c, x)

/-- A refused message is logged. -/
def peerRefuse (s : State) (p : Nat) (k : Stroke) (e : Nat × Nat) : State :=
  portRecord s .peer p (blockOff k) e.1 e.2 0 0 false

/-- Window granules of a block that target granule `g` takes bytes from, when byte 0 of the block lies at `x`. -/
def blockPoison (k : Stroke) (x g : Nat) : Bool :=
  (List.range 8).any fun w => bitAt k.arg (40 + w) && decide (x + 16 * w < 16 * g + 16) && decide (16 * g < x + 16 * w + 16)

/-- The lines of the words that a memory message names, its block lying at `x`. -/
def msgLines (k : Stroke) (x : Nat) : List (Nat × Nat) :=
  (wordRuns 16 k.wmask.toNat 0 none).flatMap fun r => linesOf (x + 8 * r.1) (8 * r.2)

/-- The lines of an MWR are written, each judged by its gate; the lines left where one waits. -/
def mwrWrite (p : Nat) (k : Stroke) (c : Cap) (x : Nat) : List (Nat × Nat) → State → List (Nat × Nat) × State
  | [], s => ([], s)
  | q :: qs, s =>
    let po := (grans q.1 q.2).map (blockPoison k x)
    let d := sliceZ k.payload (q.1 - x) q.2
    match fabricTxn s q.1 q.2 (.write d [] po) (BitVec.ofNat 4 (12 + p)) (BitVec.ofNat 4 (capColour c)) 0 0 with
    | (.pending, s) => (q :: qs, s)
    | (.ok _, s) => mwrWrite p k c x qs (softWrite s q.1 q.2)
    | (.refused _, s) => mwrWrite p k c x qs (peerRefuse s p k (6, 0))
    | (_, s) => mwrWrite p k c x qs (peerRefuse s p k (14, 0))

/-- The payload and POISON bits of an MCPL from the lines `ls` that were read. -/
def mcplOf (x : Nat) (ls : List (Nat × Nat)) (d : RData) : List Byte × Nat :=
  let pay := (ls.foldl (fun (a : List Byte × List Byte) q => (patch a.1 (q.1 - x) (a.2.take q.2), a.2.drop q.2))
    (List.replicate 128 0, d.bytes)).1
  let gs := (ls.flatMap fun q => (grans q.1 q.2).map fun g => (q, g)).zip d.poison
  let hit (w : Nat) : Bool := gs.any fun e =>
    e.2 && decide (Nat.max (Nat.max (16 * e.1.2) (x + 16 * w)) e.1.1.1 <
      Nat.min (Nat.min (16 * e.1.2 + 16) (x + 16 * w + 16)) (e.1.1.1 + e.1.1.2))
  (pay, ((List.range 8).map fun w => b2n (hit w) * 2 ^ w).sum)

/-- The MCPL of an MRD. -/
def sendMcpl (s : State) (p : Nat) (k : Stroke) (ans : Option (List Byte × Nat)) : State :=
  match ans with
  | some (d, po) =>
    peerSend s p 0x12 { Stroke.blank with
      rtag := k.rtag, wmask := k.wmask, arg := wd (po * 2 ^ 40 + blockOff k), payload := d }
  | none => peerSend s p 0x12 { Stroke.blank with rtag := k.rtag, arg := wd (2 ^ 48 + blockOff k) }

/-- The data an MCPL gives to read `r`. -/
def mcplData (k : Stroke) (r : OutRead) : RData :=
  { bytes := sliceZ k.payload (r.addr % 128) r.n
    tags := (grans r.pa r.n).map fun _ => false
    poison := (grans r.pa r.n).map fun g => bitAt k.arg (40 + g % 8) }

/-- A message is let through: as it was when its first line was issued (R394), or by the anchor now. -/
def msgAuth (s : State) (p : Nat) (e : InStroke) : Except (Nat × Nat) (Cap × Nat × List (Nat × Nat)) :=
  match e.auth with
  | some a => .ok a
  | none => match peerAuth s p e.stroke (decide (e.typ = 0x10)) with
    | .error x => .error x
    | .ok (c, x) => .ok (c, x, msgLines e.stroke x)

/-- An MWR is handled: none once all its lines have been written or refused. -/
def mwrDo (s : State) (p : Nat) (e : InStroke) : Option InStroke × State :=
  match msgAuth s p e with
  | .error x => (none, peerRefuse s p e.stroke x)
  | .ok (c, x, ls) => match mwrWrite p e.stroke c x ls s with
    | ([], s) => (none, s)
    | (ls, s) => (some { e with auth := some (c, x, ls) }, s)

/-- An MRD is handled: none once its MCPL is sent. -/
def mrdDo (s : State) (p : Nat) (e : InStroke) : Option InStroke × State :=
  match msgAuth s p e with
  | .error x => (none, sendMcpl (peerRefuse s p e.stroke x) p e.stroke none)
  | .ok (c, x, ls) =>
    match readLines (BitVec.ofNat 4 (12 + p)) (BitVec.ofNat 4 (capColour c)) ls noData s with
    | (none, s) => (some { e with auth := some (c, x, ls) }, s)
    | (some (.error n), s) => (none, sendMcpl (peerRefuse s p e.stroke (n, 0)) p e.stroke none)
    | (some (.ok d), s) => (none, sendMcpl s p e.stroke (some (mcplOf x ls d)))

/-- An MCPL is handled: the read it answers ends, and the next that waits is issued. -/
def mcplDo (s : State) (p : Nat) (k : Stroke) : State :=
  match (peerAt s p).reads.find? fun r => decide (r.tag = k.rtag.toNat) with
  | none => s
  | some r =>
    let bad := decide (fld k.arg 50 48 ≠ 0)
    let s := if bad then portRecord s .peer p r.addr 14 0 0 0 true else s
    let x := peerAt s p
    let s := setPeer s p { x with
      reads := x.reads.filter fun q => decide (q.tag ≠ r.tag)
      dones := x.dones ++ answerOf r (if bad then none else some (mcplData k r)) }
    wakeReader (peerNext s p) r.src

/-- A BELL is handled (R388). -/
def bellDo (s : State) (p : Nat) (k : Stroke) : State :=
  let j := fld k.arg 11 0
  if j < 32 then ringBell s (1728 + 32 * p + j)
  else windowWrite s .peer p (pg .peer p + 0x1A0) (j - 32) (0x7FFFFF8000 + 8 * j) 0 0

/-! ### Time (R390, R391) -/

/-- The port is its device's time source. -/
def isSource (s : State) (p : Nat) : Bool :=
  rbit s (pg .peer p + 0x200) 0 && (decide (p = 0) || !rbit s (pg .peer 0 + 0x200) 0)

/-- TSYNC_SEND: the follower's request; its T1 is written when it is sent. -/
def execTsyncSend (p : BitVec 1) (s : State) : Out :=
  let i := p.toNat
  .next (if linkState s i = 4 ∧ isSource s i = true then peerSend s i 0x30 Stroke.blank else s)

/-- θ and δ of R390, in 64-bit arithmetic. -/
def tsTheta (t1 t2 t3 t4 : Word) (asym : Int) : Int := ((t2 - t1) - (t4 - t3) - BitVec.ofInt 64 asym).toInt.tdiv 2
def tsDelta (t1 t2 t3 t4 : Word) : Int := ((t4 - t1) - (t3 - t2)).toInt.tdiv 2

/-- LOCK is lost. -/
def lockLose (s : State) (p : Nat) : State :=
  let off := pg .peer p + 0x208
  let s := setPeer s p { peerAt s p with tsGood := 0 }
  if rbit s off 0 then intSet (rsetB s off 0 false) .peer p 5 else s

/-- LOCK after an exchange of offset θ. -/
def lockStep (s : State) (p : Nat) (th : Int) : State :=
  let off := pg .peer p + 0x208
  let n := th.natAbs
  if 2560 < n then lockLose s p
  else
    let g := if n ≤ 64 then (peerAt s p).tsGood + 1 else 0
    let s := setPeer s p { peerAt s p with tsGood := g }
    if 8 ≤ g ∧ rbit s off 0 = false then intSet (rsetB s off 0 true) .peer p 4 else s

/-- TB moves by θ (R391): at once, at half rate until the offset is gone, or by slewing. -/
def tbMove (s : State) (p : Nat) (th : Int) : State :=
  let big := (peerAt s p).tsFirst && decide (25600 < th.natAbs)
  if big && decide (0 < th) then
    let t := s.tb.toNat * 256 + s.tbFrac + th.natAbs
    { s with tb := wd (t / 256), tbFrac := t % 256, slew := 0, slewAcc := 0, tbHalf := false }
  else { s with slew := th, slewAcc := 0, tbHalf := big || (s.tbHalf && decide (th < 0)) }

/-- An exchange is complete. -/
def tsExchange (s : State) (p : Nat) (k : Stroke) (t4 : Word) : State :=
  let t1 := wd (leAt k.payload 8 8)
  let t2 := wd (leAt k.payload 16 8)
  let t3 := wd (leAt k.payload 24 8)
  let th := tsTheta t1 t2 t3 t4 (signed 16 (rfld s (pg .peer p + 0x200) 31 16))
  let off := pg .peer p + 0x208
  let s := rsetF (rsetF s off 63 32 (wrapInt 32 th)) off 31 8 (wrapInt 24 (tsDelta t1 t2 t3 t4))
  let s := tbMove s p th
  let s := setPeer s p { peerAt s p with tsFirst := false, tsLast := s.tb }
  lockStep s p th

/-- A TSYNC that arrived at `at'` is handled: a request is answered, a response ends an exchange. -/
def tsyncDo (s : State) (p : Nat) (k : Stroke) (at' : Word) : State :=
  if k.payload.headD 0 = 0 then
    peerSend s p 0x30 { Stroke.blank with
      payload := patch (patch (patch (List.replicate 128 0) 0 [1]) 8 (sliceZ k.payload 8 8)) 16 (leBytes 8 at'.toNat) }
  else if isSource s p then tsExchange s p k at'
  else s

/-- TIME_LOCK_TIMEOUT (R391): 4 ms of TB without a completed exchange. -/
def execTimeLockTimeout (p : BitVec 1) (s : State) : Out :=
  let i := p.toNat
  .next (if linkState s i = 4 ∧ (peerAt s i).tsLast.toNat + 400000 ≤ s.tb.toNat then lockLose s i else s)

/-! ### Gossip (R392, R393) -/

/-- The local digest and epoch (R426). -/
def localDigest (s : State) : BitVec 256 :=
  BitVec.ofNat 256 (leNat ((List.range 4).flatMap fun k => leBytes 8 (rget s (pg .mer + 0x100 + 8 * k)).toNat))
def localEpoch (s : State) : Word := rget s (pg .mer + 0x120)

/-- The 64 bytes of a record. -/
def gosBytes (node : Nat) (r : GosRec) : List Byte :=
  leBytes 32 r.digest.toNat ++ leBytes 8 r.epoch.toNat ++ leBytes 1 node ++ leBytes 1 r.hops ++ [1] ++
    List.replicate 5 0 ++ leBytes 8 r.stamp.toNat ++ List.replicate 8 0

/-- The record a port relays next: the first held one in NODE order from `n` on with HOPS below 15, not the
device's own. -/
def gosPick (s : State) (n : Nat) : Option (Nat × GosRec) :=
  let ok := s.gossip.filter fun r => decide (r.2.hops < 15) && decide (r.1 ≠ ownNode s)
  match ok.find? fun r => decide (n ≤ r.1) with
  | some r => some r
  | none => ok.head?

/-- GOSSIP_SEND (R392). -/
def execGossipSend (p : BitVec 1) (s : State) : Out :=
  let i := p.toNat
  if linkState s i ≠ 4 ∨ rbit s (pg .peer i + 0x300) 0 = false then .next s
  else
    let own := gosBytes (ownNode s) { digest := localDigest s, epoch := localEpoch s, hops := 0, stamp := s.tb }
    match gosPick s (smGet 0 s.gosNext i) with
    | none => .next (peerSend s i 0x40 { Stroke.blank with payload := own ++ List.replicate 64 0 })
    | some (n, r) =>
      let s := { s with gosNext := smSet 0 s.gosNext i (n + 1) }
      .next (peerSend s i 0x40 { Stroke.blank with payload := own ++ gosBytes n { r with hops := r.hops + 1 } })

/-- A mismatch is recorded by the receiving port (R393). -/
def gosMismatch (s : State) (p node : Nat) (r : GosRec) : State :=
  let off := pg .peer p + 0x308
  let s := if rbit s off 63 then s
    else rset (rset s off (wd (2 ^ 63 + node % 16 * 2 ^ 48 + r.epoch.toNat % 2 ^ 48))) (off + 8) (r.digest.truncate 64)
  intSet s .peer p 6

/-- A neighbour's own record whose EPOCH keeps differing is a mismatch after GRACE receptions. -/
def gosGrace (s : State) (p : Nat) (r : GosRec) : Bool × State :=
  let x := peerAt s p
  if r.epoch = localEpoch s then (false, setPeer s p { x with grace := 0 })
  else
    let g := x.grace + 1
    (decide (Nat.max 1 (rfld s (pg .peer p + 0x300) 15 8) ≤ g), setPeer s p { x with grace := g })

/-- One received record: held if it is newer, and compared. -/
def gosTake (s : State) (p : Nat) (d : List Byte) (own : Bool) : State :=
  if leAt d 42 1 = 0 then s
  else
    let node := leAt d 40 1
    let r : GosRec :=
      { digest := BitVec.ofNat 256 (leAt d 0 32), epoch := wd (leAt d 32 8), hops := leAt d 41 1, stamp := wd (leAt d 48 8) }
    let newer := match smFind s.gossip node with
      | none => true
      | some h => decide (h.epoch.toNat < r.epoch.toNat) || (decide (h.epoch = r.epoch) && decide (h.stamp.toNat < r.stamp.toNat))
    let s := if newer then { s with gossip := smPut node r s.gossip } else s
    let (late, s) := if own then gosGrace s p r else (false, s)
    if (r.epoch = localEpoch s ∧ r.digest ≠ localDigest s) ∨ late then gosMismatch s p node r else s

/-! ### Handling in order (R388) -/

/-- An accepted stroke is handled; what is left of it where it waits. -/
def strokeDo (s : State) (p : Nat) (e : InStroke) : Option InStroke × State :=
  let k := e.stroke
  if e.typ = 0x10 then mwrDo s p e
  else if e.typ = 0x11 then mrdDo s p e
  else if e.typ = 0x12 then (none, mcplDo s p k)
  else if e.typ = 0x20 then (none, bellDo s p k)
  else if e.typ = 0x30 then (none, tsyncDo s p k e.stamp)
  else (none, gosTake (gosTake s p (k.payload.take 64) true) p (k.payload.drop 64) false)

/-- The strokes that wait at a port are these. -/
def setInq (s : State) (p : Nat) (q : List InStroke) : State := setPeer s p { peerAt s p with inq := q }

/-- Accepted strokes in SEQ order, behind those of `front`, which wait: nothing passes an MWR that waits, and no memory
request passes an MRD that waits (assumption log 51). Each buffer is freed with its message; that of an MCPL was freed
before. Where a message takes the link down, what waits then was discarded with it (R389), the rest of an MWR that still
waited among it. -/
def strokesDo (p : Nat) : List InStroke → List InStroke → Bool → Bool → State → State
  | front, [], _, _, s => setInq s p front
  | front, e :: es, rd, wr, s =>
    let wr' := wr || decide (e.typ = 0x10)
    let rd' := rd || decide (e.typ = 0x11)
    if wr || (rd && (decide (e.typ = 0x10) || decide (e.typ = 0x11))) then strokesDo p (front ++ [e]) es rd' wr' s
    else
      let (r, s) := strokeDo (setInq s p (front ++ es)) p e
      if linkState s p ≠ 4 then
        if r.isSome && decide (e.typ = 0x10) then rsatF s (pg .peer p + 0x110) 63 42 1 else s
      else match r with
        | none => strokesDo p front es rd wr (if e.typ = 0x12 then s else freeBuf s p (laneOf e.typ))
        | some e => strokesDo p (front ++ [e]) es rd' wr' s

/-- The strokes that wait to be handled are taken up. -/
def peerWork (s : State) (p : Nat) : State :=
  let x := peerAt s p
  if x.inq = [] then s else strokesDo p [] x.inq false false s

/-- A sequenced stroke, `part` units of 10/256 ns after the last count of TB: accepted when it has the SEQ awaited,
otherwise discarded. -/
def rxSeq (s : State) (p typ : Nat) (k : Stroke) (part : Nat) : State :=
  match rxStroke s p typ k with
  | (false, s) => s
  | (true, s) =>
    if k.seq ≠ (peerAt s p).expect then pump (sendNak s p) p
    else
      let s := accepted s p
      let s := if typ = 0x12 then freeBuf s p 0 else s
      let x := peerAt s p
      let e : InStroke := { typ := typ, stroke := k, stamp := stamp s + wd part, auth := none }
      pump (peerWork (setPeer s p { x with inq := x.inq ++ [e] }) p) p

/-- MWR (R388). -/
def execMwr (p : BitVec 1) (k : Stroke) (s : State) : Out := .next (rxSeq s p.toNat 0x10 k 0)

/-- MRD (R388). -/
def execMrd (p : BitVec 1) (k : Stroke) (s : State) : Out := .next (rxSeq s p.toNat 0x11 k 0)

/-- MCPL (R387). -/
def execMcpl (p : BitVec 1) (k : Stroke) (s : State) : Out := .next (rxSeq s p.toNat 0x12 k 0)

/-- BELL_STROKE (R388). -/
def execBellStroke (p : BitVec 1) (k : Stroke) (s : State) : Out := .next (rxSeq s p.toNat 0x20 k 0)

/-- TSYNC (R390). -/
def execTsync (p : BitVec 1) (k : Stroke) (part : BitVec 8) (s : State) : Out :=
  .next (rxSeq s p.toNat 0x30 k part.toNat)

/-- GOSSIP (R392, R393): record 0 is the neighbour's own. -/
def execGossip (p : BitVec 1) (k : Stroke) (s : State) : Out := .next (rxSeq s p.toNat 0x40 k 0)

/-- What the ports do by themselves in a unit of TB: they send, and take up what waits. -/
def portsTick (s : State) : State :=
  let s := (List.range 4).foldl (fun s m => mediaPump m ((medAt s m).inq.length + 1) s) s
  (List.range 2).foldl (fun s p => linkTick (pump (peerWork s p) p) p) s

end Sys2Proof.Machine
end

