-- ==== Sys2Proof/Machine/Dispatch.lean ====
section
/-! DEFINITION. One arm per command: its meaning on everything but the queue of waiting commands. -/

namespace Sys2Proof.Machine
open Sys2Proof

def exec (i : Instr) (s : State) : Host.Outcome State Fault Refusal :=
  match i with
  | .add cx sf rd rs1 rs2 => Sys2Proof.Machine.execAdd cx sf rd rs1 rs2 s
  | .addc cx sf rd rs1 rs2 => Sys2Proof.Machine.execAddc cx sf rd rs1 rs2 s
  | .sub cx sf rd rs1 rs2 => Sys2Proof.Machine.execSub cx sf rd rs1 rs2 s
  | .subc cx sf rd rs1 rs2 => Sys2Proof.Machine.execSubc cx sf rd rs1 rs2 s
  | .and cx sf rd rs1 rs2 => Sys2Proof.Machine.execAnd cx sf rd rs1 rs2 s
  | .or cx sf rd rs1 rs2 => Sys2Proof.Machine.execOr cx sf rd rs1 rs2 s
  | .xor cx sf rd rs1 rs2 => Sys2Proof.Machine.execXor cx sf rd rs1 rs2 s
  | .andn cx sf rd rs1 rs2 => Sys2Proof.Machine.execAndn cx sf rd rs1 rs2 s
  | .shl cx sf rd rs1 rs2 => Sys2Proof.Machine.execShl cx sf rd rs1 rs2 s
  | .shr cx sf rd rs1 rs2 => Sys2Proof.Machine.execShr cx sf rd rs1 rs2 s
  | .sar cx sf rd rs1 rs2 => Sys2Proof.Machine.execSar cx sf rd rs1 rs2 s
  | .ror cx sf rd rs1 rs2 => Sys2Proof.Machine.execRor cx sf rd rs1 rs2 s
  | .min cx sf rd rs1 rs2 => Sys2Proof.Machine.execMin cx sf rd rs1 rs2 s
  | .max cx sf rd rs1 rs2 => Sys2Proof.Machine.execMax cx sf rd rs1 rs2 s
  | .minu cx sf rd rs1 rs2 => Sys2Proof.Machine.execMinu cx sf rd rs1 rs2 s
  | .maxu cx sf rd rs1 rs2 => Sys2Proof.Machine.execMaxu cx sf rd rs1 rs2 s
  | .clz cx sf rd rs1 => Sys2Proof.Machine.execClz cx sf rd rs1 s
  | .ctz cx sf rd rs1 => Sys2Proof.Machine.execCtz cx sf rd rs1 s
  | .popc cx sf rd rs1 => Sys2Proof.Machine.execPopc cx sf rd rs1 s
  | .bswap cx sf rd rs1 => Sys2Proof.Machine.execBswap cx sf rd rs1 s
  | .sextb cx sf rd rs1 => Sys2Proof.Machine.execSextb cx sf rd rs1 s
  | .sexth cx sf rd rs1 => Sys2Proof.Machine.execSexth cx sf rd rs1 s
  | .sextw cx sf rd rs1 => Sys2Proof.Machine.execSextw cx sf rd rs1 s
  | .zexth cx sf rd rs1 => Sys2Proof.Machine.execZexth cx sf rd rs1 s
  | .zextw cx sf rd rs1 => Sys2Proof.Machine.execZextw cx sf rd rs1 s
  | .slt cx sf rd rs1 rs2 => Sys2Proof.Machine.execSlt cx sf rd rs1 rs2 s
  | .sltu cx sf rd rs1 rs2 => Sys2Proof.Machine.execSltu cx sf rd rs1 rs2 s
  | .addi cx sf rd rs1 imm => Sys2Proof.Machine.execAddi cx sf rd rs1 imm s
  | .subi cx sf rd rs1 imm => Sys2Proof.Machine.execSubi cx sf rd rs1 imm s
  | .andi cx sf rd rs1 imm => Sys2Proof.Machine.execAndi cx sf rd rs1 imm s
  | .ori cx sf rd rs1 imm => Sys2Proof.Machine.execOri cx sf rd rs1 imm s
  | .xori cx sf rd rs1 imm => Sys2Proof.Machine.execXori cx sf rd rs1 imm s
  | .shli cx sf rd rs1 imm => Sys2Proof.Machine.execShli cx sf rd rs1 imm s
  | .shri cx sf rd rs1 imm => Sys2Proof.Machine.execShri cx sf rd rs1 imm s
  | .sari cx sf rd rs1 imm => Sys2Proof.Machine.execSari cx sf rd rs1 imm s
  | .rori cx sf rd rs1 imm => Sys2Proof.Machine.execRori cx sf rd rs1 imm s
  | .slti cx sf rd rs1 imm => Sys2Proof.Machine.execSlti cx sf rd rs1 imm s
  | .sltiu cx sf rd rs1 imm => Sys2Proof.Machine.execSltiu cx sf rd rs1 imm s
  | .movi cx rd imm => Sys2Proof.Machine.execMovi cx rd imm s
  | .movsh cx rd imm => Sys2Proof.Machine.execMovsh cx rd imm s
  | .mul cx rd rs1 rs2 => Sys2Proof.Machine.execMul cx rd rs1 rs2 s
  | .mulhu cx rd rs1 rs2 => Sys2Proof.Machine.execMulhu cx rd rs1 rs2 s
  | .mulhs cx rd rs1 rs2 => Sys2Proof.Machine.execMulhs cx rd rs1 rs2 s
  | .divu cx rd rs1 rs2 => Sys2Proof.Machine.execDivu cx rd rs1 rs2 s
  | .div cx rd rs1 rs2 => Sys2Proof.Machine.execDiv cx rd rs1 rs2 s
  | .remu cx rd rs1 rs2 => Sys2Proof.Machine.execRemu cx rd rs1 rs2 s
  | .rem cx rd rs1 rs2 => Sys2Proof.Machine.execRem cx rd rs1 rs2 s
  | .divideResult cx => Sys2Proof.Machine.execDivideResult cx s
  | .dstep cx rd rs2 => Sys2Proof.Machine.execDstep cx rd rs2 s
  | .b cx imm => Sys2Proof.Machine.execB cx imm s
  | .bcc cx cond imm => Sys2Proof.Machine.execBcc cx cond imm s
  | .cbcc cx cond rs1 rs2 imm => Sys2Proof.Machine.execCbcc cx cond rs1 rs2 imm s
  | .jmp cx rs1 => Sys2Proof.Machine.execJmp cx rs1 s
  | .jmpl cx rd rs1 => Sys2Proof.Machine.execJmpl cx rd rs1 s
  | .ldb cx rd rs1 off => Sys2Proof.Machine.execLdb cx rd rs1 off s
  | .ldh cx rd rs1 off => Sys2Proof.Machine.execLdh cx rd rs1 off s
  | .ldw cx rd rs1 off => Sys2Proof.Machine.execLdw cx rd rs1 off s
  | .ldd cx rd rs1 off => Sys2Proof.Machine.execLdd cx rd rs1 off s
  | .ldbs cx rd rs1 off => Sys2Proof.Machine.execLdbs cx rd rs1 off s
  | .ldhs cx rd rs1 off => Sys2Proof.Machine.execLdhs cx rd rs1 off s
  | .ldws cx rd rs1 off => Sys2Proof.Machine.execLdws cx rd rs1 off s
  | .ldc cx rd rs1 off => Sys2Proof.Machine.execLdc cx rd rs1 off s
  | .stb cx data rs1 off => Sys2Proof.Machine.execStb cx data rs1 off s
  | .sth cx data rs1 off => Sys2Proof.Machine.execSth cx data rs1 off s
  | .stw cx data rs1 off => Sys2Proof.Machine.execStw cx data rs1 off s
  | .std cx data rs1 off => Sys2Proof.Machine.execStd cx data rs1 off s
  | .stc cx data rs1 off => Sys2Proof.Machine.execStc cx data rs1 off s
  | .loadReturn cx idx => Sys2Proof.Machine.execLoadReturn cx idx s
  | .storeBufferDrain cx => Sys2Proof.Machine.execStoreBufferDrain cx s
  | .aadd cx rd rs1 rs2 => Sys2Proof.Machine.execAadd cx rd rs1 rs2 s
  | .aswap cx rd rs1 rs2 => Sys2Proof.Machine.execAswap cx rd rs1 rs2 s
  | .cswap cx rd rs1 rs2 => Sys2Proof.Machine.execCswap cx rd rs1 rs2 s
  | .fence cx => Sys2Proof.Machine.execFence cx s
  | .fencew cx => Sys2Proof.Machine.execFencew cx s
  | .cclean cx rs1 imm => Sys2Proof.Machine.execCclean cx rs1 imm s
  | .cflush cx rs1 imm => Sys2Proof.Machine.execCflush cx rs1 imm s
  | .cinval cx rs1 imm => Sys2Proof.Machine.execCinval cx rs1 imm s
  | .iinval cx rs1 imm => Sys2Proof.Machine.execIinval cx rs1 imm s
  | .tlbiva cx w rs1 rs2 => Sys2Proof.Machine.execTlbiva cx w rs1 rs2 s
  | .tlbiasid cx w rs2 => Sys2Proof.Machine.execTlbiasid cx w rs2 s
  | .tlbiw cx w => Sys2Proof.Machine.execTlbiw cx w s
  | .tlbipa cx w rs1 => Sys2Proof.Machine.execTlbipa cx w rs1 s
  | .tlbis2 cx w => Sys2Proof.Machine.execTlbis2 cx w s
  | .tlbsync cx w => Sys2Proof.Machine.execTlbsync cx w s
  | .invalidationComplete tlb => Sys2Proof.Machine.execInvalidationComplete tlb s
  | .amov cx rd rs1 => Sys2Proof.Machine.execAmov cx rd rs1 s
  | .astep cx rd rs1 rs2 => Sys2Proof.Machine.execAstep cx rd rs1 rs2 s
  | .astepi cx rd rs1 imm => Sys2Proof.Machine.execAstepi cx rd rs1 imm s
  | .aplace cx rd rs1 rs2 => Sys2Proof.Machine.execAplace cx rd rs1 rs2 s
  | .amask cx rd rs1 rs2 => Sys2Proof.Machine.execAmask cx rd rs1 rs2 s
  | .amaski cx rd rs1 imm => Sys2Proof.Machine.execAmaski cx rd rs1 imm s
  | .anarrow cx rd rs1 rs2 => Sys2Proof.Machine.execAnarrow cx rd rs1 rs2 s
  | .afit cx rd rs1 rs2 => Sys2Proof.Machine.execAfit cx rd rs1 rs2 s
  | .auntag cx rd rs1 => Sys2Proof.Machine.execAuntag cx rd rs1 s
  | .ahere cx rd => Sys2Proof.Machine.execAhere cx rd s
  | .ainfoCursor cx rd rs1 => Sys2Proof.Machine.execAinfoCursor cx rd rs1 s
  | .ainfoBase cx rd rs1 => Sys2Proof.Machine.execAinfoBase cx rd rs1 s
  | .ainfoLength cx rd rs1 => Sys2Proof.Machine.execAinfoLength cx rd rs1 s
  | .ainfoRights cx rd rs1 => Sys2Proof.Machine.execAinfoRights cx rd rs1 s
  | .ainfoTag cx rd rs1 => Sys2Proof.Machine.execAinfoTag cx rd rs1 s
  | .ainfoType cx rd rs1 => Sys2Proof.Machine.execAinfoType cx rd rs1 s
  | .ainfoColour cx rd rs1 => Sys2Proof.Machine.execAinfoColour cx rd rs1 s
  | .awithin cx rd rs1 rs2 => Sys2Proof.Machine.execAwithin cx rd rs1 rs2 s
  | .cxevict cx rs1 rs2 => Sys2Proof.Machine.execCxevict cx rs1 rs2 s
  | .cxload cx rd rs1 rs2 => Sys2Proof.Machine.execCxload cx rd rs1 rs2 s
  | .mrs cx rd num => Sys2Proof.Machine.execMrs cx rd num s
  | .msr cx rs1 num => Sys2Proof.Machine.execMsr cx rs1 num s
  | .callw cx imm => Sys2Proof.Machine.execCallw cx imm s
  | .callwr cx rs1 => Sys2Proof.Machine.execCallwr cx rs1 s
  | .retw cx => Sys2Proof.Machine.execRetw cx s
  | .reta cx => Sys2Proof.Machine.execReta cx s
  | .callm cx rd mask => Sys2Proof.Machine.execCallm cx rd mask s
  | .retm cx mask => Sys2Proof.Machine.execRetm cx mask s
  | .repi cx rs1 imm => Sys2Proof.Machine.execRepi cx rs1 imm s
  | .repu cx rs1 imm => Sys2Proof.Machine.execRepu cx rs1 imm s
  | .ring cx rs1 imm => Sys2Proof.Machine.execRing cx rs1 imm s
  | .waitb cx rs1 imm => Sys2Proof.Machine.execWaitb cx rs1 imm s
  | .btake cx rd rs1 imm => Sys2Proof.Machine.execBtake cx rd rs1 imm s
  | .yield cx => Sys2Proof.Machine.execYield cx s
  | .alset cx rs1 imm => Sys2Proof.Machine.execAlset cx rs1 imm s
  | .almask cx rs1 => Sys2Proof.Machine.execAlmask cx rs1 s
  | .waitt cx rs1 => Sys2Proof.Machine.execWaitt cx rs1 s
  | .waitbt cx rd rs1 rs2 => Sys2Proof.Machine.execWaitbt cx rd rs1 rs2 s
  | .waitDeadline cx => Sys2Proof.Machine.execWaitDeadline cx s
  | .alertDiversion cx => Sys2Proof.Machine.execAlertDiversion cx s
  | .movpw cx rs1 rs2 => Sys2Proof.Machine.execMovpw cx rs1 rs2 s
  | .movpr cx rd rs1 => Sys2Proof.Machine.execMovpr cx rd rs1 s
  | .schedulerAgeing core => Sys2Proof.Machine.execSchedulerAgeing core s
  | .fetchReturn cx => Sys2Proof.Machine.execFetchReturn cx s
  | .detModeEntry core => Sys2Proof.Machine.execDetModeEntry core s
  | .fadd cx p rm rd rs1 rs2 => Sys2Proof.Machine.execFadd cx p rm rd rs1 rs2 s
  | .fsub cx p rm rd rs1 rs2 => Sys2Proof.Machine.execFsub cx p rm rd rs1 rs2 s
  | .fmul cx p rm rd rs1 rs2 => Sys2Proof.Machine.execFmul cx p rm rd rs1 rs2 s
  | .fdiv cx p rm rd rs1 rs2 => Sys2Proof.Machine.execFdiv cx p rm rd rs1 rs2 s
  | .fsqrt cx p rm rd rs1 => Sys2Proof.Machine.execFsqrt cx p rm rd rs1 s
  | .fmin cx p rd rs1 rs2 => Sys2Proof.Machine.execFmin cx p rd rs1 rs2 s
  | .fmax cx p rd rs1 rs2 => Sys2Proof.Machine.execFmax cx p rd rs1 rs2 s
  | .fcmp cx p rs1 rs2 => Sys2Proof.Machine.execFcmp cx p rs1 rs2 s
  | .fcmps cx p rs1 rs2 => Sys2Proof.Machine.execFcmps cx p rs1 rs2 s
  | .fmadd cx p rm rd rs1 rs2 rs3 => Sys2Proof.Machine.execFmadd cx p rm rd rs1 rs2 rs3 s
  | .fmsub cx p rm rd rs1 rs2 rs3 => Sys2Proof.Machine.execFmsub cx p rm rd rs1 rs2 rs3 s
  | .fnmadd cx p rm rd rs1 rs2 rs3 => Sys2Proof.Machine.execFnmadd cx p rm rd rs1 rs2 rs3 s
  | .fnmsub cx p rm rd rs1 rs2 rs3 => Sys2Proof.Machine.execFnmsub cx p rm rd rs1 rs2 rs3 s
  | .fcvtsd cx rm rd rs1 => Sys2Proof.Machine.execFcvtsd cx rm rd rs1 s
  | .fcvtds cx rd rs1 => Sys2Proof.Machine.execFcvtds cx rd rs1 s
  | .fcvtld cx rm rd rs1 => Sys2Proof.Machine.execFcvtld cx rm rd rs1 s
  | .fcvtlud cx rm rd rs1 => Sys2Proof.Machine.execFcvtlud cx rm rd rs1 s
  | .fcvtdl cx rm rd rs1 => Sys2Proof.Machine.execFcvtdl cx rm rd rs1 s
  | .fcvtdlu cx rm rd rs1 => Sys2Proof.Machine.execFcvtdlu cx rm rd rs1 s
  | .fcvtls cx rm rd rs1 => Sys2Proof.Machine.execFcvtls cx rm rd rs1 s
  | .fcvtlus cx rm rd rs1 => Sys2Proof.Machine.execFcvtlus cx rm rd rs1 s
  | .fcvtsl cx rm rd rs1 => Sys2Proof.Machine.execFcvtsl cx rm rd rs1 s
  | .fcvtslu cx rm rd rs1 => Sys2Proof.Machine.execFcvtslu cx rm rd rs1 s
  | .fmvif cx rd rs1 => Sys2Proof.Machine.execFmvif cx rd rs1 s
  | .fmvfi cx rd rs1 => Sys2Proof.Machine.execFmvfi cx rd rs1 s
  | .frcsr cx rd => Sys2Proof.Machine.execFrcsr cx rd s
  | .fwcsr cx rs1 => Sys2Proof.Machine.execFwcsr cx rs1 s
  | .fbar cx => Sys2Proof.Machine.execFbar cx s
  | .flw cx rd rs1 imm => Sys2Proof.Machine.execFlw cx rd rs1 imm s
  | .fld cx rd rs1 imm => Sys2Proof.Machine.execFld cx rd rs1 imm s
  | .fsw cx rd rs1 imm => Sys2Proof.Machine.execFsw cx rd rs1 imm s
  | .fsd cx rd rs1 imm => Sys2Proof.Machine.execFsd cx rd rs1 imm s
  | .fpResult cx idx => Sys2Proof.Machine.execFpResult cx idx s
  | .fpBankSwap core => Sys2Proof.Machine.execFpBankSwap core s
  | .sysc cx n => Sys2Proof.Machine.execSysc cx n s
  | .sysr cx k => Sys2Proof.Machine.execSysr cx k s
  | .accept cx => Sys2Proof.Machine.execAccept cx s
  | .takef cx => Sys2Proof.Machine.execTakef cx s
  | .resume cx rs1 => Sys2Proof.Machine.execResume cx rs1 s
  | .restart cx rs1 rs2 => Sys2Proof.Machine.execRestart cx rs1 rs2 s
  | .kill cx rs1 => Sys2Proof.Machine.execKill cx rs1 s
  | .park cx rs1 => Sys2Proof.Machine.execPark cx rs1 s
  | .cxstart cx level world target rs1 rs2 => Sys2Proof.Machine.execCxstart cx level world target rs1 rs2 s
  | .translationWalk who => Sys2Proof.Machine.execTranslationWalk who s
  | .writebackError cluster idx => Sys2Proof.Machine.execWritebackError cluster idx s
  | .cleanAll cluster ic => Sys2Proof.Machine.execCleanAll cluster ic s
  | .flushAll cluster ic => Sys2Proof.Machine.execFlushAll cluster ic s
  | .invalidateAll cluster ic => Sys2Proof.Machine.execInvalidateAll cluster ic s
  | .cmaintDone cluster => Sys2Proof.Machine.execCmaintDone cluster s
  | .wayenWrite cluster v ic => Sys2Proof.Machine.execWayenWrite cluster v ic s
  | .fabricTransaction t => Sys2Proof.Machine.execFabricTransaction t s
  | .swap g ic => Sys2Proof.Machine.execSwap g ic s
  | .swapDone g => Sys2Proof.Machine.execSwapDone g s
  | .dramRefresh m => Sys2Proof.Machine.execDramRefresh m s
  | .recentre m => Sys2Proof.Machine.execRecentre m s
  | .retrain m ic => Sys2Proof.Machine.execRetrain m ic s
  | .retrainStep m found => Sys2Proof.Machine.execRetrainStep m found s
  | .retrainRetry m found => Sys2Proof.Machine.execRetrainRetry m found s
  | .scrubPair m => Sys2Proof.Machine.execScrubPair m s
  | .bankSelfScrub bank => Sys2Proof.Machine.execBankSelfScrub bank s
  | .bankreqWrite n v ic => Sys2Proof.Machine.execBankreqWrite n v ic s
  | .bankTransitionDone bank => Sys2Proof.Machine.execBankTransitionDone bank s
  | .kickBell ch => Sys2Proof.Machine.execKickBell ch s
  | .movchStart ch ic => Sys2Proof.Machine.execMovchStart ch ic s
  | .movchStep ch ic => Sys2Proof.Machine.execMovchStep ch ic s
  | .movchKick ch ic => Sys2Proof.Machine.execMovchKick ch ic s
  | .arm ch ic => Sys2Proof.Machine.execArm ch ic s
  | .disable ch ic => Sys2Proof.Machine.execDisable ch ic s
  | .enable ch ic => Sys2Proof.Machine.execEnable ch ic s
  | .gctrlClear ic => Sys2Proof.Machine.execGctrlClear ic s
  | .moverAnchorRead ch => Sys2Proof.Machine.execMoverAnchorRead ch s
  | .moverDescriptorFetch ch => Sys2Proof.Machine.execMoverDescriptorFetch ch s
  | .unitSelect u => Sys2Proof.Machine.execUnitSelect u s
  | .copy ch => Sys2Proof.Machine.execCopy ch s
  | .fill ch => Sys2Proof.Machine.execFill ch s
  | .compare ch => Sys2Proof.Machine.execCompare ch s
  | .sweep ch => Sys2Proof.Machine.execSweep ch s
  | .moverDescriptorComplete ch => Sys2Proof.Machine.execMoverDescriptorComplete ch s
  | .moverHalt => Sys2Proof.Machine.execMoverHalt s
  | .rcmdStart e r ic => Sys2Proof.Machine.execRcmdStart e r ic s
  | .rewind e r ic => Sys2Proof.Machine.execRewind e r ic s
  | .stop e r ic => Sys2Proof.Machine.execStop e r ic s
  | .rcmdKick e r ic => Sys2Proof.Machine.execRcmdKick e r ic s
  | .ringKickBell e r => Sys2Proof.Machine.execRingKickBell e r s
  | .engineAnchorRead e r => Sys2Proof.Machine.execEngineAnchorRead e r s
  | .engineDescriptorFetch e r => Sys2Proof.Machine.execEngineDescriptorFetch e r s
  | .engineDescriptorComplete e r => Sys2Proof.Machine.execEngineDescriptorComplete e r s
  | .engineBusError e r => Sys2Proof.Machine.execEngineBusError e r s
  | .chunk r idx => Sys2Proof.Machine.execChunk r idx s
  | .fprint r idx => Sys2Proof.Machine.execFprint r idx s
  | .openBatch r idx => Sys2Proof.Machine.execOpenBatch r idx s
  | .openProceed r idx => Sys2Proof.Machine.execOpenProceed r idx s
  | .lookup r idx => Sys2Proof.Machine.execLookup r idx s
  | .insert r idx => Sys2Proof.Machine.execInsert r idx s
  | .remove r idx => Sys2Proof.Machine.execRemove r idx s
  | .commit r idx => Sys2Proof.Machine.execCommit r idx s
  | .abort r idx => Sys2Proof.Machine.execAbort r idx s
  | .idxCmdAbort ic => Sys2Proof.Machine.execIdxCmdAbort ic s
  | .pcomp r idx => Sys2Proof.Machine.execPcomp r idx s
  | .pdec r idx => Sys2Proof.Machine.execPdec r idx s
  | .dload r idx => Sys2Proof.Machine.execDload r idx s
  | .dfree r idx => Sys2Proof.Machine.execDfree r idx s
  | .dictOpProceed r idx => Sys2Proof.Machine.execDictOpProceed r idx s
  | .denc r idx => Sys2Proof.Machine.execDenc r idx s
  | .ddec r idx => Sys2Proof.Machine.execDdec r idx s
  | .run r idx => Sys2Proof.Machine.execRun r idx s
  | .pload r idx => Sys2Proof.Machine.execPload r idx s
  | .ploadProceed r idx => Sys2Proof.Machine.execPloadProceed r idx s
  | .cauchy r idx => Sys2Proof.Machine.execCauchy r idx s
  | .encrypt r idx => Sys2Proof.Machine.execEncrypt r idx s
  | .decrypt r idx => Sys2Proof.Machine.execDecrypt r idx s
  | .seal => Sys2Proof.Machine.execSeal s
  | .unseal => Sys2Proof.Machine.execUnseal s
  | .recolour => Sys2Proof.Machine.execRecolour s
  | .wcheck => Sys2Proof.Machine.execWcheck s
  | .wmake => Sys2Proof.Machine.execWmake s
  | .epoch => Sys2Proof.Machine.execEpoch s
  | .tenant => Sys2Proof.Machine.execTenant s
  | .tread => Sys2Proof.Machine.execTread s
  | .imageKeyReady => Sys2Proof.Machine.execImageKeyReady s
  | .derive => Sys2Proof.Machine.execDerive s
  | .unwrap => Sys2Proof.Machine.execUnwrap s
  | .clearKey => Sys2Proof.Machine.execClearKey s
  | .attr => Sys2Proof.Machine.execAttr s
  | .extend => Sys2Proof.Machine.execExtend s
  | .fold => Sys2Proof.Machine.execFold s
  | .readm => Sys2Proof.Machine.execReadm s
  | .adv target confirm ic => Sys2Proof.Machine.execAdv target confirm ic s
  | .transitionComplete => Sys2Proof.Machine.execTransitionComplete s
  | .tamperPin => Sys2Proof.Machine.execTamperPin s
  | .refclkOutOfRange => Sys2Proof.Machine.execRefclkOutOfRange s
  | .coldTamper => Sys2Proof.Machine.execColdTamper s
  | .wipeComplete => Sys2Proof.Machine.execWipeComplete s
  | .perstNAssert h => Sys2Proof.Machine.execPerstNAssert h s
  | .perstNRise h => Sys2Proof.Machine.execPerstNRise h s
  | .cfgready h ic => Sys2Proof.Machine.execCfgready h ic s
  | .configRequest h off write => Sys2Proof.Machine.execConfigRequest h off write s
  | .functionLevelReset h => Sys2Proof.Machine.execFunctionLevelReset h s
  | .hotReset h => Sys2Proof.Machine.execHotReset h s
  | .d3hotEntry h => Sys2Proof.Machine.execD3hotEntry h s
  | .pcieLinkUp p speed width flit => Sys2Proof.Machine.execPcieLinkUp p speed width flit s
  | .pcieLinkDown p => Sys2Proof.Machine.execPcieLinkDown p s
  | .bar0Request h q => Sys2Proof.Machine.execBar0Request h q s
  | .doorbellWrite h off data ep => Sys2Proof.Machine.execDoorbellWrite h off data ep s
  | .doorbellRead h q => Sys2Proof.Machine.execDoorbellRead h q s
  | .bellWindowWrite h j reqid => Sys2Proof.Machine.execBellWindowWrite h j reqid s
  | .msix h v ic => Sys2Proof.Machine.execMsix h v ic s
  | .apertureLoad h a writ => Sys2Proof.Machine.execApertureLoad h a writ s
  | .apertureClose h a => Sys2Proof.Machine.execApertureClose h a s
  | .apclose h mask ic => Sys2Proof.Machine.execApclose h mask ic s
  | .bar4Request h q => Sys2Proof.Machine.execBar4Request h q s
  | .outboundWindowRequest t => Sys2Proof.Machine.execOutboundWindowRequest t s
  | .pcieCompletion p tag st data => Sys2Proof.Machine.execPcieCompletion p tag st data s
  | .completionTimeout p tag => Sys2Proof.Machine.execCompletionTimeout p tag s
  | .mediaConfigRequest t => Sys2Proof.Machine.execMediaConfigRequest t s
  | .configRetry m tag expired => Sys2Proof.Machine.execConfigRetry m tag expired s
  | .mediaDoorbellWrite m off req => Sys2Proof.Machine.execMediaDoorbellWrite m off req s
  | .mediaInboundRequest m q => Sys2Proof.Machine.execMediaInboundRequest m q s
  | .ianchorEnable p ic => Sys2Proof.Machine.execIanchorEnable p ic s
  | .ianchorDisable p ic => Sys2Proof.Machine.execIanchorDisable p ic s
  | .entdaa da => Sys2Proof.Machine.execEntdaa da s
  | .setdasa da => Sys2Proof.Machine.execSetdasa da s
  | .setnewda da => Sys2Proof.Machine.execSetnewda da s
  | .rstdaa => Sys2Proof.Machine.execRstdaa s
  | .enec events => Sys2Proof.Machine.execEnec events s
  | .disec events => Sys2Proof.Machine.execDisec events s
  | .getpid => Sys2Proof.Machine.execGetpid s
  | .getbcr => Sys2Proof.Machine.execGetbcr s
  | .getdcr => Sys2Proof.Machine.execGetdcr s
  | .getstatus => Sys2Proof.Machine.execGetstatus s
  | .getmwl => Sys2Proof.Machine.execGetmwl s
  | .getmrl => Sys2Proof.Machine.execGetmrl s
  | .i3cReadRegister q => Sys2Proof.Machine.execI3cReadRegister q s
  | .i3cWriteRegister q data => Sys2Proof.Machine.execI3cWriteRegister q data s
  | .i3cReadKeep q => Sys2Proof.Machine.execI3cReadKeep q s
  | .i3cWriteKeep q data => Sys2Proof.Machine.execI3cWriteKeep q data s
  | .i3cWake => Sys2Proof.Machine.execI3cWake s
  | .i3cPrivateRead => Sys2Proof.Machine.execI3cPrivateRead s
  | .utx data ic => Sys2Proof.Machine.execUtx data ic s
  | .urx ic => Sys2Proof.Machine.execUrx ic s
  | .uartRxByte data => Sys2Proof.Machine.execUartRxByte data s
  | .uartTxByte => Sys2Proof.Machine.execUartTxByte s
  | .testLogicReset => Sys2Proof.Machine.execTestLogicReset s
  | .bypass => Sys2Proof.Machine.execBypass s
  | .idcode => Sys2Proof.Machine.execIdcode s
  | .samplePreload => Sys2Proof.Machine.execSamplePreload s
  | .extest => Sys2Proof.Machine.execExtest s
  | .jtagDebug acc => Sys2Proof.Machine.execJtagDebug acc s
  | .go v ic => Sys2Proof.Machine.execGo v ic s
  | .spidata write ic => Sys2Proof.Machine.execSpidata write ic s
  | .spiCommandDone data => Sys2Proof.Machine.execSpiCommandDone data s
  | .peerCtrlEn p v ic => Sys2Proof.Machine.execPeerCtrlEn p v ic s
  | .elecDone p => Sys2Proof.Machine.execElecDone p s
  | .bringupTimeout p => Sys2Proof.Machine.execBringupTimeout p s
  | .idleStroke p k => Sys2Proof.Machine.execIdleStroke p k s
  | .nak p k => Sys2Proof.Machine.execNak p k s
  | .initStroke p k => Sys2Proof.Machine.execInitStroke p k s
  | .alignStroke p k => Sys2Proof.Machine.execAlignStroke p k s
  | .mwr p k => Sys2Proof.Machine.execMwr p k s
  | .mrd p k => Sys2Proof.Machine.execMrd p k s
  | .mcpl p k => Sys2Proof.Machine.execMcpl p k s
  | .bellStroke p k => Sys2Proof.Machine.execBellStroke p k s
  | .tsync p k part => Sys2Proof.Machine.execTsync p k part s
  | .gossip p k => Sys2Proof.Machine.execGossip p k s
  | .strokeBad p => Sys2Proof.Machine.execStrokeBad p s
  | .replayTimeout p => Sys2Proof.Machine.execReplayTimeout p s
  | .peerWindowRequest t => Sys2Proof.Machine.execPeerWindowRequest t s
  | .tambourLinkDown p => Sys2Proof.Machine.execTambourLinkDown p s
  | .tsyncSend p => Sys2Proof.Machine.execTsyncSend p s
  | .timeLockTimeout p => Sys2Proof.Machine.execTimeLockTimeout p s
  | .gossipSend p => Sys2Proof.Machine.execGossipSend p s
  | .tbSet v ic => Sys2Proof.Machine.execTbSet v ic s
  | .tbAlarm => Sys2Proof.Machine.execTbAlarm s
  | .dreq v ic => Sys2Proof.Machine.execDreq v ic s
  | .domainTransitionDone => Sys2Proof.Machine.execDomainTransitionDone s
  | .nadir ic cx => Sys2Proof.Machine.execNadir ic cx s
  | .reset ic => Sys2Proof.Machine.execReset ic s
  | .nadirWake src => Sys2Proof.Machine.execNadirWake src s
  | .supplyWarning rail depth => Sys2Proof.Machine.execSupplyWarning rail depth s
  | .holdExit => Sys2Proof.Machine.execHoldExit s
  | .orderlyStop => Sys2Proof.Machine.execOrderlyStop s
  | .supplyReset rail => Sys2Proof.Machine.execSupplyReset rail s
  | .powerOnReset => Sys2Proof.Machine.execPowerOnReset s
  | .sysRstN => Sys2Proof.Machine.execSysRstN s
  | .memoryFieldInit path => Sys2Proof.Machine.execMemoryFieldInit path s
  | .bootImageCheck src => Sys2Proof.Machine.execBootImageCheck src s
  | .recal ic => Sys2Proof.Machine.execRecal ic s
  | .recalComplete set => Sys2Proof.Machine.execRecalComplete set s
  | .sensorSample n t ok => Sys2Proof.Machine.execSensorSample n t ok s
  | .currentSample d current volt => Sys2Proof.Machine.execCurrentSample d current volt s
  | .avsStep below above => Sys2Proof.Machine.execAvsStep below above s
  | .capEvaluation => Sys2Proof.Machine.execCapEvaluation s
  | .thermalEvaluation => Sys2Proof.Machine.execThermalEvaluation s
  | .plannerRun => Sys2Proof.Machine.execPlannerRun s
  | .dack v ic => Sys2Proof.Machine.execDack v ic s
  | .reqAWrite idx v ic => Sys2Proof.Machine.execReqAWrite idx v ic s
  | .swdWrite w v ic => Sys2Proof.Machine.execSwdWrite w v ic s
  | .swdkick v ic => Sys2Proof.Machine.execSwdkick v ic s
  | .watchdogExpiry w => Sys2Proof.Machine.execWatchdogExpiry w s
  | .lossOfLock => Sys2Proof.Machine.execLossOfLock s
  | .logRecordWrite => Sys2Proof.Machine.execLogRecordWrite s
  | .inject off v ic => Sys2Proof.Machine.execInject off v ic s
  | .phase v ic => Sys2Proof.Machine.execPhase v ic s
  | .pend n v ic => Sys2Proof.Machine.execPend n v ic s
  | .registerWrite off v ic => Sys2Proof.Machine.execRegisterWrite off v ic s
  | .registerReadClear off ic => Sys2Proof.Machine.execRegisterReadClear off ic s
  | .illegalInstruction cx word => Sys2Proof.Machine.execIllegalInstruction cx word s
  | .fetchGroup core => Sys2Proof.Machine.execFetchGroup core s
  | .supplyRecovery rail => Sys2Proof.Machine.execSupplyRecovery rail s
  | .vddSettled => Sys2Proof.Machine.execVddSettled s
  | .badTlp p => Sys2Proof.Machine.execBadTlp p s
  | .downstreamErrorMessage m => Sys2Proof.Machine.execDownstreamErrorMessage m s
  | .msixTableWrite h v entry => Sys2Proof.Machine.execMsixTableWrite h v entry s

end Sys2Proof.Machine
end

