-- ==== Sys2Proof/Machine/Tick.lean ====
section
/-! DEFINITION. What one unit of TB, 10 ns, does when no command waits (assumption log 2): TB with its slew (R391,
R397), CCLK (R396), the watchdogs (R433) and the Mover's credits (R223). -/

namespace Sys2Proof.Machine
open Sys2Proof

/-- TB and its fraction advance by `n` / 256. -/
def tbAdvance (s : State) (n : Nat) : State :=
  let t := s.tb.toNat * 256 + s.tbFrac + n
  { s with tb := wd (t / 256), tbFrac := t % 256 }

/-- TB counts one unit; an offset to be removed is slewed at 1/256 of a unit in 20 ticks (at most 200 ppm), or, when
TB is to go back after a first exchange, at half rate (R391). -/
def tbTick (s : State) : State :=
  if s.slew = 0 then tbAdvance s 256
  else if s.tbHalf then
    let d := Nat.min 128 s.slew.natAbs
    let left := s.slew + d
    { tbAdvance s (256 - d) with slew := left, tbHalf := decide (left ≠ 0) }
  else if s.slewAcc < 19 then { tbAdvance s 256 with slewAcc := s.slewAcc + 1 }
  else if 0 < s.slew then { tbAdvance s 257 with slew := s.slew - 1, slewAcc := 0 }
  else { tbAdvance s 255 with slew := s.slew + 1, slewAcc := 0 }

/-- The effective share of a channel (R223). -/
def chShare (s : State) (n : Nat) : Nat :=
  let cap := fun v => if v = 0 ∨ 256 < v then 256 else v
  Nat.max 1 (cap (fld (chCfg s n) 8 0) * cap (rfld s (pg .mov + 0x118) 8 0) / 256)

/-- Twelve FCLK cycles of credit for every channel. -/
def creditTick (s : State) : State :=
  s.movs.foldl (fun s m => setMov s m.1 { movAt s m.1 with credit := Nat.min 4096 (m.2.credit + 12 * chShare s m.1) }) s

/-- The contexts of each core age by the cycles that pass without a selection: those of the unit, less those in which
the core issued, which `countIssue` counts (R47). -/
def ageTick (s : State) (cycles : Nat) : State :=
  { s with
    ctxs := s.ctxs.map fun p =>
      if decoded p.2 then
        (p.1, { p.2 with age := Nat.min (p.2.age + (cycles - (coreAt s (coreOf (BitVec.ofNat 11 p.1))).issued)) 256 })
      else p
    cores := (s.cores.map fun p => (p.1, { p.2 with
      issued := 0, slot := p.2.slot + BitVec.ofNat 4 (p.2.issued - cycles) })).filter fun p => decide (p.2 ≠ Core.idle) }

/-- CCLK cycles in one unit: ROOT counts 48 cycles, divided by CDIV; the counter's unit is 1/27,720 of a cycle. -/
def cclkTick (s : State) : State :=
  let now := s.cclk + 48 * 27720 / Nat.max 3 (rfld s clkStat 11 8)
  { ageTick s (now / 27720 - s.cclk / 27720) with cclk := now }

/-- The watchdogs count down by the units of TB that have passed since it read `tb` (R433). -/
def swdTick (s : State) (tb : Word) : State :=
  { s with swdLeft := s.swdLeft.map fun p => (p.1, p.2 - (s.tb - tb).toNat) }

/-- One TB unit passes; with the PLL off, one cycle of AONCLK, in which TB counts 4 (R397), unless REFCLK has stopped
(R466). -/
def tick (s : State) : State :=
  if s.power.nadir then (if s.power.refStop then s else tbAdvance s 1024)
  else
    let tb := s.tb
    let s := portsTick (tbTick s)
    let s := creditTick (cclkTick s)
    if s.power.halted then s else swdTick s tb

end Sys2Proof.Machine
end

