-- ==== Sys2Proof/Safety.lean ====
section
/-! DEFINITION. The terms that the statements use: what a safe outcome is, when an instruction of a context is executed,
and the state after it. -/

namespace Sys2Proof
open Sys2Proof.Machine

/-- A safe outcome: the block goes on. No rule of the spec stops the device in a named fault, so every outcome of
every command is to be safe. -/
def Safe (o : Out) : Prop := ∃ t, o = .next t

/-! ### An instruction of a context -/

/-- The context as its instruction finds it: READY, and issuing ends the effect of an earlier YIELD (R45, R112). -/
def cpu (s : State) (cx : CtxId) : Ctx := { ctxAt s cx with run := .ready, why := none, yielded := false }

/-- The state in which an instruction of `cx` executes. -/
def begun (s : State) (cx : CtxId) : State := setCtx s cx (cpu s cx)

/-- The instruction `w` of `cx` is at issue: the context is READY, or waits for this word only (assumption log 3), its core
selects it, and its PCC's next word is this one and passed the check of its fetch (R20, R45 to R48). -/
def atIssue (s : State) (cx : CtxId) (w : BitVec 32) : Bool :=
  mayIssue (ctxAt s cx) && !s.power.halted && selectable s cx &&
    (match headWord (ctxAt s cx) w with
      | .ok b => b
      | .error _ => false)

/-- The instruction `i` of `cx` is executed: it is at issue, the encoding is assigned and a repeat admits it (R72, R107;
for ops 0x30 to 0x33 the operation itself tests that, R136), and its operands are available and sound (R45, R432). -/
def canIssue (s : State) (cx : CtxId) (i : Ins) : Bool :=
  let c := ctxAt s cx
  atIssue s cx i.word && (i.fp || (!i.bad && (!c.repAct || decide ((if c.repU then 2 else 1) ≤ i.rep)))) &&
    (operandWait (cpu s cx) i).isNone && (badRead (begun s cx) cx (cpu s cx) i.reads).isNone

/-- The context executed an instruction, which left the state `s1`, and goes on to the next one. -/
def ran (cx : CtxId) (s1 : State) : State :=
  let s2 := countIssue s1 cx
  releaseHold cx (setCtx s2 cx (retire (ctxAt s2 cx)))

/-- The context executed an instruction that sent it to `pcc`: its prefetched words are dropped (R49). -/
def ranTo (cx : CtxId) (s1 : State) (pcc : Cap) : State :=
  let s2 := countIssue s1 cx
  let c := ctxAt s2 cx
  releaseHold cx (setCtx s2 cx (flushTo { c with shadow := shadowNext c } pcc))

/-- The context took a branch to `x` under its PCC; the words prefetched for `x` stay (R49). -/
def ranBr (cx : CtxId) (s1 : State) (x : Nat) : State :=
  let s2 := countIssue s1 cx
  let c := ctxAt s2 cx
  releaseHold cx (setCtx s2 cx (goTo { c with shadow := shadowNext c } (pccAt c x) c.queue.tail))

/-- The context executed an instruction after which it does not go on by itself, or that moved the PCC itself. -/
def rested (cx : CtxId) (s1 : State) : State := releaseHold cx (countIssue s1 cx)

/-- The instruction `w` of the context faulted in `s1` (R143 to R146). -/
def trapped (cx : CtxId) (s1 : State) (f : FaultInfo) (w : BitVec 32) : State :=
  releaseHold cx (deliver (countIssue s1 cx) cx f (w.zeroExtend 64))

/-- The context waits for what its instruction needs (R45); the instruction is not executed. -/
def stalled (cx : CtxId) (s1 : State) (w : Why) : State :=
  releaseHold cx (setCtx s1 cx { ctxAt s1 cx with run := .stalled, why := some w, age := 0 })

/-- The command `i` executes with the registers of `cx` becoming `f` of what they were, and the context goes on. -/
def Runs (i : Instr) (s : State) (cx : CtxId) (f : Ctx → Ctx) : Prop :=
  exec i s = .next (ran cx (setCtx (begun s cx) cx (f (cpu s cx))))

/-- The command `i` executes and branches to `x` under the PCC, its registers becoming `f` of what they were. -/
def Branches (i : Instr) (s : State) (cx : CtxId) (f : Ctx → Ctx) (x : Nat) : Prop :=
  exec i s = .next (ranBr cx (setCtx (begun s cx) cx (f (cpu s cx))) x)

/-- As `Runs`, with the effect on the whole state. -/
def RunsAll (i : Instr) (s : State) (cx : CtxId) (f : Ctx → State → State) : Prop :=
  exec i s = .next (ran cx (f (cpu s cx) (begun s cx)))

/-- The command `i` executes and sends the context to `pcc`, its registers becoming `f` of what they were. -/
def Goes (i : Instr) (s : State) (cx : CtxId) (f : Ctx → Ctx) (pcc : Cap) : Prop :=
  exec i s = .next (ranTo cx (setCtx (begun s cx) cx (f (cpu s cx))) pcc)

/-- The command `i`, whose instruction is `ins`, faults with nothing else changed. -/
def Traps (i : Instr) (s : State) (cx : CtxId) (ins : Ins) (f : FaultInfo) : Prop :=
  exec i s = .next (trapped cx (begun s cx) f ins.word)

/-- The condition of R81, row by row. -/
def condHolds (c : Cond) (f : Flags) : Bool :=
  [f.z, !f.z, !f.c, f.c, !f.c || f.z, f.c && !f.z, f.n != f.v, f.n == f.v, f.z || (f.n != f.v), !f.z && (f.n == f.v),
    f.n, !f.n, f.v, !f.v, true].getD c.toNat false

/-- The address that a relative branch goes to (R82): `imm` instructions from its own. -/
def branchTarget {w : Nat} (c : Ctx) (imm : BitVec w) : Nat := (wd (pcOf c) + imm.signExtend 64 * 4).toNat

/-- The fault of a branch of the context to address `x` under its PCC, if the check of R83 fails: FE1 holds the address. -/
def branchBad (c : Ctx) (x : Nat) : Option FaultInfo :=
  (targetCheckAt c.pcc x).map fun k => { kind := k, addr := some (wd x) }

/-- The fault of a branch to `t` through register `reg` (R83). -/
def branchFault (t : Cap) (reg : Reg) (k : Nat) : FaultInfo :=
  { kind := k, addr := some (t.bits.truncate 64), reg := reg.toNat }

/-! ### Memory accesses and capabilities of a context -/

/-- The context's data access through register `r` of the instruction `w`. -/
def access (s : State) (cx : CtxId) (r : Reg) (w : BitVec 32) : CoreAcc :=
  { cx := cx, c := cpu s cx, reg := r.toNat, cap := readReg (cpu s cx) r, word := w }

/-- The address of an access (R84): CURSOR of the base register plus the offset, an immediate scaled by `n`. -/
def accessAt (c : Ctx) (n : Nat) (base : Reg) : MemOff → Word
  | .imm i => readInt c base + i.signExtend 64 * wd n
  | .reg r => readInt c base + readInt c r

/-- A fault of kind `k` at address `x` through register `r`. -/
def faultAt (k : Nat) (x : Word) (r : Reg) : FaultInfo := { kind := k, addr := some x, reg := r.toNat }

/-- An outstanding load joins those of the context. -/
def withLoad (s : State) (cx : CtxId) (l : Load) : State :=
  setCtx s cx { ctxAt s cx with loads := (ctxAt s cx).loads ++ [l] }

/-- The capability of R16 that 16 bytes and a tag hold. -/
def capOfBytes (bs : List Byte) (tag : Bool) : Cap := { bits := BitVec.ofNat 128 (leNat bs), tag := tag }

/-- A row of R84 that loads `n` bytes: with a free place among the four outstanding loads, an access the capability
allows and the data there, the load is outstanding with the value `val` for rd; the check's fault is taken otherwise. -/
def LoadRow (i : CtxId → Reg → Reg → MemOff → Instr) (code n : Nat) (val : Cap → List Byte → Bool → Cap) : Prop :=
  ∀ (s : State) (cx : CtxId) (rd a : Reg) (off : MemOff),
    let w := ldWord code rd a off
    let ins : Ins := { word := w, rep := 1, reads := a :: offRegs off, writes := [rd] }
    let x := accessAt (cpu s cx) n a off
    let auth := readReg (cpu s cx) a
    canIssue s cx ins = true →
    (4 ≤ (cpu s cx).loads.length → exec (i cx rd a off) s = .next (stalled cx (begun s cx) .load)) ∧
    ((cpu s cx).loads.length < 4 →
      (∀ k, capCheck auth [rLoad] true (decide (n = 16)) x.toNat n = some k →
        Traps (i cx rd a off) s cx ins (faultAt k x a)) ∧
      (∀ l t, capCheck auth [rLoad] true (decide (n = 16)) x.toNat n = none →
        loadVa (access s cx a w) x.toNat n (begun s cx) = .ok (l, t) →
        exec (i cx rd a off) s = .next (ran cx (withLoad t cx
          { dest := (regKey (cpu s cx).cwp rd.toNat).getD 0, val := val auth l.bytes l.tag, cached := l.cached, xl := l.ent,
            gates := l.gates, old := [] }))))

/-- The part of a load reads memory: outside the caches, from DRAM or scratchpad that answers, through a gate that lets it,
with no injected error on the link to the cluster. -/
def plainRead (a : CoreAcc) (t : State) (p : Piece) : Prop :=
  0 < p.n ∧ cacheable t (coreOf a.cx) p.pa p.uc = false ∧ t.mem.err = [] ∧
    (isDram p.pa = true ∧ memOn t = true ∨ ∃ b, targetOf p.pa = .spad b ∧ bankOn t b = true) ∧
    gateDomainOn t (gateOf (targetOf p.pa)) = true ∧
    (judge t (gateOf (targetOf p.pa)) p.pa (ctxClass a.c) { r := true, w := false, x := false }
      (BitVec.ofNat 4 (capColour a.cap)) (cxidWord a.cx a.c).toNat).1 = true ∧
    (clusterOf (coreOf a.cx) = 0 → ∀ k, 1 ≤ k → k ≤ 3 → injArmed t .ras 0 k = false)

/-- A granule that the part touches is poisoned. -/
def poisoned (t : State) (p : Piece) : Bool := (grans p.pa p.n).any fun g => memMeta t.mem (2 * g + 1)

/-- A row of R84 that stores `n` bytes of the register's value: without a free entry of the store buffer for each of its
parts it waits; a store within one line that its translation and its target's gate let through leaves its entry there. That
the store is judged as it issues, and not as it drains, is the model's choice (assumption log 18). -/
def StoreRow (i : CtxId → Reg → Reg → MemOff → Instr) (code n : Nat) : Prop :=
  ∀ (s : State) (cx : CtxId) (d a : Reg) (off : MemOff),
    let w := stWord code d a off
    let ins : Ins := { word := w, rep := 1, reads := d :: a :: offRegs off }
    let x := accessAt (cpu s cx) n a off
    let v := readReg (cpu s cx) d
    let auth := readReg (cpu s cx) a
    let ok := capCheck auth [rStore] (decide (n ≠ 16) || storeCapOk auth v) (decide (n = 16)) x.toNat n
    let bytes := leBytes n v.bits.toNat
    let tag := decide (n = 16) && v.tag
    let acc := access s cx a w
    let parts := (linesOf x.toNat n).length
    canIssue s cx ins = true →
    (∀ k, ok = some k → Traps (i cx d a off) s cx ins (faultAt k x a)) ∧
    (ok = none → 4 < (cpu s cx).stores.length + parts → exec (i cx d a off) s = .next (stalled cx (begun s cx) .store)) ∧
    (∀ p t u, ok = none → (cpu s cx).stores.length + parts ≤ 4 → xlateAcc acc needW x.toNat n (begun s cx) = .ok ([p], t) →
      storeCheck acc p (.write (bytes.take p.n) (if tag then [true] else []) []) t = (none, u) →
      exec (i cx d a off) s = .next (ran cx (pushStore u cx
        { pa := p.pa, data := bytes.take p.n, tag := tag, cls := ctxClass (cpu s cx)
          colour := BitVec.ofNat 4 (capColour auth), cached := cacheable u (coreOf cx) p.pa p.uc, xl := p.ent, old := false }))) ∧
    (∀ t, ok = none → storeVa acc x.toNat bytes tag (begun s cx) = .done t → exec (i cx d a off) s = .next (ran cx t))

/-- A row of R87 on `n` bytes: on scratchpad, with the store buffer empty and the access allowed, rd takes what was
there, and the target holds the new value. An address outside scratchpad faults ILLEGAL, and so does a misaligned one of 8
bytes; a poisoned granule faults POISON. That the fault of the capability comes before the ILLEGAL of a misaligned address is
the model's choice (assumption log 78). -/
def AtomicRow (i : CtxId → Reg → Reg → Reg → Instr) (func n : Nat) (op : Cap → TxnOp) : Prop :=
  ∀ (s : State) (cx : CtxId) (rd a b : Reg),
    let w := wReg 0x14 rd a b func
    let auth := readReg (cpu s cx) a
    let v := readReg (cpu s cx) b
    let x := (readInt (cpu s cx) a).toNat
    let ok := capCheck auth [rLoad, rStore] (decide (n ≠ 16) || storeCapOk auth v) (decide (n = 16)) x n
    canIssue s cx { word := w, reads := [a, b], writes := [rd] } = true →
    (∀ k, ok = some k → Traps (i cx rd a b) s cx { word := w } (faultAt k (readInt (cpu s cx) a) a)) ∧
    (ok = none → n = 8 → x % 8 ≠ 0 → Traps (i cx rd a b) s cx { word := w } (faultAt 0x0C (readInt (cpu s cx) a) a)) ∧
    (ok = none → x % 8 = 0 → (cpu s cx).stores ≠ [] → exec (i cx rd a b) s = .next (stalled cx (begun s cx) .drain)) ∧
    (∀ p s1, ok = none → x % 8 = 0 → (cpu s cx).stores = [] →
      xlateAcc (access s cx a w) (needR + needW) x n (begun s cx) = .ok ([p], s1) → isSpad p.pa = false →
      exec (i cx rd a b) s = .next (trapped cx s1 (faultAt 0x0C (readInt (cpu s cx) a) a) w)) ∧
    (∀ p s1 r s2 d s3, ok = none → x % 8 = 0 → (cpu s cx).stores = [] →
      xlateAcc (access s cx a w) (needR + needW) x n (begun s cx) = .ok ([p], s1) → isSpad p.pa = true →
      fabricTxn s1 p.pa n (op v) (ctxClass (cpu s cx)) (BitVec.ofNat 4 (capColour auth))
        (cxidWord cx (cpu s cx)).toNat 3 = (.ok r, s2) →
      linkDeliver s2 (clusterOf (coreOf cx)) p.pa r = (d, s3) →
      if d.poison.any id then exec (i cx rd a b) s = .next (trapped cx s3 (faultAt 0x0A (readInt (cpu s cx) a) a) w)
      else let s4 := softWrite s3 p.pa n
        exec (i cx rd a b) s = .next (ran cx (setCtx s4 cx (writeReg (ctxAt s4 cx) rd
        (if n = 16 then loadCapResult auth (capOfBytes d.bytes (d.tags.headD false)) else intCap (wd (leNat d.bytes)))))))

/-- A row of R91 on the line of its address, which is in one page: `act` is done to a DRAM line. -/
def MaintRow (i : CtxId → Reg → BitVec 11 → Instr) (op : Nat) (priv : Bool) (may : Cap → Nat → Option Nat) (need : Nat)
    (act : State → Nat → Nat → State) : Prop :=
  ∀ (s : State) (cx : CtxId) (a : Reg) (imm : BitVec 11),
    let w := wImm 0x16 (BitVec.ofNat 5 op) a 0 imm
    let x := readInt (cpu s cx) a + imm.signExtend 64
    canIssue s cx { word := w, reads := [a] } = true →
    (priv = true → (cpu s cx).super = false → Traps (i cx a imm) s cx { word := w } { kind := 0x0D }) ∧
    ((priv = true → (cpu s cx).super = true) →
      (∀ k, may (readReg (cpu s cx) a) x.toNat = some k → Traps (i cx a imm) s cx { word := w } (faultAt k x a)) ∧
      (∀ p t, may (readReg (cpu s cx) a) x.toNat = none →
        xlateAcc (access s cx a w) need x.toNat 1 (begun s cx) = .ok ([p], t) →
        exec (i cx a imm) s = .next (ran cx
          (if isDram p.pa || decide (op = 3) then act t (cx.toNat / 256) (p.pa / 64 * 64) else t))))

/-- A row of R92: a supervisor's invalidation of its own world, or any of a Custodian's, joins those to complete. -/
def TlbRow (i : Instr) (s : State) (cx : CtxId) (op : Fin 5) (w : Bool) (a b : Reg) : Prop :=
  let ins : Ins := { word := wReg 0x17 0 a b (b2n w * 256 + op.val), reads := [a, b] }
  canIssue s cx ins = true →
  if (cpu s cx).super = true ∧ ((cpu s cx).cust = true ∨ (w = false ∧ op.val < 3)) then
    exec i s = .next (ran cx { begun s cx with
      invals := s.invals ++ [{ op := op, world := w, asid := (readInt (cpu s cx) b).truncate 16
                               addr := (readInt (cpu s cx) a).toNat, issuer := cx }] })
  else Traps i s cx ins { kind := 0x0D }

/-- A row of R89 or R90 that never faults. -/
def CapRow (i : Instr) (s : State) (cx : CtxId) (ins : Ins) (rd : Reg) (v : Ctx → Cap) : Prop :=
  canIssue s cx ins = true → Runs i s cx fun c => writeReg c rd (v c)

/-- `v` with CURSOR `x` (R25): the tag stays while the bounds hold CURSOR. -/
def movedTo (v : Cap) (x : Word) : Cap :=
  { bits := v.bits.extractLsb' 64 64 ++ x
    tag := v.tag && decide (capBase v ≤ (x.toNat : Int)) && decide ((x.toNat : Int) ≤ capTop v) }

/-- A row of R25 that moves CURSOR: a sealed tagged source faults SEALED. -/
def MoveRow (i : Instr) (s : State) (cx : CtxId) (ins : Ins) (rd a : Reg) (x : Word) : Prop :=
  canIssue s cx ins = true →
  let v := readReg (cpu s cx) a
  if v.tag = true ∧ capOtype v ≠ 0 then Traps i s cx ins { kind := 0x04, reg := a.toNat }
  else Runs i s cx fun c => writeReg c rd (movedTo v x)

/-- A row of R25 that removes rights. -/
def MaskRow (i : Instr) (s : State) (cx : CtxId) (ins : Ins) (rd a : Reg) (m : BitVec 10) : Prop :=
  canIssue s cx ins = true →
  let v := readReg (cpu s cx) a
  if v.tag = false then Traps i s cx ins { kind := 0x01, reg := a.toNat }
  else if capOtype v ≠ 0 then Traps i s cx ins { kind := 0x04, reg := a.toNat }
  else Runs i s cx fun c => writeReg c rd
    { v with bits := v.bits.extractLsb' 82 46 ++ (v.bits.extractLsb' 72 10 &&& m) ++ v.bits.extractLsb' 0 72 }

/-- A row of R22 that sets bounds. -/
def BoundsRow (i : Instr) (s : State) (cx : CtxId) (ins : Ins) (rd a b : Reg) (exact : Bool) : Prop :=
  canIssue s cx ins = true →
  match capNarrow (readReg (cpu s cx) a) (readInt (cpu s cx) b).toNat exact with
  | .error k => Traps i s cx ins { kind := k, reg := a.toNat }
  | .ok v => Runs i s cx fun c => writeReg c rd v

/-! ### Service, control and floating point -/

/-- R148: the context that the instruction of a supervisor acts on: another one of its core, of no stronger world. -/
def Targets (s : State) (cx : CtxId) (a : Reg) (x : CtxId) : Prop :=
  (cpu s cx).super = true ∧ (readInt (cpu s cx) a).toNat < 16 ∧
    x = cxOn (coreOf cx) (BitVec.ofNat 4 (readInt (cpu s cx) a).toNat) ∧ x ≠ cx ∧
    ((cpu s cx).cust = true ∨ (ctxAt s x).cust = false)

/-- The FP instruction `w` of `cx` executes: it issues, the context holds the bank, no trap is pending, the encoding is
assigned, and its registers are available and sound (R122, R135, R136). -/
def canFp (s : State) (cx : CtxId) (w : BitVec 32) (i : FIns) : Bool :=
  let k := coreAt s (coreOf cx)
  canIssue s cx { word := w, fp := true } && decide (k.holder = some (cxLow cx)) && decide (fcsrTpend k.fpBank = 0) &&
    (!i.bar || decide ((cpu s cx).fp = [])) && !i.bad && !(cpu s cx).repAct && !((i.freads ++ i.fwrites).any (fPending (cpu s cx))) &&
    (operandWait (cpu s cx) { word := w, fp := true, reads := i.reads, writes := i.writes }).isNone &&
    (badRead (begun s cx) cx (cpu s cx) i.reads).isNone && (fBadRead (begun s cx) cx k.fpBank i.freads).isNone

/-- FP register `r` of the context that holds the bank. -/
def fpr (s : State) (cx : CtxId) (r : Reg) : Word := smGet 0 (coreAt s (coreOf cx)).fpBank.regs r.toNat

/-- The rounding mode in force for a rounding field (R126). -/
def roundMode (s : State) (cx : CtxId) (rm : BitVec 3) : Nat :=
  if rm = 7 then ((coreAt s (coreOf cx)).fpBank.fcsr.extractLsb' 10 3).toNat else rm.toNat

/-- An FP row that leaves for the FP unit with these operands and destination (R135). -/
def FpRow (i : Instr) (s : State) (cx : CtxId) (w : BitVec 32) (ins : FIns) (kind : FpKind) (dbl : Bool) (rm : Nat)
    (a b c : Word) (dest : Nat) (idst : Bool) : Prop :=
  canFp s cx w ins = true →
  Runs i s cx fun x => { x with fp := x.fp ++ [
    { kind := kind, dbl := dbl, rm := rm, a := a, b := b, c := c, dest := dest, idst := idst, addr := wd (pcOf x)
      ftz := (coreAt s (coreOf cx)).fpBank.fcsr.getLsbD 13, seq := (rget s (corePg (coreOf cx) 0x130)).toNat }] }

/-- The word of an FP instruction (R130, R132 to R134). -/
def fpWord : Instr → Option (CtxId × BitVec 32)
  | .fadd cx p rm rd a b => some (cx, wReg 0x30 rd a b (b2n p * 0x400 + rm.toNat * 0x80))
  | .fsub cx p rm rd a b => some (cx, wReg 0x30 rd a b (b2n p * 0x400 + rm.toNat * 0x80 + 1))
  | .fmul cx p rm rd a b => some (cx, wReg 0x30 rd a b (b2n p * 0x400 + rm.toNat * 0x80 + 2))
  | .fdiv cx p rm rd a b => some (cx, wReg 0x30 rd a b (b2n p * 0x400 + rm.toNat * 0x80 + 3))
  | .fsqrt cx p rm rd a => some (cx, wReg 0x30 rd a 0 (b2n p * 0x400 + rm.toNat * 0x80 + 4))
  | .fmin cx p rd a b => some (cx, wReg 0x30 rd a b (b2n p * 0x400 + 5))
  | .fmax cx p rd a b => some (cx, wReg 0x30 rd a b (b2n p * 0x400 + 6))
  | .fcmp cx p a b => some (cx, wReg 0x30 0 a b (b2n p * 0x400 + 8))
  | .fcmps cx p a b => some (cx, wReg 0x30 0 a b (b2n p * 0x400 + 9))
  | .fmadd cx p rm rd a b c => some (cx, wReg 0x31 rd a b (c.toNat * 0x40 + b2n p * 0x20 + rm.toNat * 4))
  | .fmsub cx p rm rd a b c => some (cx, wReg 0x31 rd a b (c.toNat * 0x40 + b2n p * 0x20 + rm.toNat * 4 + 1))
  | .fnmadd cx p rm rd a b c => some (cx, wReg 0x31 rd a b (c.toNat * 0x40 + b2n p * 0x20 + rm.toNat * 4 + 2))
  | .fnmsub cx p rm rd a b c => some (cx, wReg 0x31 rd a b (c.toNat * 0x40 + b2n p * 0x20 + rm.toNat * 4 + 3))
  | .fcvtsd cx rm rd a => some (cx, wReg 0x32 rd a 0 (rm.toNat * 0x80))
  | .fcvtds cx rd a => some (cx, wReg 0x32 rd a 0 1)
  | .fcvtld cx rm rd a => some (cx, wReg 0x32 rd a 0 (rm.toNat * 0x80 + 2))
  | .fcvtlud cx rm rd a => some (cx, wReg 0x32 rd a 0 (rm.toNat * 0x80 + 3))
  | .fcvtdl cx rm rd a => some (cx, wReg 0x32 rd a 0 (rm.toNat * 0x80 + 4))
  | .fcvtdlu cx rm rd a => some (cx, wReg 0x32 rd a 0 (rm.toNat * 0x80 + 5))
  | .fcvtls cx rm rd a => some (cx, wReg 0x32 rd a 0 (rm.toNat * 0x80 + 6))
  | .fcvtlus cx rm rd a => some (cx, wReg 0x32 rd a 0 (rm.toNat * 0x80 + 7))
  | .fcvtsl cx rm rd a => some (cx, wReg 0x32 rd a 0 (rm.toNat * 0x80 + 8))
  | .fcvtslu cx rm rd a => some (cx, wReg 0x32 rd a 0 (rm.toNat * 0x80 + 9))
  | .fmvif cx rd a => some (cx, wReg 0x32 rd a 0 16)
  | .fmvfi cx rd a => some (cx, wReg 0x32 rd a 0 17)
  | .frcsr cx rd => some (cx, wReg 0x32 rd 0 0 24)
  | .fwcsr cx a => some (cx, wReg 0x32 0 a 0 25)
  | .fbar cx => some (cx, wReg 0x32 0 0 0 31)
  | .flw cx rd a imm => some (cx, wImm 0x33 rd a 0 imm)
  | .fld cx rd a imm => some (cx, wImm 0x33 rd a 1 imm)
  | .fsw cx rd a imm => some (cx, wImm 0x33 rd a 2 imm)
  | .fsd cx rd a imm => some (cx, wImm 0x33 rd a 3 imm)
  | _ => none

/-- The gate in front of a transaction's target passes it on: its domain is on, it can take the transaction now, and its
verdict allows it (R191 to R196). -/
def lets (s : State) (x : Txn) : Bool :=
  let t := targetOf x.pa
  gateDomainOn s (gateOf t) && !writeHeld s t x.op &&
    (judge s (gateOf t) x.pa x.cls (opKinds x.op) x.colour (sourceOf x.cls x.src.toNat)).1

/-- The PCIe port that a row has receive a TLP. -/
def receivedBy : Instr → Option (PageKind × Nat)
  | .configRequest h _ _ | .functionLevelReset h | .d3hotEntry h | .bar0Request h _ | .bar4Request h _
  | .doorbellWrite h _ _ _ | .doorbellRead h _ | .bellWindowWrite h _ _ | .msixTableWrite h _ _ | .apertureLoad h _ _
  | .apertureClose h _ => some (.host, h.toNat)
  | .mediaInboundRequest m _ | .mediaDoorbellWrite m _ _ | .downstreamErrorMessage m => some (.med, m.toNat)
  | .pcieCompletion p _ _ _ => pciePort p
  | _ => none

/-- The block register at `o` of a page of kind `k` does more with a write than its access codes say; rows of its own
say what. -/
def ownWrite (k : PageKind) (o : Nat) : Bool :=
  let ring := decide (0x900 ≤ o) && decide (o < 0x980)
  match k with
  | .sys | .lct | .mov => [0x108].contains o
  | .pwr => [0x100, 0x118].contains o
  | .orr => [0x168].contains o || decide (0x800 ≤ o) && decide (o < 0xC00)
  | .ras => [0x140, 0x148, 0x150].contains o
  | .tb => [0x108, 0x110].contains o
  | .clu => [0x100, 0x108, 0x110].contains o
  | .core => [0x120].contains o
  | .car => decide (0x500 ≤ o) && decide (o < 0x700)
  | .spad => decide (0x100 ≤ o) && decide (o < 0x140)
  | .mc => [0x120].contains o
  | .keep | .gate | .movch => [0x100].contains o
  | .chk => ring || [0x100].contains o
  | .idx => ring || [0x100, 0x108, 0x110, 0x128].contains o
  | .cdn | .cdr | .cph => ring
  | .host => [0x180, 0x188].contains o
  | .med => [0x188].contains o
  | .peer => [0x100, 0x188].contains o
  | .mgmt => [0x108, 0x120, 0x128, 0x130].contains o
  | _ => false

/-! ### Operations of the engines -/

/-- Descriptor `i` of a ring runs operation `op`, or is the one that the engine starts next (R240): the descriptor with its
lane, and the state that holds it so. `waited` says whether it had to wait before. -/
def engPlaced (s : State) (e : Eng) (r i op : Nat) (waited : Bool) : Option (EngDesc × State) :=
  ((engReady s e r i op).filter fun d => d.begun == waited).map (engPlace s e r i)

/-- A descriptor that its engine has accepted waits, by R265, R288 or R310, at the head of its ring. -/
def engWaits (s : State) (e : Eng) (r op : Nat) : Option EngDesc :=
  (descAt s e r 0).filter fun d => decide (edOp d.raw = op) && d.fin.isNone && d.lane.isNone && engClear s e r 0 &&
    engHeld s e r d

/-- Descriptor `i` passes the tests of R236, R237 and the translation of its extents; the state in which it issues its
transactions. -/
def engPass (s : State) (e : Eng) (r i : Nat) (d : RData) (f : EngForm) : Option State :=
  if engReject s e r d f = 0 ∧ engCapFault (f.exts.filter fun x => !edNull d x.side) = none then
    match if !(ringReq s e r).xlat && !s2en s (ringReq s e r).world then (none, s) else engPages (ringReq s e r) f.exts s with
    | (none, t) => some (engIssued t e r i true)
    | _ => none
  else none

/-- The bytes of these extents by SIDE, read without error or poison, and the state after the reads. -/
def engInput (s : State) (e : Eng) (r : Nat) (xs : List EngSlot) : Option ((Nat → List Byte) × State) :=
  match engAllPieces (ringReq s e r) xs s with
  | (.ok ps, s1) => match piecesReady 5 (engSrc e r) ps s1 with
    | (true, s2) => match readPieces 5 (engSrc e r) ps [] s2 with
      | (.ok ds, s3) => if poisonSide (ps.zip ds) = none then some (sideBytes (ps.zip ds), s3) else none
      | _ => none
    | _ => none
  | _ => none

/-- An operation whose descriptor passes its tests ends as `out` says of the bytes of its inputs. -/
def EngOp (i : Instr) (s : State) (e : Eng) (r : BitVec 4) (n op : Nat) (may : EngDesc → State → Prop) (form : EngDesc → EngForm)
    (ins : EngDesc → List EngSlot) (out : EngDesc → (Nat → List Byte) → State → State) : Prop :=
  ∀ d s1 t b u, engPlaced s e r.toNat n op false = some (d, s1) → engPass s1 e r.toNat n d.raw (form d) = some t → may d t →
    engInput t e r.toNat (ins d) = some (b, u) → exec i s = .next (out d b u)

/-- An operation on no input: it ends as `out` says. -/
def EngOp0 (i : Instr) (s : State) (e : Eng) (r : BitVec 4) (n op : Nat) (form : EngDesc → EngForm)
    (out : EngDesc → State → State) : Prop :=
  ∀ d s1 t, engPlaced s e r.toNat n op false = some (d, s1) → engPass s1 e r.toNat n d.raw (form d) = some t →
    exec i s = .next (out d t)

/-! ### The Custodian island -/

/-- A trigger value whose must-be-zero bits are not zero: seal unit, digest unit, key ladder (R332, R336, R426). -/
def sealZero (o : IslOp) : Bool := decide ((opWord o).extractLsb' 12 4 ≠ 0) || decide ((opWord o).extractLsb' 32 32 ≠ 0)
def digestZero (o : IslOp) : Bool := decide ((opWord o).extractLsb' 10 54 ≠ 0)
def ladderZero (o : IslOp) : Bool := decide ((opWord o).extractLsb' 57 7 ≠ 0)

/-- The operation `o` of unit `u` ends with this code and these results, in the state `s1`; operations behind it whose
OP is unassigned end with it. -/
def islEnds (u : Nat) (o : IslOp) (r : Nat × SMap Cap × State) : Out := .next (islSweep (islFinish r.2.2 u o r.1 r.2.1) u)

/-- A row of a unit: the operation at the head of its queue with this OP ends with WIPED when a wipe met it, with BAD_OP
when bits that must be zero are not, and otherwise as `out` says. -/
def IslRow (i : Instr) (u op : Nat) (zero : IslOp → Bool) (out : State → IslOp → Nat × SMap Cap × State) : Prop :=
  ∀ (s : State) (o : IslOp) (q : List IslOp), islQueue s u = o :: q → opCode o = op →
    (o.wiped = true → exec i s = islEnds u o (if u = 0 then 0x19 else 0x16, [], s)) ∧
    (o.wiped = false → islHeld s u = false → zero o = true → exec i s = islEnds u o (if u = 0 then 0x17 else 0x10, [], s)) ∧
    (o.wiped = false → islHeld s u = false → zero o = false → exec i s = islEnds u o (out s o))

/-- A wipe in progress holds an operation that it has not met (R342). -/
def IslHolds (i : Instr) (u op : Nat) : Prop :=
  ∀ (s : State) (o : IslOp) (q : List IslOp), islQueue s u = o :: q → opCode o = op → o.wiped = false →
    rbit s (pg .lct + 0x118) 8 = true → exec i s = .next s

/-- A capability with its OTYPE or its COLOUR replaced. -/
def withType (c : Cap) (t : BitVec 4) : Cap := { c with bits := c.bits.extractLsb' 68 60 ++ t ++ c.bits.extractLsb' 0 64 }
def withColour (c : Cap) (k : BitVec 4) : Cap := { c with bits := c.bits.extractLsb' 72 56 ++ k ++ c.bits.extractLsb' 0 68 }

/-- The capability `a` authorises an operation of the seal unit on the type that is its CURSOR (R23, R32). -/
def sealsType (a : Cap) (right : Nat) : Bool :=
  a.tag && decide (capOtype a = 0) && capHas a right && decide (capBase a ≤ (capCursor a : Int)) &&
    decide ((capCursor a : Int) + 1 ≤ capTop a)

/-- The writ of R37: the capability, the tenant, its epoch, and the MAC. -/
def writBytes (key : List Byte) (c : Cap) (tenant epoch : Nat) : List Byte :=
  let body := capBytes c ++ leBytes 2 tenant ++ leBytes 6 epoch
  body ++ writMac key body

/-! ### Strokes -/

/-- A stroke of this type arrives sound at an ACTIVE port (R383): none is made bad by injection, and every field that must
be zero is zero. -/
def soundStroke (s : State) (p typ : Nat) (k : Stroke) : Bool :=
  decide (linkState s p = 4) && !injArmed s .peer p 1 && strokeOk typ k

/-- The state with an accepted stroke, `part` units of 10/256 ns after the last count of TB, behind those that wait to be
handled; the buffer of an MCPL is free at once. -/
def queued (s : State) (p typ : Nat) (k : Stroke) (part : Nat) : State :=
  let t := accepted (rxHead s p k) p
  let t := if typ = 0x12 then freeBuf t p 0 else t
  let x := peerAt t p
  setPeer t p { x with inq := x.inq ++ [{ typ := typ, stroke := k, stamp := stamp t + wd part, auth := none }] }

/-- A sequenced row (R383, R385): a sound stroke with the SEQ awaited is accepted, and the strokes that wait are handled;
one with another SEQ is discarded and a NAK asked for; a bad one is discarded and counted, as is one on which the armed
injection point fires (R438). -/
def SeqRow (i : BitVec 1 → Stroke → Instr) (typ part : Nat) : Prop :=
  ∀ (s : State) (p : BitVec 1) (k : Stroke),
    (soundStroke s p.toNat typ k = true → k.seq = (peerAt s p.toNat).expect →
      exec (i p k) s = .next (pump (peerWork (queued s p.toNat typ k part) p.toNat) p.toNat)) ∧
    (soundStroke s p.toNat typ k = true → k.seq ≠ (peerAt s p.toNat).expect →
      exec (i p k) s = .next (pump (sendNak (rxHead s p.toNat k) p.toNat) p.toNat)) ∧
    (linkState s p.toNat = 4 → injArmed s .peer p.toNat 1 = false → strokeOk typ k = false →
      exec (i p k) s = .next (strokeDrop s p.toNat false)) ∧
    (2 ≤ linkState s p.toNat → injArmed s .peer p.toNat 1 = true →
      exec (i p k) s = .next (strokeDrop (injFire s .peer p.toNat) p.toNat true))

/-- How a stroke of this type that waits alone is handled (R388): it frees its buffer once it is done with, or waits on.
Where its own write took the link down (R389), nothing of it is left to handle, and an MWR that was to wait is a posted
request that is lost (R394). -/
def Handled (typ lane : Nat) (handle : State → Nat → InStroke → Option InStroke × State) : Prop :=
  ∀ (s : State) (p : Nat) (e : InStroke), (peerAt s p).inq = [e] → e.typ = typ →
    let r := handle (setPeer s p { peerAt s p with inq := [] }) p e
    (linkState r.2 p = 4 →
      peerWork s p =
        match r with
        | (none, t) =>
          let u := if typ = 0x12 then t else freeBuf t p lane
          setPeer u p { peerAt u p with inq := [] }
        | (some e', t) => setPeer t p { peerAt t p with inq := [e'] }) ∧
    (linkState r.2 p ≠ 4 →
      peerWork s p = if r.1.isSome ∧ typ = 0x10 then rsatF r.2 (pg .peer p + 0x110) 63 42 1 else r.2)

/-! ### Values of the FP formats, as R121 and R127 to R133 write them -/

/-- The fraction and exponent widths of binary64, or of binary32. -/
def fracW (dbl : Bool) : Nat := if dbl then 52 else 23
def expW (dbl : Bool) : Nat := if dbl then 11 else 8

/-- The fields of the bits `v` of a number. -/
def fpFrac (dbl : Bool) (v : Nat) : Nat := v % 2 ^ fracW dbl
def fpExp (dbl : Bool) (v : Nat) : Nat := v / 2 ^ fracW dbl % 2 ^ expW dbl
def fpNeg (dbl : Bool) (v : Nat) : Bool := v.testBit (fracW dbl + expW dbl)

/-- What the bits stand for: a finite number, an infinity, a NaN, a signalling NaN, a subnormal number or a zero. -/
def fpFin (dbl : Bool) (v : Nat) : Bool := decide (fpExp dbl v ≠ 2 ^ expW dbl - 1)
def fpIsInf (dbl : Bool) (v : Nat) : Bool := !fpFin dbl v && decide (fpFrac dbl v = 0)
def fpIsNan (dbl : Bool) (v : Nat) : Bool := !fpFin dbl v && decide (fpFrac dbl v ≠ 0)
def fpIsSnan (dbl : Bool) (v : Nat) : Bool := fpIsNan dbl v && !v.testBit (fracW dbl - 1)
def fpSubn (dbl : Bool) (v : Nat) : Bool := decide (fpExp dbl v = 0)

/-- The bits of an infinity, of the largest finite number, of a zero, and of the canonical NaN of R128. -/
def fpBits (dbl neg : Bool) (low : Nat) : Nat := b2n neg * 2 ^ (fracW dbl + expW dbl) + low
def infBits (dbl neg : Bool) : Nat := fpBits dbl neg ((2 ^ expW dbl - 1) * 2 ^ fracW dbl)
def maxBits (dbl neg : Bool) : Nat := fpBits dbl neg ((2 ^ expW dbl - 1) * 2 ^ fracW dbl - 1)
def nanBits (dbl : Bool) : Nat := if dbl then 0x7FF8000000000000 else 0x7FC00000

/-- A finite number as a multiple of the smallest positive subnormal, which is 2 to the power of minus `unitExp`. -/
def fpUnits (dbl : Bool) (v : Nat) : Int :=
  let m : Nat := if fpExp dbl v = 0 then fpFrac dbl v else (fpFrac dbl v + 2 ^ fracW dbl) * 2 ^ (fpExp dbl v - 1)
  if fpNeg dbl v then -(m : Int) else m
def unitExp (dbl : Bool) : Nat := 2 ^ (expW dbl - 1) - 2 + fracW dbl

/-- Of the numbers `y` and `z`, the rounding mode prefers `y` for the exact value n / d (R125); `even` says that the
significand of `y` is even. -/
def Prefers (rm : Nat) (n : Int) (d : Nat) (y z : Int) (even : Bool) : Prop :=
  let down := y * d ≤ n ∧ (z * d ≤ n → z ≤ y)
  let up := n ≤ y * d ∧ (n ≤ z * d → y ≤ z)
  let near := (n - y * d).natAbs ≤ (n - z * d).natAbs
  let tie := (n - y * d).natAbs = (n - z * d).natAbs
  match rm with
  | 1 => if 0 ≤ n then down else up
  | 2 => down
  | 3 => up
  | 4 => near ∧ (tie → z.natAbs ≤ y.natAbs)
  | _ => near ∧ (tie → z = y ∨ even = true)

/-- The mode rounds the exact value away from zero. -/
def roundsAway (rm : Nat) (n : Int) : Bool := (decide (rm = 3) && decide (0 < n)) || (decide (rm = 2) && decide (n < 0))

/-- The exact value n / d, not zero and in units of the smallest subnormal, rounded once to the format (R127): the result
and its flags. Past the largest number it overflows, to an infinity or to that number as the mode says; it is tiny when it is
less than the least normal number after rounding. -/
def Rounded (dbl : Bool) (rm : Nat) (n : Int) (d : Nat) (r : FpRes) : Prop :=
  let near := decide (rm = 0) || decide (rm = 4)
  let away := roundsAway rm n
  let big := (fpUnits dbl (maxBits dbl false)).natAbs
  let step := 2 ^ (2 ^ expW dbl - 3)
  let least := 2 ^ fracW dbl
  let beyond := if near then (2 * big + step) * d ≤ 2 * n.natAbs
    else if away then big * d < n.natAbs else (big + step) * d ≤ n.natAbs
  if beyond then r = { val := if near || away then infBits dbl (decide (n < 0)) else maxBits dbl (decide (n < 0)), flags := 5 }
  else
    let y := fpUnits dbl r.val
    r.val < 2 ^ (fracW dbl + expW dbl + 1) ∧ fpFin dbl r.val = true ∧ fpNeg dbl r.val = decide (n < 0) ∧
      (∀ z : Nat, fpFin dbl z = true → Prefers rm n d y (fpUnits dbl z) (decide (r.val % 2 = 0))) ∧
      r.flags = (if y * d = n then 0
        else if y.natAbs < least then 3
        else if y.natAbs = least ∧ ((near ∧ 4 * n.natAbs < (4 * least - 1) * d) ∨ (away ∧ 2 * n.natAbs ≤ (2 * least - 1) * d)) then 3
        else 1)

/-- Of the numbers `y` and `z`, neither of them negative, the rounding mode prefers `y` for the square root of `n`. -/
def PrefersRoot (rm : Nat) (n y z : Int) : Prop :=
  if rm = 1 ∨ rm = 2 then y * y ≤ n ∧ (z * z ≤ n → z ≤ y)
  else if rm = 3 then n ≤ y * y ∧ (n ≤ z * z → y ≤ z)
  else (y < z → 4 * n ≤ (y + z) * (y + z)) ∧ (z < y → (y + z) * (y + z) ≤ 4 * n)

/-- The square root of the exact value `n`, above zero and in squares of units, rounded once: the result and its flags. -/
def RootRounded (dbl : Bool) (rm : Nat) (n : Int) (r : FpRes) : Prop :=
  let y := fpUnits dbl r.val
  r.val < 2 ^ (fracW dbl + expW dbl) ∧ fpFin dbl r.val = true ∧ r.flags = (if y * y = n then 0 else 1) ∧
    ∀ z : Nat, fpFin dbl z = true → 0 ≤ fpUnits dbl z → PrefersRoot rm n y (fpUnits dbl z)

/-- The place of a number or an infinity in the order of the format. -/
def fpPlace (dbl : Bool) (v : Nat) : Int :=
  if fpIsInf dbl v then (if fpNeg dbl v then -(2 ^ 3000) else 2 ^ 3000) else fpUnits dbl v

/-! ### Results of the integer groups, as R74 and R75 write them -/

/-- A result whose flags are N and Z alone. -/
def nz (f : Flags) (r : Word) : Word × Flags := (r, { f with n := r.getMsbD 0, z := r == 0 })

/-- An add-type result: the sum of R75 on 65 bits. -/
def sum65 (a y : Word) (cin : Bool) : Word × Flags :=
  let s : BitVec 65 := a.zeroExtend 65 + y.zeroExtend 65 + (if cin then 1 else 0)
  let r : Word := s.truncate 64
  (r, { n := r.getMsbD 0, z := r == 0, c := s.getMsbD 0, v := ((a ^^^ r) &&& (y ^^^ r)).getMsbD 0 })

/-- The registers after an ALU instruction: the result, and the flags when S is 1. -/
def aluOut (c : Ctx) (rd : Reg) (sf : Bool) (r : Word × Flags) : Ctx :=
  let c := writeInt c rd r.1
  if sf then { c with flags := r.2 } else c

/-- A row of R74 with two operands. -/
def AluRow (i : CtxId → Bool → Reg → Reg → Reg → Instr) (func : Nat) (f : Flags → Word → Word → Word × Flags) : Prop :=
  ∀ (s : State) (cx : CtxId) (sf : Bool) (rd a b : Reg),
    canIssue s cx { word := wReg 0x01 rd a b (b2n sf * 0x400 + func), rep := 2, reads := [a, b], writes := [rd] } = true →
    Runs (i cx sf rd a b) s cx fun c => aluOut c rd sf (f c.flags (readInt c a) (readInt c b))

/-- A row of R74 with one operand. -/
def AluRow1 (i : CtxId → Bool → Reg → Reg → Instr) (func : Nat) (f : Word → Word) : Prop :=
  ∀ (s : State) (cx : CtxId) (sf : Bool) (rd a : Reg),
    canIssue s cx { word := wReg 0x01 rd a 0 (b2n sf * 0x400 + func), rep := 2, reads := [a], writes := [rd] } = true →
    Runs (i cx sf rd a) s cx fun c => aluOut c rd sf (nz c.flags (f (readInt c a)))

/-- A row of R76; a shift amount of more than six bits makes the encoding illegal. -/
def AluRowI (i : CtxId → Bool → Reg → Reg → BitVec 11 → Instr) (sub : Nat) (shift : Bool)
    (f : Flags → Word → Word → Word × Flags) : Prop :=
  ∀ (s : State) (cx : CtxId) (sf : Bool) (rd a : Reg) (imm : BitVec 11),
    canIssue s cx
      { word := wImm 0x02 rd a (b2n sf * 16 + sub) imm, bad := shift && decide (64 ≤ imm.toNat), rep := 2,
        reads := [a], writes := [rd] } = true →
    Runs (i cx sf rd a imm) s cx fun c => aluOut c rd sf (f c.flags (readInt c a) (imm.signExtend 64))

/-- A row of R78 that multiplies. -/
def MulRow (i : CtxId → Reg → Reg → Reg → Instr) (func : Nat) (f : Word → Word → Word) : Prop :=
  ∀ (s : State) (cx : CtxId) (rd a b : Reg),
    canIssue s cx { word := wReg 0x05 rd a b func, rep := 2, reads := [a, b], writes := [rd] } = true →
    Runs (i cx rd a b) s cx fun c => writeInt c rd (f (readInt c a) (readInt c b))

/-- A row of R79: the fault kind, or the value that the divider will deliver into the bank register of `rd`. -/
def DivRow (i : CtxId → Reg → Reg → Reg → Instr) (func : Nat) (f : Ctx → Word → Word → Except Nat Word) : Prop :=
  ∀ (s : State) (cx : CtxId) (rd a b : Reg),
    canIssue s cx { word := wReg 0x05 rd a b func, rep := 1, reads := [a, b], writes := [rd] } = true →
    match (cpu s cx).div, f (cpu s cx) (readInt (cpu s cx) a) (readInt (cpu s cx) b) with
    | some _, _ => exec (i cx rd a b) s = .next (stalled cx (begun s cx) .divider)
    | none, .error k => exec (i cx rd a b) s = .next (trapped cx (begun s cx) { kind := k } (wReg 0x05 rd a b func))
    | none, .ok v => Runs (i cx rd a b) s cx fun c => { c with div := some ((regKey c.cwp rd.toNat).getD 0, v) }

/-! ### The integer rows together -/

/-- An integer row as it issues: its context, its instruction, and whether it writes the flags. -/
structure IntRow where
  cx : CtxId
  ins : Ins
  sf : Bool
  deriving Repr

/-- R74, R76: an ALU row of two registers, of one, and with an immediate. -/
def aluIns (cx : CtxId) (sf : Bool) (rd a b : Reg) (func : Nat) : IntRow :=
  { cx := cx, sf := sf
    ins := { word := wReg 0x01 rd a b (b2n sf * 0x400 + func), rep := 2, reads := [a, b], writes := [rd] } }
def aluIns1 (cx : CtxId) (sf : Bool) (rd a : Reg) (func : Nat) : IntRow :=
  { cx := cx, sf := sf, ins := { word := wReg 0x01 rd a 0 (b2n sf * 0x400 + func), rep := 2, reads := [a], writes := [rd] } }
def aluInsI (cx : CtxId) (sf : Bool) (rd a : Reg) (imm : BitVec 11) (sub : Nat) (shift : Bool) : IntRow :=
  { cx := cx, sf := sf
    ins := { word := wImm 0x02 rd a (b2n sf * 16 + sub) imm, bad := shift && decide (64 ≤ imm.toNat), rep := 2
             reads := [a], writes := [rd] } }

/-- R78: a multiply. -/
def mulIns (cx : CtxId) (rd a b : Reg) (func : Nat) : IntRow :=
  { cx := cx, sf := false, ins := { word := wReg 0x05 rd a b func, rep := 2, reads := [a, b], writes := [rd] } }

/-- R70, R74 to R80, R107: the rows that only compute in the integer registers and never fault on their operands. -/
def intRow : Instr → Option IntRow
  | .add cx sf rd a b => some (aluIns cx sf rd a b 0x00)
  | .addc cx sf rd a b => some (aluIns cx sf rd a b 0x01)
  | .sub cx sf rd a b => some (aluIns cx sf rd a b 0x02)
  | .subc cx sf rd a b => some (aluIns cx sf rd a b 0x03)
  | .and cx sf rd a b => some (aluIns cx sf rd a b 0x04)
  | .or cx sf rd a b => some (aluIns cx sf rd a b 0x05)
  | .xor cx sf rd a b => some (aluIns cx sf rd a b 0x06)
  | .andn cx sf rd a b => some (aluIns cx sf rd a b 0x07)
  | .shl cx sf rd a b => some (aluIns cx sf rd a b 0x08)
  | .shr cx sf rd a b => some (aluIns cx sf rd a b 0x09)
  | .sar cx sf rd a b => some (aluIns cx sf rd a b 0x0a)
  | .ror cx sf rd a b => some (aluIns cx sf rd a b 0x0b)
  | .min cx sf rd a b => some (aluIns cx sf rd a b 0x0c)
  | .max cx sf rd a b => some (aluIns cx sf rd a b 0x0d)
  | .minu cx sf rd a b => some (aluIns cx sf rd a b 0x0e)
  | .maxu cx sf rd a b => some (aluIns cx sf rd a b 0x0f)
  | .slt cx sf rd a b => some (aluIns cx sf rd a b 0x19)
  | .sltu cx sf rd a b => some (aluIns cx sf rd a b 0x1a)
  | .clz cx sf rd a => some (aluIns1 cx sf rd a 0x10)
  | .ctz cx sf rd a => some (aluIns1 cx sf rd a 0x11)
  | .popc cx sf rd a => some (aluIns1 cx sf rd a 0x12)
  | .bswap cx sf rd a => some (aluIns1 cx sf rd a 0x13)
  | .sextb cx sf rd a => some (aluIns1 cx sf rd a 0x14)
  | .sexth cx sf rd a => some (aluIns1 cx sf rd a 0x15)
  | .sextw cx sf rd a => some (aluIns1 cx sf rd a 0x16)
  | .zexth cx sf rd a => some (aluIns1 cx sf rd a 0x17)
  | .zextw cx sf rd a => some (aluIns1 cx sf rd a 0x18)
  | .addi cx sf rd a imm => some (aluInsI cx sf rd a imm 0 false)
  | .subi cx sf rd a imm => some (aluInsI cx sf rd a imm 1 false)
  | .andi cx sf rd a imm => some (aluInsI cx sf rd a imm 2 false)
  | .ori cx sf rd a imm => some (aluInsI cx sf rd a imm 3 false)
  | .xori cx sf rd a imm => some (aluInsI cx sf rd a imm 4 false)
  | .shli cx sf rd a imm => some (aluInsI cx sf rd a imm 5 true)
  | .shri cx sf rd a imm => some (aluInsI cx sf rd a imm 6 true)
  | .sari cx sf rd a imm => some (aluInsI cx sf rd a imm 7 true)
  | .rori cx sf rd a imm => some (aluInsI cx sf rd a imm 8 true)
  | .slti cx sf rd a imm => some (aluInsI cx sf rd a imm 9 false)
  | .sltiu cx sf rd a imm => some (aluInsI cx sf rd a imm 10 false)
  | .movi cx rd imm => some { cx := cx, sf := false, ins := { word := wWide 0x03 rd imm.toNat, writes := [rd] } }
  | .movsh cx rd imm =>
    some { cx := cx, sf := false, ins := { word := wWide 0x04 rd imm.toNat, reads := [rd], writes := [rd] } }
  | .mul cx rd a b => some (mulIns cx rd a b 0)
  | .mulhu cx rd a b => some (mulIns cx rd a b 1)
  | .mulhs cx rd a b => some (mulIns cx rd a b 2)
  | .dstep cx rd d => some
    { cx := cx, sf := false
      ins := { word := wReg 0x06 rd 0 d 0, bad := decide (rd.toNat % 2 = 1) || decide (rd.toNat < 8), rep := 2
               reads := [rd, rd + 1, d], writes := [rd, rd + 1] } }
  | _ => none

/-- R146: the fields of a fault record that say whose fault it is and what it was. -/
def Records (s : State) (cx : CtxId) (f : FaultInfo) (w : Word) (esc : Bool) (r : FaultRec) : Prop :=
  let c := ctxAt s cx
  r.cx = cxLow cx ∧ r.fe1 = f.addr.getD (wd (pcOf c)) ∧ r.fe2 = c.pcc ∧ r.fe3 = wd f.detail ∧ r.fe4 = w ∧ r.fe5 = s.tb ∧
    r.fe6 = alertWord c ∧ r.fe7 = modeWord c.mode ∧
    (f.kind < 256 → fld r.fe0 7 0 = f.kind) ∧
    (f.kind < 256 → f.half < 4 → f.stage < 4 → f.level < 4 → f.xkind < 8 →
      bitAt r.fe0 8 = c.shadow.isSome ∧ bitAt r.fe0 9 = f.split ∧ fld r.fe0 11 10 = f.half ∧ fld r.fe0 13 12 = f.stage ∧
      fld r.fe0 15 14 = f.level ∧ fld r.fe0 18 16 = f.xkind ∧ bitAt r.fe0 19 = esc ∧ bitAt r.fe0 20 = f.fetch ∧
      fld r.fe0 27 24 = (cxLow cx).toNat ∧ bitAt r.fe0 28 = c.cust ∧ bitAt r.fe0 29 = c.super ∧
      (f.reg < 32 → fld r.fe0 36 32 = f.reg))

end Sys2Proof
end

