-- ==== Sys2Proof/Certificates/Slice0/Obligations.lean ====
section
/-! DEFINITION. The statements about the model. -/

open Sys2Proof Sys2Proof.Machine

/-- R74, R75: every row of the ALU group, of two operands or of one, executes and writes the result and, when S is 1, the
flags of its row, and nothing else of the context. -/
def Obligations.AluRegisterResults : Prop :=
  AluRow .add 0x00 (fun _ x y => (x + y, (sum65 x y false).2)) ∧
  AluRow .addc 0x01 (fun f x y => (x + y + (if f.c then 1 else 0), (sum65 x y f.c).2)) ∧
  AluRow .sub 0x02 (fun _ x y => (x - y, (sum65 x (~~~y) true).2)) ∧
  AluRow .subc 0x03 (fun f x y => (x - y - (if f.c then 0 else 1), (sum65 x (~~~y) f.c).2)) ∧
  AluRow .and 0x04 (fun f x y => nz f (x &&& y)) ∧
  AluRow .or 0x05 (fun f x y => nz f (x ||| y)) ∧
  AluRow .xor 0x06 (fun f x y => nz f (x ^^^ y)) ∧
  AluRow .andn 0x07 (fun f x y => nz f (x &&& ~~~y)) ∧
  AluRow .shl 0x08 (fun f x y => nz f (x <<< (y &&& 63))) ∧
  AluRow .shr 0x09 (fun f x y => nz f (x >>> (y &&& 63))) ∧
  AluRow .sar 0x0A (fun f x y => nz f (x.sshiftRight' (y &&& 63))) ∧
  AluRow .ror 0x0B (fun f x y => nz f ((x >>> (y &&& 63)) ||| (x <<< ((64 - (y &&& 63)) &&& 63)))) ∧
  AluRow .min 0x0C (fun f x y => nz f (if x.toInt < y.toInt then x else y)) ∧
  AluRow .max 0x0D (fun f x y => nz f (if x.toInt < y.toInt then y else x)) ∧
  AluRow .minu 0x0E (fun f x y => nz f (if x.toNat < y.toNat then x else y)) ∧
  AluRow .maxu 0x0F (fun f x y => nz f (if x.toNat < y.toNat then y else x)) ∧
  AluRow .slt 0x19 (fun f x y => nz f (if x.toInt < y.toInt then 1 else 0)) ∧
  AluRow .sltu 0x1A (fun f x y => nz f (if x.toNat < y.toNat then 1 else 0)) ∧
  AluRow1 .clz 0x10 (fun x => wd ((List.range 64).takeWhile fun i => !x.getMsbD i).length) ∧
  AluRow1 .ctz 0x11 (fun x => wd ((List.range 64).takeWhile fun i => !x.getLsbD i).length) ∧
  AluRow1 .popc 0x12 (fun x => wd ((List.range 64).filter fun i => x.getLsbD i).length) ∧
  AluRow1 .bswap 0x13 (fun x =>
    x.extractLsb' 0 8 ++ x.extractLsb' 8 8 ++ x.extractLsb' 16 8 ++ x.extractLsb' 24 8 ++
      x.extractLsb' 32 8 ++ x.extractLsb' 40 8 ++ x.extractLsb' 48 8 ++ x.extractLsb' 56 8) ∧
  AluRow1 .sextb 0x14 (fun x => (x.truncate 8).signExtend 64) ∧
  AluRow1 .sexth 0x15 (fun x => (x.truncate 16).signExtend 64) ∧
  AluRow1 .sextw 0x16 (fun x => (x.truncate 32).signExtend 64) ∧
  AluRow1 .zexth 0x17 (fun x => (x.truncate 16).zeroExtend 64) ∧
  AluRow1 .zextw 0x18 (fun x => (x.truncate 32).zeroExtend 64)

/-- R76: every row of the ALU group with an immediate, imm11 sign-extended; R77: MOVI and MOVSH. -/
def Obligations.AluImmediateResults : Prop :=
  AluRowI .addi 0 false (fun _ x y => (x + y, (sum65 x y false).2)) ∧
  AluRowI .subi 1 false (fun _ x y => (x - y, (sum65 x (~~~y) true).2)) ∧
  AluRowI .andi 2 false (fun f x y => nz f (x &&& y)) ∧
  AluRowI .ori 3 false (fun f x y => nz f (x ||| y)) ∧
  AluRowI .xori 4 false (fun f x y => nz f (x ^^^ y)) ∧
  AluRowI .shli 5 true (fun f x y => nz f (x <<< y)) ∧
  AluRowI .shri 6 true (fun f x y => nz f (x >>> y)) ∧
  AluRowI .sari 7 true (fun f x y => nz f (x.sshiftRight' y)) ∧
  AluRowI .rori 8 true (fun f x y => nz f (x.rotateRight y.toNat)) ∧
  AluRowI .slti 9 false (fun f x y => nz f (if x.toInt < y.toInt then 1 else 0)) ∧
  AluRowI .sltiu 10 false (fun f x y => nz f (if x.toNat < y.toNat then 1 else 0)) ∧
  (∀ (s : State) (cx : CtxId) (rd : Reg) (imm : BitVec 21),
    canIssue s cx { word := wWide 0x03 rd imm.toNat, writes := [rd] } = true →
    Runs (.movi cx rd imm) s cx fun c => writeInt c rd (imm.signExtend 64)) ∧
  (∀ (s : State) (cx : CtxId) (rd : Reg) (imm : BitVec 21),
    canIssue s cx { word := wWide 0x04 rd imm.toNat, reads := [rd], writes := [rd] } = true →
    Runs (.movsh cx rd imm) s cx fun c => writeInt c rd ((readInt c rd).truncate 43 ++ imm))

/-- R78, R79: the multiplies write their product; a divide faults DIVZERO or OVERFLOW under STATUS, waits for the
divider, or gives the divider the value of R79 for its destination; DIVIDE_RESULT writes that value there. R80: DSTEP
shifts the pair rd, rd + 1 left and subtracts the divisor when it fits, setting the quotient bit. -/
def Obligations.MultiplyDivideResults : Prop :=
  MulRow .mul 0 (fun x y => x * y) ∧
  MulRow .mulhu 1 (fun x y => ((x.zeroExtend 128 * y.zeroExtend 128) >>> 64).truncate 64) ∧
  MulRow .mulhs 2 (fun x y => ((x.signExtend 128 * y.signExtend 128) >>> 64).truncate 64) ∧
  DivRow .divu 4 (fun c x y =>
    if y = 0 then (if c.dze then .error 0x10 else .ok 0xFFFFFFFFFFFFFFFF) else .ok (wd (x.toNat / y.toNat))) ∧
  DivRow .div 5 (fun c x y =>
    if y = 0 then (if c.dze then .error 0x10 else .ok 0xFFFFFFFFFFFFFFFF)
    else if x = 0x8000000000000000 ∧ y = 0xFFFFFFFFFFFFFFFF then (if c.ove then .error 0x11 else .ok x)
    else .ok (BitVec.ofInt 64 (x.toInt.tdiv y.toInt))) ∧
  DivRow .remu 6 (fun c x y =>
    if y = 0 then (if c.dze then .error 0x10 else .ok x) else .ok (wd (x.toNat % y.toNat))) ∧
  DivRow .rem 7 (fun c x y =>
    if y = 0 then (if c.dze then .error 0x10 else .ok x)
    else if x = 0x8000000000000000 ∧ y = 0xFFFFFFFFFFFFFFFF then (if c.ove then .error 0x11 else .ok 0)
    else .ok (BitVec.ofInt 64 (x.toInt.tmod y.toInt))) ∧
  (∀ (s : State) (cx : CtxId) (k : Nat) (v : Word), (ctxAt s cx).div = some (k, v) →
    ∃ t, exec (.divideResult cx) s = .next t ∧ (ctxAt t cx).div = none ∧
      (k ≠ 0 → smGet Cap.null (ctxAt t cx).bank k = intCap v) ∧
      (∀ j, j ≠ k → smGet Cap.null (ctxAt t cx).bank j = smGet Cap.null (ctxAt s cx).bank j) ∧ t.mem = s.mem) ∧
  (∀ (s : State) (cx : CtxId) (rd d : Reg), rd.toNat % 2 = 0 → 8 ≤ rd.toNat →
    canIssue s cx { word := wReg 0x06 rd 0 d 0, rep := 2, reads := [rd, rd + 1, d], writes := [rd, rd + 1] } = true →
    Runs (.dstep cx rd d) s cx fun c =>
      let x : BitVec 129 := (readInt c rd ++ readInt c (rd + 1) : BitVec 128).zeroExtend 129 <<< 1
      let dd := (readInt c d).zeroExtend 65
      let hi : BitVec 65 := x.extractLsb' 64 65
      let fits := decide (dd ≤ hi)
      writeInt (writeInt c rd ((if fits then hi - dd else hi).truncate 64)) (rd + 1)
        (x.extractLsb' 0 64 ||| (if fits then 1 else 0)))

/-- R82, R83: a branch that is taken goes to its target with the other effect of its row; one whose target fails the
check faults at the branch and changes nothing else; one that is not taken goes on. -/
def Obligations.BranchResults : Prop :=
  (∀ (s : State) (cx : CtxId) (imm : BitVec 26), canIssue s cx { word := wJump 0x08 imm } = true →
    let x := branchTarget (cpu s cx) imm
    match branchBad (cpu s cx) x with
    | none => exec (.b cx imm) s = .next (ranBr cx (begun s cx) x)
    | some f => Traps (.b cx imm) s cx { word := wJump 0x08 imm } f) ∧
  (∀ (s : State) (cx : CtxId) (cond : Cond) (imm : BitVec 22),
    canIssue s cx { word := wBranch 0x09 cond imm, bad := decide (cond = 15) } = true →
    let x := branchTarget (cpu s cx) imm
    match condHolds cond (cpu s cx).flags, branchBad (cpu s cx) x with
    | false, _ => exec (.bcc cx cond imm) s = .next (ran cx (begun s cx))
    | true, none => exec (.bcc cx cond imm) s = .next (ranBr cx (begun s cx) x)
    | true, some f => Traps (.bcc cx cond imm) s cx { word := wBranch 0x09 cond imm } f) ∧
  (∀ (s : State) (cx : CtxId) (cond : Cond) (a b : Reg) (imm : BitVec 11),
    canIssue s cx { word := wCmpBranch 0x0A cond a b imm, bad := decide (cond = 15), reads := [a, b] } = true →
    let f := (sum65 (readInt (cpu s cx) a) (~~~readInt (cpu s cx) b) true).2
    let x := branchTarget (cpu s cx) imm
    match condHolds cond f, branchBad (cpu s cx) x with
    | false, _ => Runs (.cbcc cx cond a b imm) s cx fun c => { c with flags := f }
    | true, none => Branches (.cbcc cx cond a b imm) s cx (fun c => { c with flags := f }) x
    | true, some g => Traps (.cbcc cx cond a b imm) s cx { word := wCmpBranch 0x0A cond a b imm } g) ∧
  (∀ (s : State) (cx : CtxId) (a : Reg), canIssue s cx { word := wReg 0x0B 0 a 0 0, reads := [a] } = true →
    match targetCheck (readReg (cpu s cx) a) with
    | none => exec (.jmp cx a) s = .next (ranTo cx (begun s cx) (targetPcc (readReg (cpu s cx) a)))
    | some k => Traps (.jmp cx a) s cx { word := wReg 0x0B 0 a 0 0 } (branchFault (readReg (cpu s cx) a) a k)) ∧
  (∀ (s : State) (cx : CtxId) (rd a : Reg),
    canIssue s cx { word := wReg 0x0B rd a 0 1, reads := [a], writes := [rd] } = true →
    match targetCheck (readReg (cpu s cx) a) with
    | none =>
      Goes (.jmpl cx rd a) s cx (fun c => writeReg c rd (pccAt c (pcOf c + 4))) (targetPcc (readReg (cpu s cx) a))
    | some k => Traps (.jmpl cx rd a) s cx { word := wReg 0x0B rd a 0 1 } (branchFault (readReg (cpu s cx) a) a k))

/-- R101, R102, R116: a window call moves the window up and leaves its link in the new l7; a return moves it down; each
of the window faults leaves everything else as it was. RETA restores FLAGS and the repeat from l6, and its checks of
DEPTH, of l6 and of l7 fault in that order (R116). -/
def Obligations.WindowCallResults : Prop :=
  (∀ (s : State) (cx : CtxId) (imm : BitVec 26), canIssue s cx { word := wJump 0x20 imm } = true →
    let x := branchTarget (cpu s cx) imm
    match branchBad (cpu s cx) x, decide ((cpu s cx).depth = 7) with
    | some f, _ => Traps (.callw cx imm) s cx { word := wJump 0x20 imm } f
    | none, true => Traps (.callw cx imm) s cx { word := wJump 0x20 imm } { kind := 0x0E }
    | none, false =>
      Branches (.callw cx imm) s cx
        (fun c => writeReg { c with cwp := (c.cwp + 1) % 8, depth := c.depth + 1 } 23 (pccAt c (pcOf c + 4))) x) ∧
  (∀ (s : State) (cx : CtxId) (a : Reg), canIssue s cx { word := wReg 0x21 0 a 0 0, reads := [a] } = true →
    match targetCheck (readReg (cpu s cx) a), decide ((cpu s cx).depth = 7) with
    | some k, _ => Traps (.callwr cx a) s cx { word := wReg 0x21 0 a 0 0 } (branchFault (readReg (cpu s cx) a) a k)
    | none, true => Traps (.callwr cx a) s cx { word := wReg 0x21 0 a 0 0 } { kind := 0x0E }
    | none, false =>
      Goes (.callwr cx a) s cx
        (fun c => writeReg { c with cwp := (c.cwp + 1) % 8, depth := c.depth + 1 } 23 (pccAt c (pcOf c + 4)))
        (targetPcc (readReg (cpu s cx) a))) ∧
  (∀ (s : State) (cx : CtxId), canIssue s cx { word := wReg 0x21 0 0 0 1, reads := [23] } = true →
    match decide ((cpu s cx).depth = 0), targetCheck (readReg (cpu s cx) 23) with
    | true, _ => Traps (.retw cx) s cx { word := wReg 0x21 0 0 0 1 } { kind := 0x0F }
    | false, some k => Traps (.retw cx) s cx { word := wReg 0x21 0 0 0 1 } (branchFault (readReg (cpu s cx) 23) 23 k)
    | false, none =>
      Goes (.retw cx) s cx (fun c => { c with cwp := (c.cwp + 7) % 8, depth := c.depth - 1 })
        (targetPcc (readReg (cpu s cx) 23))) ∧
  (∀ (s : State) (cx : CtxId), canIssue s cx { word := wReg 0x21 0 0 0 2, reads := [22, 23] } = true →
    let w := readInt (cpu s cx) 22
    let ins : Ins := { word := wReg 0x21 0 0 0 2 }
    let good : Prop := w.extractLsb' 4 27 = 0 ∧ (w.getLsbD 31 = true ↔ w.extractLsb' 32 32 ≠ 0)
    ((cpu s cx).depth = 0 → Traps (.reta cx) s cx ins { kind := 0x0F }) ∧
    ((cpu s cx).depth ≠ 0 → ¬good → Traps (.reta cx) s cx ins { kind := 0x0C }) ∧
    (∀ k, (cpu s cx).depth ≠ 0 → good → targetCheck (readReg (cpu s cx) 23) = some k →
      Traps (.reta cx) s cx ins (branchFault (readReg (cpu s cx) 23) 23 k)) ∧
    (good → (cpu s cx).depth ≠ 0 → targetCheck (readReg (cpu s cx) 23) = none →
      Goes (.reta cx) s cx
        (fun c => { c with
          cwp := (c.cwp + 7) % 8, depth := c.depth - 1, em := false, repU := false, repAct := w.getLsbD 31
          repCnt := w.extractLsb' 32 32
          flags := { n := w.getLsbD 3, z := w.getLsbD 2, c := w.getLsbD 1, v := w.getLsbD 0 } })
        (targetPcc (readReg (cpu s cx) 23))))

/-- R105, R106, R108: a repeat prefix of count 0 skips the next instruction; another one sets the repeat up, and REPU
holds the core outside deterministic mode; a count out of range faults ILLEGAL. Which queued words the skip drops, two of them
outside a mode shadow and all of them inside one, is the model's choice (assumption log 73). -/
def Obligations.RepeatResults : Prop :=
  ∀ (s : State) (cx : CtxId) (u : Bool) (a : Reg) (imm : BitVec 11),
    let ins : Ins := { word := wImm 0x24 0 a (b2n u) imm, bad := decide (a ≠ 0) && decide (imm ≠ 0), reads := [a] }
    let i : Instr := if u then .repu cx a imm else .repi cx a imm
    canIssue s cx ins = true →
    let n := if a = 0 then imm.toNat else (readInt (cpu s cx) a).toNat
    let c : Ctx := { cpu s cx with shadow := shadowNext (cpu s cx) }
    (n = 0 → exec i s = .next (rested cx (setCtx (begun s cx) cx
      (if c.shadow = none then goTo c (pccAt c (pcOf c + 8)) (c.queue.drop 2) else flushTo c (pccAt c (pcOf c + 8)))))) ∧
    (2 ^ 32 ≤ n ∨ (u = true ∧ 64 < n) → Traps i s cx ins { kind := 0x0C }) ∧
    (0 < n → n < 2 ^ 32 → (u = true → n ≤ 64) →
      exec i s = .next (rested cx
        (let t := setCtx (begun s cx) cx
           { goTo c (pccAt c (pcOf c + 4)) c.queue.tail with repAct := true, repCnt := BitVec.ofNat 32 n, repU := u }
         if u && !rbit s (corePg (coreOf cx) 0x100) 1 then
           setCore t (coreOf cx) { coreAt s (coreOf cx) with hold := some (cxLow cx) }
         else t)))

/-- R51, R53, R84 to R86: the loads, what a load reads, and LOAD_RETURN, which writes the value of an outstanding load to its
register. A load takes the bytes of the youngest buffered store of its context that overlaps and covers it, waits for one that
does not cover it, and otherwise reads the line that its level-1 cache holds, or, where the address is not cacheable, the
bytes of memory in order; a poisoned granule there faults POISON. That a forwarded load takes the store's own data whatever
poison its granule holds in memory is the model's choice (assumption log 76). -/
def Obligations.LoadResults : Prop :=
  LoadRow .ldb 0 1 (fun _ bs _ => intCap (wd (leNat bs))) ∧
  LoadRow .ldh 1 2 (fun _ bs _ => intCap (wd (leNat bs))) ∧
  LoadRow .ldw 2 4 (fun _ bs _ => intCap (wd (leNat bs))) ∧
  LoadRow .ldd 3 8 (fun _ bs _ => intCap (wd (leNat bs))) ∧
  LoadRow .ldbs 4 1 (fun _ bs _ => intCap ((BitVec.ofNat 8 (leNat bs)).signExtend 64)) ∧
  LoadRow .ldhs 5 2 (fun _ bs _ => intCap ((BitVec.ofNat 16 (leNat bs)).signExtend 64)) ∧
  LoadRow .ldws 6 4 (fun _ bs _ => intCap ((BitVec.ofNat 32 (leNat bs)).signExtend 64)) ∧
  (∀ (s : State) (cx : CtxId) (rd a : Reg) (off : MemOff) (l : Loaded) (t : State),
    let w := ldWord 7 rd a off
    let x := accessAt (cpu s cx) 16 a off
    let auth := readReg (cpu s cx) a
    canIssue s cx { word := w, rep := 1, reads := a :: offRegs off, writes := [rd] } = true →
    injArmed s .core (coreOf cx).toNat 1 = false → (cpu s cx).loads.length < 4 →
    capCheck auth [rLoad] true true x.toNat 16 = none →
    loadVa (access s cx a w) x.toNat 16 (begun s cx) = .ok (l, t) →
    exec (.ldc cx rd a off) s = .next (ran cx (withLoad t cx
      { dest := (regKey (cpu s cx).cwp rd.toNat).getD 0, val := loadCapResult auth (capOfBytes l.bytes l.tag)
        cached := l.cached, xl := l.ent, gates := l.gates, old := [] }))) ∧
  (∀ (a : CoreAcc) (x n : Nat) (s t : State) (p : Piece), xlateAcc a needR x n s = .ok ([p], t) →
    let met := (ctxAt t a.cx).stores.filter fun e => decide (e.pa < p.pa + p.n) && decide (p.pa < e.pa + e.data.length)
    (∀ e, met.getLast? = some e →
      if e.pa ≤ p.pa ∧ p.pa + p.n ≤ e.pa + e.data.length then
        ∃ l, loadVa a x n s = .ok (l, t) ∧ l.bytes = (e.data.drop (p.pa - e.pa)).take p.n ∧ l.tag = e.tag
      else loadVa a x n s = .error (.stall t .store)) ∧
    (∀ c, met = [] → cacheable t (coreOf a.cx) p.pa p.uc = true →
      findLine (coreAt t (coreOf a.cx)).l1d (p.pa / 64 * 64) = some c → c.err = [] → c.data.bytes.length = 64 →
      p.pa % 64 + p.n ≤ 64 →
      granted c (ctxClass a.c) (BitVec.ofNat 4 (capColour a.cap)) { r := true, w := false, x := false } = true →
      if (grans p.pa p.n).any fun g => c.data.poison.getD (g % 4) false then
        loadVa a x n s = .error (.fault t { kind := 0x0A, addr := some (wd p.va), reg := a.reg })
      else ∃ l, loadVa a x n s = .ok (l, t) ∧ l.bytes = (c.data.bytes.drop (p.pa % 64)).take p.n)) ∧
  (∀ (a : CoreAcc) (x n : Nat) (s t : State) (ps : List Piece), xlateAcc a needR x n s = .ok (ps, t) →
    (∀ p ∈ ps, plainRead a t p) →
    (∀ e ∈ (ctxAt t a.cx).stores, ∀ p ∈ ps, e.pa + e.data.length ≤ p.pa ∨ p.pa + p.n ≤ e.pa) →
    ((∀ p ∈ ps, poisoned t p = false) →
      ∃ l, loadVa a x n s = .ok (l, t) ∧
        l.bytes = ps.flatMap (fun p => (List.range p.n).map fun i => memByte t.mem (p.pa + i)) ∧
        ∀ p, ps = [p] → l.tag = memMeta t.mem (2 * (p.pa / 16))) ∧
    (∀ p, ps.find? (poisoned t) = some p →
      ∃ f : FaultInfo, loadVa a x n s = .error (.fault t f) ∧ f.kind = 0x0A ∧ f.addr = some (wd p.va) ∧ f.reg = a.reg)) ∧
  (∀ (s : State) (cx : CtxId) (n : Nat) (l : Load), (ctxAt s cx).loads[n]? = some l → l.dest < 256 →
    ∃ t, exec (.loadReturn cx n) s = .next t ∧ t.mem = s.mem ∧
      (ctxAt t cx).loads = (ctxAt s cx).loads.eraseIdx n ∧
      (l.dest ≠ 0 → smGet Cap.null (ctxAt t cx).bank l.dest = l.val) ∧
      (∀ k, k ≠ l.dest → smGet Cap.null (ctxAt t cx).bank k = smGet Cap.null (ctxAt s cx).bank k) ∧
      (∀ y, y ≠ cx → ctxAt t y = ctxAt s y))

/-- R27, R52, R84, R85: the stores enter the store buffer in program order; an entry that is not the cluster cache's
and that a memory target takes drains into memory, which it changes in its own bytes alone; R55, R57: one that the cluster
cache holds drains into its line, and leaves every other core of the cluster without its copy. R87: the atomics, on
scratchpad with the store buffer empty. The moment at which a store is judged (assumption log 18) and the order of an
atomic's faults (assumption log 78) are the model's choice. -/
def Obligations.StoreAndAtomicResults : Prop :=
  StoreRow .stb 0 1 ∧ StoreRow .sth 1 2 ∧ StoreRow .stw 2 4 ∧ StoreRow .std 3 8 ∧ StoreRow .stc 7 16 ∧
  (∀ (s : State) (cx : CtxId) (e : StoreEnt) (es : List StoreEnt),
    (ctxAt s cx).stores = e :: es → e.cached = false → e.data ≠ [] → s.mem.err = [] → s.power.halted = false →
    (isDram e.pa = true ∧ memOn s = true ∨ ∃ b, targetOf e.pa = .spad b ∧ bankOn s b = true) →
    ∃ t, exec (.storeBufferDrain cx) s = .next t ∧ (ctxAt t cx).stores = es ∧
      t.rings = (softWrite s e.pa e.data.length).rings ∧
      (∀ n, n < e.data.length → memByte t.mem (e.pa + n) = e.data.getD n 0) ∧
      (∀ a, a < e.pa ∨ e.pa + e.data.length ≤ a → memByte t.mem a = memByte s.mem a) ∧
      (∀ k, smGet Cap.null (ctxAt t cx).bank k = smGet Cap.null (ctxAt s cx).bank k)) ∧
  (∀ (s : State) (cx : CtxId) (e : StoreEnt) (es : List StoreEnt) (l : CLine),
    let cl := clusterOf (coreOf cx)
    let pa := e.pa / 64 * 64
    (ctxAt s cx).stores = e :: es → e.cached = true → s.power.halted = false →
    findLine (clusterAt s cl).lines pa = some l → l.err = [] → l.data.bytes.length = 64 → e.pa % 64 + e.data.length ≤ 64 →
    (∀ o, findLine (coreAt s (coreOf cx)).l1d pa = some o → o.err = []) →
    ∃ t l', exec (.storeBufferDrain cx) s = .next t ∧ (ctxAt t cx).stores = es ∧ t.mem = s.mem ∧
      findLine (clusterAt t cl).lines pa = some l' ∧ l'.dirty = true ∧
      (∀ n, l'.data.bytes.getD n 0 = if e.pa % 64 ≤ n ∧ n < e.pa % 64 + e.data.length then e.data.getD (n - e.pa % 64) 0
        else l.data.bytes.getD n 0) ∧
      (∀ q, q ≠ pa → findLine (clusterAt t cl).lines q = findLine (clusterAt s cl).lines q) ∧
      (∀ k ∈ coresOf cl, k ≠ coreOf cx → findLine (coreAt t k).l1d pa = none) ∧
      (∀ o, findLine (coreAt s (coreOf cx)).l1d pa = some o → o.data.bytes.length = 64 →
        ∃ o', findLine (coreAt t (coreOf cx)).l1d pa = some o' ∧
          ∀ n, o'.data.bytes.getD n 0 = if e.pa % 64 ≤ n ∧ n < e.pa % 64 + e.data.length then e.data.getD (n - e.pa % 64) 0
            else o.data.bytes.getD n 0)) ∧
  AtomicRow .aadd 0 8 (fun v => .atomicAdd (v.bits.truncate 64)) ∧
  AtomicRow .aswap 1 8 (fun v => .atomicSwap (v.bits.truncate 64)) ∧
  AtomicRow .cswap 2 16 (fun v => .atomicCap v)

/-- R88, R91, R92, R167: FENCE waits until loads and stores are done and then goes on, FENCEW goes on; cache
maintenance acts on its line; a TLB invalidation is issued, waited for, and drops the entries that it covers. That FENCEW
goes straight on (assumption log 21), that the ASID of a TLBI is cut to 16 bits and that the PRIV fault of CINVAL comes
first (assumption log 78) are the model's choice. -/
def Obligations.FenceAndMaintenanceResults : Prop :=
  (∀ (s : State) (cx : CtxId), canIssue s cx { word := wReg 0x15 0 0 0 0 } = true →
    if (cpu s cx).loads = [] ∧ (cpu s cx).stores = [] then exec (.fence cx) s = .next (ran cx (begun s cx))
    else exec (.fence cx) s = .next (stalled cx (begun s cx) .drain)) ∧
  (∀ (s : State) (cx : CtxId), canIssue s cx { word := wReg 0x15 0 0 0 1 } = true →
    exec (.fencew cx) s = .next (ran cx (begun s cx))) ∧
  MaintRow .cclean 0 false (fun c x => capCheck c [] (capHas c rLoad || capHas c rStore) false x 1) needR cleanLine ∧
  MaintRow .cflush 1 false (fun c x => capCheck c [] (capHas c rLoad || capHas c rStore) false x 1) needR flushLine ∧
  MaintRow .cinval 2 true (fun c x => capCheck c [rStore] true false x 1) needW invalLine ∧
  MaintRow .iinval 3 false (fun c x => capCheck c [rExec] true false x 1) needX iinvalLine ∧
  (∀ (s : State) (cx : CtxId) (w : Bool) (a b : Reg),
    TlbRow (.tlbiva cx w a b) s cx 0 w a b ∧ TlbRow (.tlbiasid cx w b) s cx 1 w 0 b ∧
    TlbRow (.tlbiw cx w) s cx 2 w 0 0 ∧ TlbRow (.tlbipa cx w a) s cx 3 w a 0 ∧ TlbRow (.tlbis2 cx w) s cx 4 w 0 0) ∧
  (∀ (s : State) (cx : CtxId) (w : Bool), canIssue s cx { word := wReg 0x17 0 0 0 (b2n w * 256 + 5) } = true →
    if (cpu s cx).super = false then
      Traps (.tlbsync cx w) s cx { word := wReg 0x17 0 0 0 (b2n w * 256 + 5) } { kind := 0x0D }
    else if synced s cx = true then exec (.tlbsync cx w) s = .next (ran cx (begun s cx))
    else exec (.tlbsync cx w) s = .next (stalled cx (begun s cx) .tlbsync)) ∧
  (∀ (s : State) (d : TlbId) (i : Inval), s.invals[smGet 0 s.tlbDone (tlbNum d)]? = some i →
    (∀ p ∈ s.ctxs, tlbUser (tlbNum d) p.1 = true → coveredOut i p.2 = false) → coveredRead s i = false →
    (tlbNum d = 264 → coveredBack s i = false) →
    ∃ t, exec (.invalidationComplete d) s = .next t ∧ t.mem = s.mem ∧
      tlbAt t (tlbNum d) = (tlbAt s (tlbNum d)).filter (fun e => !covers i e) ∧
      (∀ n, n ≠ tlbNum d → tlbAt t n = tlbAt s n))

/-- R22, R25, R89, R90: the capability instructions. -/
def Obligations.CapabilityResults : Prop :=
  ∀ (s : State) (cx : CtxId) (rd a b : Reg) (imm : BitVec 11),
    let r (f : Nat) (rep : Nat) : Ins := { word := wReg 0x18 rd a b f, rep := rep, reads := [a, b], writes := [rd] }
    let one (f : Nat) : Ins := { word := wReg 0x18 rd a 0 f, reads := [a], writes := [rd] }
    let info (n : Nat) : Ins := { word := wReg 0x18 rd a (BitVec.ofNat 5 n) 8, reads := [a], writes := [rd] }
    let va := readInt (cpu s cx) a
    let vb := readInt (cpu s cx) b
    CapRow (.amov cx rd a) s cx (one 0) rd (fun c => readReg c a) ∧
    MoveRow (.astep cx rd a b) s cx (r 1 2) rd a (va + vb) ∧
    MoveRow (.astepi cx rd a imm) s cx { word := wImm 0x19 rd a 0 imm, rep := 2, reads := [a], writes := [rd] } rd a
      (va + imm.signExtend 64) ∧
    MoveRow (.aplace cx rd a b) s cx (r 2 0) rd a vb ∧
    MaskRow (.amask cx rd a b) s cx (r 3 0) rd a (vb.truncate 10) ∧
    MaskRow (.amaski cx rd a imm) s cx
      { word := wImm 0x19 rd a 1 imm, bad := imm.getMsbD 0, reads := [a], writes := [rd] } rd a (imm.truncate 10) ∧
    BoundsRow (.anarrow cx rd a b) s cx (r 4 0) rd a b false ∧
    BoundsRow (.afit cx rd a b) s cx (r 5 0) rd a b true ∧
    CapRow (.auntag cx rd a) s cx (one 6) rd (fun c => { bits := (readReg c a).bits, tag := false }) ∧
    CapRow (.ahere cx rd) s cx { word := wReg 0x18 rd 0 0 16, writes := [rd] } rd (fun c => c.pcc) ∧
    CapRow (.ainfoCursor cx rd a) s cx (info 0) rd (fun c => intCap ((readReg c a).bits.truncate 64)) ∧
    CapRow (.ainfoBase cx rd a) s cx (info 1) rd
      (fun c => intCap (if 44 < capE (readReg c a) then 0 else BitVec.ofInt 64 (capBase (readReg c a)))) ∧
    CapRow (.ainfoLength cx rd a) s cx (info 2) rd
      (fun c =>
        let v := readReg c a
        intCap (if 44 < capE v then 0 else if capTop v - capBase v = 2 ^ 64 then 0xFFFFFFFFFFFFFFFF
          else BitVec.ofInt 64 (capTop v - capBase v))) ∧
    CapRow (.ainfoRights cx rd a) s cx (info 3) rd (fun c => intCap (((readReg c a).bits.extractLsb' 72 10).zeroExtend 64)) ∧
    CapRow (.ainfoTag cx rd a) s cx (info 4) rd (fun c => intCap (if (readReg c a).tag then 1 else 0)) ∧
    CapRow (.ainfoType cx rd a) s cx (info 5) rd (fun c => intCap (((readReg c a).bits.extractLsb' 64 4).zeroExtend 64)) ∧
    CapRow (.ainfoColour cx rd a) s cx (info 6) rd (fun c => intCap (((readReg c a).bits.extractLsb' 68 4).zeroExtend 64)) ∧
    CapRow (.awithin cx rd a b) s cx (r 17 0) rd (fun c =>
      let p := readReg c a
      let q := readReg c b
      intCap (if p.tag = true ∧ q.tag = true ∧ capOtype p = 0 ∧ capOtype q = 0 ∧ capBase p ≤ capBase q ∧
          capTop q ≤ capTop p ∧ capRights q &&& capRights p = capRights q ∧ capColour p = capColour q then 1 else 0))

/-- R22, R25: bounds only narrow. The capability that ANARROW or AFIT gives is tagged, unsealed, of the same rights and
colour; its range holds the range asked for and lies within the source's, and AFIT's is exactly the one asked for. -/
def Obligations.BoundsOnlyNarrow : Prop :=
  ∀ (c v : Cap) (l : Word) (exact : Bool),
    capE c ≤ 44 → 0 ≤ capBase c → capBase c ≤ (capCursor c : Int) → (capCursor c : Int) ≤ capTop c →
    capTop c ≤ 2 ^ 64 → capNarrow c l.toNat exact = .ok v →
    v.tag = true ∧ c.tag = true ∧ capRights v = capRights c ∧ capColour v = capColour c ∧ capOtype v = 0 ∧
      capCursor v = capCursor c ∧ capBase c ≤ capBase v ∧ capTop v ≤ capTop c ∧
      capBase v ≤ (capCursor c : Int) ∧ (capCursor c : Int) + (l.toNat : Int) ≤ capTop v ∧
      (exact = true → capBase v = (capCursor c : Int) ∧ capTop v = (capCursor c : Int) + (l.toNat : Int))

/-- R94 to R98: a read of a system register gives its value; a write of STATUS or FLAGS changes those bits, and a
supervisor's write of MODE starts the shadow in which the old mode stays in force; a write of a read-only or unassigned
register faults ILLEGAL. How many queued words the shadow keeps is the model's choice (assumption log 73). -/
def Obligations.SystemRegisterResults : Prop :=
  (∀ (s : State) (cx : CtxId) (rd : Reg) (n : BitVec 11),
    canIssue s cx { word := wImm 0x1C rd 0 0 n, bad := decide (4 < n.toNat), writes := [rd] } = true →
    Runs (.mrs cx rd n) s cx fun c => writeInt c rd
      ([wd (b2n c.ove * 4 + b2n c.dze * 2 + b2n c.em),
        wd (b2n c.flags.n * 8 + b2n c.flags.z * 4 + b2n c.flags.c * 2 + b2n c.flags.v),
        c.mode.asid.zeroExtend 64 <<< 16 ||| wd (b2n c.mode.xlat),
        wd (b2n c.super * 0x2000 + b2n c.cust * 0x1000 + cx.toNat), s.tb].getD n.toNat 0)) ∧
  (∀ (s : State) (cx : CtxId) (a : Reg),
    canIssue s cx { word := wImm 0x1C 0 a 1 0, reads := [a] } = true →
    Runs (.msr cx a 0) s cx fun c =>
      let v := readInt c a
      { c with ove := v.getLsbD 2, dze := v.getLsbD 1, em := v.getLsbD 0 }) ∧
  (∀ (s : State) (cx : CtxId) (a : Reg),
    canIssue s cx { word := wImm 0x1C 0 a 1 1, reads := [a] } = true →
    Runs (.msr cx a 1) s cx fun c =>
      let v := readInt c a
      { c with flags := { n := v.getLsbD 3, z := v.getLsbD 2, c := v.getLsbD 1, v := v.getLsbD 0 } }) ∧
  (∀ (s : State) (cx : CtxId) (a : Reg),
    canIssue s cx { word := wImm 0x1C 0 a 1 2, reads := [a] } = true →
    if (cpu s cx).super = true then
      Runs (.msr cx a 2) s cx fun c =>
        let v := readInt c a
        { c with
          shadow := some (c.mode, 3), mode := { asid := v.extractLsb' 16 16, xlat := v.getLsbD 0 }
          queue := c.queue.take (if c.shadow = none then 3 else 1), fetch := none }
    else Traps (.msr cx a 2) s cx { word := wImm 0x1C 0 a 1 2 } { kind := 0x0D }) ∧
  (∀ (s : State) (cx : CtxId) (a : Reg) (n : BitVec 11), 3 ≤ n.toNat → atIssue s cx (wImm 0x1C 0 a 1 n) = true →
    Traps (.msr cx a n) s cx { word := wImm 0x1C 0 a 1 n } { kind := 0x0C })

/-- R109 to R112: ringing, taking and waiting on bells. -/
def Obligations.BellResults : Prop :=
  (∀ (s : State) (cx : CtxId) (a : Reg) (imm : BitVec 11),
    let w := wImm 0x25 0 a 0 imm
    let b := (readInt (cpu s cx) a + imm.zeroExtend 64).toNat
    canIssue s cx { word := w, reads := [a] } = true →
    (bellAllowed s (cpu s cx) b = false →
      Traps (.ring cx a imm) s cx { word := w } { kind := 0x15, addr := some (wd b) }) ∧
    (bellAllowed s (cpu s cx) b = true → smGet [] s.bellQ b = [] →
      exec (.ring cx a imm) s = .next (ran cx { begun s cx with bells := setIns b s.bells })) ∧
    (∀ x xs, bellAllowed s (cpu s cx) b = true → smGet [] s.bellQ b = x :: xs →
      exec (.ring cx a imm) s =
        .next (ran cx (finishWait { begun s cx with bellQ := smSet [] s.bellQ b xs } (BitVec.ofNat 11 x) 1)))) ∧
  (∀ (s : State) (cx : CtxId) (a : Reg) (imm : BitVec 11),
    let w := wImm 0x25 0 a 1 imm
    let b := (readInt (cpu s cx) a + imm.zeroExtend 64).toNat
    canIssue s cx { word := w, reads := [a] } = true → bellAllowed s (cpu s cx) b = true →
    if b ∈ s.bells then exec (.waitb cx a imm) s = .next (ran cx { begun s cx with bells := setDel b s.bells })
    else exec (.waitb cx a imm) s = .next (rested cx
      { setCtx (begun s cx) cx { cpu s cx with run := .waiting, wait := some (.bell b) } with
        bellQ := smSet [] s.bellQ b (smGet [] s.bellQ b ++ [cx.toNat]) })) ∧
  (∀ (s : State) (cx : CtxId) (rd a : Reg) (imm : BitVec 11),
    let w := wImm 0x25 rd a 2 imm
    let b := (readInt (cpu s cx) a + imm.zeroExtend 64).toNat
    canIssue s cx { word := w, reads := [a], writes := [rd] } = true → bellAllowed s (cpu s cx) b = true →
    exec (.btake cx rd a imm) s = .next (ran cx
      { setCtx (begun s cx) cx (writeInt (cpu s cx) rd (if b ∈ s.bells then 1 else 0)) with bells := setDel b s.bells })) ∧
  (∀ (s : State) (cx : CtxId), canIssue s cx { word := wImm 0x25 0 0 3 0 } = true →
    Runs (.yield cx) s cx fun c => { c with yielded := true }) ∧
  (∀ (s : State) (cx : CtxId) (a : Reg), canIssue s cx { word := wImm 0x25 0 a 6 0, reads := [a] } = true →
    if readInt (cpu s cx) a ≤ s.tb then exec (.waitt cx a) s = .next (ran cx (begun s cx))
    else exec (.waitt cx a) s = .next (rested cx
      (setCtx (begun s cx) cx { cpu s cx with run := .waiting, wait := some (.time (readInt (cpu s cx) a)) }))) ∧
  (∀ (s : State) (cx : CtxId) (rd a d : Reg),
    let b := (readInt (cpu s cx) a).toNat
    let t := readInt (cpu s cx) d
    canIssue s cx { word := wReg 0x27 rd a d 0, reads := [a, d], writes := [rd] } = true →
    bellAllowed s (cpu s cx) b = true →
    if b ∈ s.bells then
      exec (.waitbt cx rd a d) s =
        .next (ran cx { setCtx (begun s cx) cx (writeInt (cpu s cx) rd 1) with bells := setDel b s.bells })
    else if t ≤ s.tb then Runs (.waitbt cx rd a d) s cx fun c => writeInt c rd 0
    else exec (.waitbt cx rd a d) s = .next (rested cx
      { setCtx (begun s cx) cx { cpu s cx with run := .waiting, wait := some (.bellTime b t rd.toNat) } with
        bellQ := smSet [] s.bellQ b (smGet [] s.bellQ b ++ [cx.toNat]) })) ∧
  (∀ (s : State) (cx : CtxId) (t : Word),
    ((ctxAt s cx).wait = some (.time t) ∨ ∃ b rd, (ctxAt s cx).wait = some (.bellTime b t rd)) → t ≤ s.tb →
    s.power.halted = false →
    ∃ u, exec (.waitDeadline cx) s = .next u ∧ (ctxAt u cx).wait = none ∧ u.mem = s.mem ∧ u.bells = s.bells ∧
      ((ctxAt u cx).run = .ready ∨ ((ctxAt u cx).run = .stalled ∧ (ctxAt u cx).why = some .fetch)))

/-- R113 to R115: setting up an alert set, and the diversion of a context to its handler. That the link is the PCC as it
stands, with the tag it has, is read from R19 (assumption log 92). -/
def Obligations.AlertResults : Prop :=
  (∀ (s : State) (cx : CtxId) (a : Reg) (imm : BitVec 11),
    canIssue s cx { word := wImm 0x25 0 a 4 imm, bad := decide (63 < imm.toNat), reads := [a] } = true →
    match targetCheck (readReg (cpu s cx) a) with
    | none => Runs (.alset cx a imm) s cx fun c => { c with alh := readReg c a, alb := imm.truncate 6 }
    | some k => Traps (.alset cx a imm) s cx { word := wImm 0x25 0 a 4 imm } (branchFault (readReg (cpu s cx) a) a k)) ∧
  (∀ (s : State) (cx : CtxId) (a : Reg), canIssue s cx { word := wImm 0x25 0 a 5 0, reads := [a] } = true →
    (∀ j, j < 64 → (readInt (cpu s cx) a).getLsbD j = true →
      bellAllowed s (cpu s cx) ((cpu s cx).alb.toNat * 64 + j) = true) →
    Runs (.almask cx a) s cx fun c => { c with alm := readInt c a }) ∧
  (∀ (s : State) (cx : CtxId),
    let c := ctxAt s cx
    s.power.halted = false → c.parkDue = false → flagsDue c = false →
    c.em = false → c.depth ≤ 6 → (c.run = .ready ∨ c.run = .stalled ∨ c.run = .waiting) →
    (∃ j, j < 64 ∧ c.alm.getLsbD j = true ∧ c.alb.toNat * 64 + j ∈ s.bells) →
    (∀ i, i < (cxLow cx).toNat → divertible s (cxOn (coreOf cx) (BitVec.ofNat 4 i)) = false) →
    (coreAt s (coreOf cx)).hold = none →
    ∃ t, exec (.alertDiversion cx) s = .next t ∧ t.mem = s.mem ∧ t.bells = s.bells ∧
      (ctxAt t cx).pcc = targetPcc c.alh ∧ (ctxAt t cx).em = true ∧ (ctxAt t cx).queue = [] ∧
      (ctxAt t cx).run = .stalled ∧ (ctxAt t cx).why = some .fetch ∧
      (ctxAt t cx).cwp = (c.cwp + 1) % 8 ∧ (ctxAt t cx).depth = c.depth + 1 ∧ (ctxAt t cx).repAct = false ∧
      (c.cwp < 8 → readReg (ctxAt t cx) 23 = c.pcc ∧
        readReg (ctxAt t cx) 22 = intCap (alertWord c)) ∧
      (∀ y, y ≠ cx → ctxAt t y = ctxAt s y))

/-- R118, R119: MOVPW writes a port, or queues the operation it triggers; MOVPR reads one, and waits for a result while an
operation of the context runs. -/
def Obligations.PortMoveResults : Prop :=
  (∀ (s : State) (cx : CtxId) (a b : Reg) (u p : Nat),
    canIssue s cx { word := wReg 0x26 0 a b 0, reads := [a, b] } = true →
    movpCheck s (cpu s cx) (readReg (cpu s cx) a) (fun x => decide (x ≠ .result)) = .ok (u, p) →
    let x := portSet s u cx.toNat
    let v := readReg (cpu s cx) b
    (p ≠ 0x10 → exec (.movpw cx a b) s =
      .next (ran cx (setPortSet (begun s cx) u cx.toNat { x with vals := smSet Cap.null x.vals p v }))) ∧
    (p = 0x10 → exec (.movpw cx a b) s = .next (ran cx
      (islSweep (setIslQueue (setPortSet (begun s cx) u cx.toNat { x with busy := x.busy + 1 }) u
        (islQueue s u ++ [{ src := .cx cx.toNat, port := 0x10, vals := smSet Cap.null x.vals 0x10 v, wiped := false, snap := none }])) u)))) ∧
  (∀ (s : State) (cx : CtxId) (rd a : Reg) (u p : Nat),
    canIssue s cx { word := wReg 0x26 rd a 0 1, reads := [a], writes := [rd] } = true →
    movpCheck s (cpu s cx) (readReg (cpu s cx) a) (fun x => decide (x ≠ .trigger)) = .ok (u, p) →
    if portUse u p = some .result ∧ (portSet s u cx.toNat).busy ≠ 0 then
      exec (.movpr cx rd a) s = .next (stalled cx (begun s cx) .movpr)
    else Runs (.movpr cx rd a) s cx fun c => writeReg c rd (smGet Cap.null (portSet s u cx.toNat).vals p)) ∧
  (∀ (s : State) (cx : CtxId) (a b : Reg),
    canIssue s cx { word := wReg 0x26 0 a b 0, reads := [a, b] } = true → (cpu s cx).cust = false →
    Traps (.movpw cx a b) s cx { word := wReg 0x26 0 a b 0 } { kind := 0x0D })

/-- R47, R48, R61, R72, R98, R161, R165: what happens to contexts beside the execution of their instructions. The model's
choices in it: an instruction that is no assigned word is one that `wordOk` does not admit (assumption log 26); the walks that
merge are those of a cluster's contexts on one page under one MODE, each meeting its own permissions (assumption logs 21, 22);
a fetch takes the words that its queue has room for, and words that the context no longer wants next are dropped (assumption
log 73). -/
def Obligations.SchedulerAndFetchResults : Prop :=
  (∀ (s : State) (core : CoreId) (i : Nat), i < 16 →
    let aged (i : Nat) : Prop :=
      let c := ctxAt s (cxOn core (BitVec.ofNat 4 i))
      c.run = .ready ∧ c.queue ≠ [] ∧ 256 ≤ c.age
    aged i → (∀ j, j < i → ¬aged j) →
    exec (.schedulerAgeing core) s = .next (setCore s core { coreAt s core with sel := some (BitVec.ofNat 4 i) })) ∧
  (∀ (s : State) (core : CoreId) (cx : CtxId), fetchPick s core = some cx → s.power.halted = false →
    let c := ctxAt s cx
    let va := fetchAddr c
    (∀ k, capCheck c.pcc [rExec] true false va 4 = some k →
      exec (.fetchGroup core) s = .next (setCtx s cx (enqueue c
        [{ va := va, next := va + 4, word := 0, bad := some { kind := k, addr := some (wd va), fetch := true } }]))) ∧
    (∀ pa uc e t, capCheck c.pcc [rExec] true false va 4 = none →
      xlateTry s (coreX cx c true) va needX = (.ok pa uc e, t) →
      exec (.fetchGroup core) s = .next (fetchGroupAt t cx pa uc e))) ∧
  (∀ (s : State) (cx : CtxId) (r : FetchReq), (ctxAt s cx).fetch = some r → s.power.halted = false →
    let c := ctxAt s cx
    (r.va ≠ fetchAddr c → exec (.fetchReturn cx) s = .next (abandon (cxReads cx) (setCtx s cx { c with fetch := none }))) ∧
    (r.va = fetchAddr c → r.words ≠ [] →
      exec (.fetchReturn cx) s = .next (setCtx s cx (enqueue { c with fetch := none } r.words)))) ∧
  (∀ (c : Ctx) (ws : List PqWord), (enqueue c ws).queue = (c.queue ++ ws).take (fetchRoom c) ∧
    (c.run = .stalled → c.why = some .fetch → (enqueue c ws).queue ≠ [] → (enqueue c ws).run = .ready)) ∧
  (∀ (s : State) (core : CoreId),
    let off := corePg core 0x100
    rbit s off 0 ≠ rbit s off 1 → (coreAt s core).hold = none →
    (∀ i, i < 16 →
      let c := ctxAt s (cxOn core (BitVec.ofNat 4 i))
      (∀ l ∈ c.loads, l.cached = false) ∧ (∀ e ∈ c.stores, e.cached = false) ∧ (c.repAct = true → c.repU = false)) →
    ∃ t, exec (.detModeEntry core) s = .next t ∧ rbit t off 1 = rbit s off 0 ∧ rbit t off 0 = rbit s off 0 ∧
      (rbit s off 0 = true → (coreAt t core).l1d = [] ∧ (coreAt t core).l1i = []) ∧ t.mem = s.mem ∧ t.ctxs = s.ctxs) ∧
  (∀ (s : State) (cx : CtxId) (w : BitVec 32), wordOk w = false → atIssue s cx w = true →
    let k := coreAt s (coreOf cx)
    (w.extractLsb' 28 4 ≠ 0x0C ∨ (k.holder = some (cxLow cx) ∧ fcsrTpend k.fpBank = 0)) →
    exec (.illegalInstruction cx w) s = .next (trapped cx (begun s cx) { kind := 0x0C } w)) ∧
  (∀ (s : State) (cx : CtxId) (w : WalkReq) (r : XRes) (t : State),
    (ctxAt s cx).walk = some w → (w.fetch = false → (ctxAt s cx).why = some .walk) → s.power.halted = false →
    let q := { coreX cx (ctxAt s cx) w.fetch with asid := w.mode.asid, xlat := w.mode.xlat }
    walkRun s q w.va.toNat w.need = (r, t) →
    exec (.translationWalk (if w.fetch then .fetch cx else .data cx)) s =
      .next ((walkMerged s cx w).foldl
        (fun u x => walkEnd u x (walkErrFor s cx (walkAll s q w.va.toNat w.need).2.leaf r x)) t) ∧
    walkErrFor s cx (walkAll s q w.va.toNat w.need).2.leaf r cx = walkErr r ∧
    (cx.toNat ∈ s.ctxs.map (·.1) → cx ∈ walkMerged s cx w) ∧
    ((∀ p ∈ s.ctxs, p.1 < 2048 ∧ ctxAt s (BitVec.ofNat 11 p.1) = p.2) → ∀ x, x ≠ cx →
      (x ∈ walkMerged s cx w ↔ x.toNat ∈ s.ctxs.map (·.1) ∧ x.toNat / 256 = cx.toNat / 256 ∧
        (ctxAt s x).cust = (ctxAt s cx).cust ∧
        ∃ v, (ctxAt s x).walk = some v ∧ v.mode = w.mode ∧ v.va.toNat / 4096 = w.va.toNat / 4096))) ∧
  (∀ (s : State) (who : WalkFor) (core : CoreId) (cx : CtxId), s.power.halted = true →
    exec (.translationWalk who) s = .next s ∧ exec (.fetchGroup core) s = .next s ∧ exec (.fetchReturn cx) s = .next s) ∧
  (∀ (s : State) (cx : CtxId) (w : WalkReq), (ctxAt s cx).walk = some w →
    let u := setCtx s cx { ctxAt s cx with walk := none }
    walkEnd s cx none = if w.fetch then u else wakeIf u cx .walk)

/-- R12, R64 to R66: CXEVICT settles its target, writes the image of its bank, and leaves it EMPTY; CXLOAD gives the verdict
on an image, and with verdict 0 the bank it holds, PARKED. Each of them waits first until the issuer's own stores have
drained. What the target's accesses come to as it settles (assumption log 28), the layout of what an image seals (assumption
log 30) and the path of its lines (assumption log 29) are the model's choice. -/
def Obligations.ContextImageResults : Prop :=
  (∀ (s : State) (cx : CtxId) (a b : Reg) (x : CtxId) (acc : CoreAcc) (ps : List Piece) (s1 s2 : State),
    let w := wReg 0x1A 0 a b 0
    canIssue s cx { word := w, reads := [a, b] } = true →
    imageArea cx w a b evictable rStore needW (cpu s cx) (begun s cx) = .ok (x, acc, ps, s1) →
    ((ctxAt s1 cx).stores ≠ [] → exec (.cxevict cx a b) s = .next (stalled cx s1 .drain)) ∧
    ((ctxAt s1 cx).stores = [] → (inRepu (ctxAt s1 x) = false ∨ (ctxAt s1 x).run = .parked) →
    let t := settleCtx (parkOp s1 x) x
    (ctxAt t x).stores = [] →
    let img := sealImage t (ctxAt t x).cust (packBody (ctxAt t x) (fpOf t x))
    writeImage acc ps img.1 img.2 = .ok s2 →
    exec (.cxevict cx a b) s = .next (ran cx (emptyCtx s2 x)) ∧ ctxAt (emptyCtx s2 x) x = Ctx.empty)) ∧
  (∀ (s : State) (cx : CtxId) (rd a b : Reg) (x : CtxId) (acc : CoreAcc) (ps : List Piece) (s1 s2 : State)
      (img : List Byte),
    let w := wReg 0x1A rd a b 1
    canIssue s cx { word := w, reads := [a, b], writes := [rd] } = true →
    imageArea cx w a b (fun s x => decide ((ctxAt s x).run = .empty)) rLoad needR (cpu s cx) (begun s cx) =
      .ok (x, acc, ps, s1) →
    (∀ p ∈ ps, isDram p.pa = true ∨ isSpad p.pa = true) → (ctxAt s1 cx).stores = [] →
    readImage acc ps s1 = .ok (img, s2) →
    let done (t : State) (v : Word) : State := ran cx (setCtx t cx (writeInt (ctxAt t cx) rd v))
    match openImage s2 img with
    | none => exec (.cxload cx rd a b) s = .next (done s2 1)
    | some (world, body) =>
      if world = true ∧ (cpu s cx).cust = false then exec (.cxload cx rd a b) s = .next (done s2 2)
      else exec (.cxload cx rd a b) s =
        .next (done (setFp (setCtx s2 x (unpackBody world body)) x (unpackFp body)) 0))

/-- R64 to R66, R337: an image opens, under the key it was sealed with, to the world and the body that were sealed; the
body restores the bank, the capabilities with their tags, and the control state. -/
def Obligations.SealedImageRestores : Prop :=
  (∀ (s : State) (world : Bool) (body : List Byte), body.length = 0x9E0 →
    openImage (sealImage s world body).2 (sealImage s world body).1 = some (world, body) ∧
    (sealImage s world body).1.length = 2560 ∧ (sealImage s world body).2.island.nonce = s.island.nonce + 1) ∧
  (∀ (c : Ctx) (f : FpState), c.cwp < 8 → c.depth < 8 →
    let b := packBody c f
    let t := unpackBody c.cust b
    b.length = 0x9E0 ∧ t.run = .parked ∧ t.pcc = c.pcc ∧
    (∀ k, 1 ≤ k → k ≤ 135 → smGet Cap.null t.bank k = smGet Cap.null c.bank k) ∧
    t.super = c.super ∧ t.cust = c.cust ∧ t.flags = c.flags ∧ t.ove = c.ove ∧ t.dze = c.dze ∧ t.em = c.em ∧
    t.mode = c.mode ∧ t.cwp = c.cwp ∧ t.depth = c.depth ∧ t.repAct = c.repAct ∧ t.repCnt = c.repCnt ∧
    t.alh = c.alh ∧ t.alb = c.alb ∧ t.alm = c.alm ∧
    (∀ r, r < 32 → smGet 0 (unpackFp b).regs r = smGet 0 f.regs r) ∧ (unpackFp b).fcsr = f.fcsr ∧
    (unpackFp b).taddr = f.taddr)

/-- R121 to R133: every FP instruction that computes leaves for the FP unit with its operands read at issue. -/
def Obligations.FpIssueResults : Prop :=
  ∀ (s : State) (cx : CtxId) (p : Bool) (rm : BitVec 3) (rd a b c : Reg),
    let m := roundMode s cx rm
    let bad := decide (rm = 5) || decide (rm = 6)
    let x := fpr s cx a
    let y := fpr s cx b
    let n := readInt (cpu s cx) a
    let kd := (regKey (cpu s cx).cwp rd.toNat).getD 0
    let w0 (r f : Nat) : BitVec 32 := wReg 0x30 rd a b (b2n p * 0x400 + r * 0x80 + f)
    let i2 (k : Bool) : FIns := { bad := k, freads := [a, b], fwrites := [rd] }
    let w1 (f : Nat) : BitVec 32 := wReg 0x31 rd a b (c.toNat * 0x40 + b2n p * 0x20 + rm.toNat * 4 + f)
    let i3 : FIns := { bad := bad, freads := [a, b, c], fwrites := [rd] }
    let w2 (r f : Nat) : BitVec 32 := wReg 0x32 rd a 0 (r * 0x80 + f)
    let ff (k : Bool) : FIns := { bad := k, freads := [a], fwrites := [rd] }
    let fi : FIns := { bad := bad, freads := [a], writes := [rd] }
    let if' : FIns := { bad := bad, reads := [a], fwrites := [rd] }
    FpRow (.fadd cx p rm rd a b) s cx (w0 rm.toNat 0) (i2 bad) .add p m x y 0 rd.toNat false ∧
    FpRow (.fsub cx p rm rd a b) s cx (w0 rm.toNat 1) (i2 bad) .sub p m x y 0 rd.toNat false ∧
    FpRow (.fmul cx p rm rd a b) s cx (w0 rm.toNat 2) (i2 bad) .mul p m x y 0 rd.toNat false ∧
    FpRow (.fdiv cx p rm rd a b) s cx (w0 rm.toNat 3) (i2 bad) .div p m x y 0 rd.toNat false ∧
    FpRow (.fsqrt cx p rm rd a) s cx (wReg 0x30 rd a 0 (b2n p * 0x400 + rm.toNat * 0x80 + 4)) (ff bad) .sqrt p m x 0 0
      rd.toNat false ∧
    FpRow (.fmin cx p rd a b) s cx (w0 0 5) (i2 false) .min p 0 x y 0 rd.toNat false ∧
    FpRow (.fmax cx p rd a b) s cx (w0 0 6) (i2 false) .max p 0 x y 0 rd.toNat false ∧
    FpRow (.fcmp cx p a b) s cx (wReg 0x30 0 a b (b2n p * 0x400 + 8)) { freads := [a, b] } .cmp p 0 x y 0 0 false ∧
    FpRow (.fcmps cx p a b) s cx (wReg 0x30 0 a b (b2n p * 0x400 + 9)) { freads := [a, b] } .cmps p 0 x y 0 0 false ∧
    FpRow (.fmadd cx p rm rd a b c) s cx (w1 0) i3 .madd p m x y (fpr s cx c) rd.toNat false ∧
    FpRow (.fmsub cx p rm rd a b c) s cx (w1 1) i3 .msub p m x y (fpr s cx c) rd.toNat false ∧
    FpRow (.fnmadd cx p rm rd a b c) s cx (w1 2) i3 .nmadd p m x y (fpr s cx c) rd.toNat false ∧
    FpRow (.fnmsub cx p rm rd a b c) s cx (w1 3) i3 .nmsub p m x y (fpr s cx c) rd.toNat false ∧
    FpRow (.fcvtsd cx rm rd a) s cx (w2 rm.toNat 0) (ff bad) .cvtsd true m x 0 0 rd.toNat false ∧
    FpRow (.fcvtds cx rd a) s cx (w2 0 1) (ff false) .cvtds true 0 x 0 0 rd.toNat false ∧
    FpRow (.fcvtld cx rm rd a) s cx (w2 rm.toNat 2) fi (.cvtl false) true m x 0 0 kd true ∧
    FpRow (.fcvtlud cx rm rd a) s cx (w2 rm.toNat 3) fi (.cvtl true) true m x 0 0 kd true ∧
    FpRow (.fcvtdl cx rm rd a) s cx (w2 rm.toNat 4) if' (.cvtf false) true m n 0 0 rd.toNat false ∧
    FpRow (.fcvtdlu cx rm rd a) s cx (w2 rm.toNat 5) if' (.cvtf true) true m n 0 0 rd.toNat false ∧
    FpRow (.fcvtls cx rm rd a) s cx (w2 rm.toNat 6) fi (.cvtl false) false m x 0 0 kd true ∧
    FpRow (.fcvtlus cx rm rd a) s cx (w2 rm.toNat 7) fi (.cvtl true) false m x 0 0 kd true ∧
    FpRow (.fcvtsl cx rm rd a) s cx (w2 rm.toNat 8) if' (.cvtf false) false m n 0 0 rd.toNat false ∧
    FpRow (.fcvtslu cx rm rd a) s cx (w2 rm.toNat 9) if' (.cvtf true) false m n 0 0 rd.toNat false

/-- R122, R125, R133 to R137: the FP moves, FCSR, FBAR, the FP loads and stores, a pending trap, the lending of the
bank, and the completion of an FP operation, which sets TADDR with the first cause in program order. -/
def Obligations.FpMoveAndCompletionResults : Prop :=
  (∀ (s : State) (cx : CtxId) (rd a : Reg), canFp s cx (wReg 0x32 rd a 0 16) { freads := [a], writes := [rd] } = true →
    Runs (.fmvif cx rd a) s cx fun c => writeInt c rd (fpr s cx a)) ∧
  (∀ (s : State) (cx : CtxId) (rd a : Reg), canFp s cx (wReg 0x32 rd a 0 17) { reads := [a], fwrites := [rd] } = true →
    let f := (coreAt s (coreOf cx)).fpBank
    exec (.fmvfi cx rd a) s = .next (ran cx (setFp (begun s cx) cx
      { f with regs := smSet 0 f.regs rd.toNat (readInt (cpu s cx) a), badPar := setDel rd.toNat f.badPar }))) ∧
  (∀ (s : State) (cx : CtxId) (rd : Reg), canFp s cx (wReg 0x32 rd 0 0 24) { writes := [rd] } = true →
    Runs (.frcsr cx rd) s cx fun c => writeInt c rd (coreAt s (coreOf cx)).fpBank.fcsr) ∧
  (∀ (s : State) (cx : CtxId) (a : Reg), canFp s cx (wReg 0x32 0 a 0 25) { reads := [a] } = true →
    let f := (coreAt s (coreOf cx)).fpBank
    let v := readInt (cpu s cx) a
    if (v.extractLsb' 10 3).toNat < 5 then
      exec (.fwcsr cx a) s = .next (ran cx (setFp (begun s cx) cx
        { f with fcsr := (v &&& 0x3FFF) ||| (f.fcsr &&& 0x1F0000) }))
    else Traps (.fwcsr cx a) s cx { word := wReg 0x32 0 a 0 25 } { kind := 0x0C }) ∧
  (∀ (s : State) (cx : CtxId),
    (canFp s cx (wReg 0x32 0 0 0 31) { bar := true } = true → exec (.fbar cx) s = .next (ran cx (begun s cx))) ∧
    (canIssue s cx { word := wReg 0x32 0 0 0 31, fp := true } = true →
      (coreAt s (coreOf cx)).holder = some (cxLow cx) → (ctxAt s cx).fp ≠ [] →
      exec (.fbar cx) s = .next (stalled cx (begun s cx) .fp))) ∧
  (∀ (s : State) (cx : CtxId) (dbl : Bool) (rd a : Reg) (imm : BitVec 11) (l : Loaded) (t : State),
    let n := if dbl then 8 else 4
    let w := wImm 0x33 rd a (b2n dbl) imm
    let x := (readInt (cpu s cx) a + imm.signExtend 64 * wd n).toNat
    canFp s cx w { fwrites := [rd], reads := [a] } = true → (cpu s cx).loads.length < 4 →
    capCheck (readReg (cpu s cx) a) [rLoad] true false x n = none →
    loadVa (access s cx a w) x n (begun s cx) = .ok (l, t) →
    exec (if dbl then .fld cx rd a imm else .flw cx rd a imm) s = .next (ran cx (withLoad t cx
      { dest := 256 + rd.toNat, val := intCap (wd (leNat l.bytes)), cached := l.cached, xl := l.ent, gates := l.gates
        old := [] }))) ∧
  (∀ (s : State) (cx : CtxId) (dbl : Bool) (rd a : Reg) (imm : BitVec 11) (t : State),
    let n := if dbl then 8 else 4
    let w := wImm 0x33 rd a (2 + b2n dbl) imm
    let x := (readInt (cpu s cx) a + imm.signExtend 64 * wd n).toNat
    canFp s cx w { freads := [rd], reads := [a] } = true →
    capCheck (readReg (cpu s cx) a) [rStore] true false x n = none →
    storeVa (access s cx a w) x (leBytes n (fpr s cx rd).toNat) false (begun s cx) = .done t →
    exec (if dbl then .fsd cx rd a imm else .fsw cx rd a imm) s = .next (ran cx t)) ∧
  (∀ (s : State) (core : CoreId) (w : BitVec 4) (ws : List (BitVec 4)), (coreAt s core).want = w :: ws →
    (∀ h, (coreAt s core).holder = some h →
      (ctxAt s (cxOn core h)).fp = [] ∧ ∀ l ∈ (ctxAt s (cxOn core h)).loads, l.dest < 256) →
    ∃ t, exec (.fpBankSwap core) s = .next t ∧ (coreAt t core).holder = some w ∧ (coreAt t core).want = ws ∧
      (∀ i, fpOf t (cxOn core i) = fpOf s (cxOn core i)) ∧ t.mem = s.mem) ∧
  (∀ (s : State) (cx : CtxId) (n : Nat) (o : FpOp), (ctxAt s cx).fp[n]? = some o →
    let r := fpCompute o
    let cause := (wd r.1.flags) &&& ((fpOf s cx).fcsr.extractLsb' 5 5).zeroExtend 64
    let f := fpOf s cx
    (isCompare o = true → ∀ q ∈ (ctxAt s cx).fp.take n, isCompare q = false) →
    ∃ t, exec (.fpResult cx n) s = .next t ∧ t.mem = s.mem ∧ (ctxAt t cx).fp = (ctxAt s cx).fp.eraseIdx n ∧
      (fpOf t cx).fcsr = (fpOf s cx).fcsr ||| wd r.1.flags ||| (cause <<< 16) ∧
      (fpOf t cx).taddr = (if cause ≠ 0 ∧ (f.fcsr.extractLsb' 16 5 = 0 ∨ o.seq < f.tseq) then o.addr else f.taddr) ∧
      (∀ f, r.2 = some f → (ctxAt t cx).flags = f) ∧
      (r.2 = none → o.idst = true → o.dest ≠ 0 → smGet Cap.null (ctxAt t cx).bank o.dest = intCap (wd r.1.val)) ∧
      (r.2 = none → o.idst = false → smGet 0 (fpOf t cx).regs o.dest = wd r.1.val) ∧
      (∀ k, (r.2 ≠ none ∨ o.idst = true ∨ k ≠ o.dest) → smGet 0 (fpOf t cx).regs k = smGet 0 (fpOf s cx).regs k)) ∧
  (∀ (s : State) (i : Instr) (cx : CtxId) (w : BitVec 32), fpWord i = some (cx, w) →
    canIssue s cx { word := w, fp := true } = true →
    let k := coreAt s (coreOf cx)
    let f := k.fpBank
    (k.holder ≠ some (cxLow cx) →
      exec i s = .next (stalled cx (if cxLow cx ∈ k.want then begun s cx
        else setCore (begun s cx) (coreOf cx) { k with want := k.want ++ [cxLow cx] }) .fpSwap)) ∧
    (k.holder = some (cxLow cx) → f.fcsr.extractLsb' 16 5 ≠ 0 → (i = .fbar cx → (ctxAt s cx).fp = []) →
      exec i s = .next (trapped cx (setFp (begun s cx) cx { f with fcsr := f.fcsr &&& ~~~0x1F0000 })
        { kind := 0x12, addr := some f.taddr, detail := (f.fcsr.extractLsb' 16 5).toNat } w)))

/-- R127 to R133: what the FP operations give. A finite exact result is rounded once, with the flags of R127; an exact zero
takes the sign of its terms where they agree, and else minus only in RDN; a NaN result is the canonical one, with NV for a
signalling operand or an invalid operation; infinities and division by zero as IEEE 754 has them. The compares, the minimum
and maximum, and the conversions of every format follow, and FTZ reads a subnormal operand as a zero of its sign and replaces
a result below the least normal number by one. -/
def Obligations.FpOperationValues : Prop :=
  ∀ (p : Bool) (rm : Nat) (a b c : Word), rm < 5 →
    let bits (q : Bool) (v : Word) : Nat := if q then v.toNat else v.toNat % 2 ^ 32
    let op (k : FpKind) (ftz : Bool) : FpOp :=
      { kind := k, dbl := p, rm := rm, a := a, b := b, c := c, dest := 0, idst := false, addr := 0, ftz := ftz, seq := 0 }
    let res (k : FpKind) : FpRes := (fpCompute (op k false)).1
    let va := bits p a
    let vb := bits p b
    let vc := bits p c
    let x := fpUnits p va
    let y := fpUnits p vb
    let z := fpUnits p vc
    let na := fpNeg p va
    let nb := fpNeg p vb
    let u : Nat := 2 ^ unitExp p
    let nan (nv : Bool) : FpRes := { val := nanBits p, flags := if nv then 16 else 0 }
    let zero (neg : Bool) : FpRes := { val := fpBits p neg 0, flags := 0 }
    let inf (neg : Bool) : FpRes := { val := infBits p neg, flags := 0 }
    let snan2 := fpIsSnan p va || fpIsSnan p vb
    let nan2 := fpIsNan p va || fpIsNan p vb
    -- the exact values, rounded once
    (fpFin p va = true → fpFin p vb = true →
      (if x + y = 0 then res .add = zero (if na = nb then na else decide (rm = 2)) else Rounded p rm (x + y) 1 (res .add)) ∧
      (if x - y = 0 then res .sub = zero (if na = !nb then na else decide (rm = 2)) else Rounded p rm (x - y) 1 (res .sub)) ∧
      (if x * y = 0 then res .mul = zero (na != nb) else Rounded p rm (x * y) u (res .mul)) ∧
      (y ≠ 0 → x ≠ 0 → Rounded p rm (if y < 0 then -(x * u) else x * u) y.natAbs (res .div)) ∧
      (y = 0 → res .div = if x = 0 then nan true else { inf (na != nb) with flags := 8 }) ∧
      (x = 0 → y ≠ 0 → res .div = zero (na != nb)) ∧
      (fpFin p vc = true →
        let pos (k : FpKind) (neg sub : Bool) : Prop :=
          let t := x * y + (if sub then -z else z) * u
          if t = 0 then
            (neg = false → res k = zero (if (na != nb) = (fpNeg p vc != sub) then na != nb else decide (rm = 2)))
          else Rounded p rm (if neg then -t else t) u (res k)
        pos .madd false false ∧ pos .msub false true ∧ pos .nmadd true false ∧ pos .nmsub true true)) ∧
    (fpFin p va = true →
      (x < 0 → res .sqrt = nan true) ∧ (x = 0 → res .sqrt = zero na) ∧
      (0 < x → RootRounded p rm (x * u) (res .sqrt))) ∧
    -- NaNs and infinities
    (nan2 = true → ∀ k ∈ [FpKind.add, .sub, .mul, .div], res k = nan snan2) ∧
    (fpIsNan p va = true → res .sqrt = nan (fpIsSnan p va)) ∧
    (∀ k ∈ [FpKind.madd, .msub, .nmadd, .nmsub],
      let bad := (fpIsInf p va && fpFin p vb && decide (y = 0)) || (fpIsInf p vb && fpFin p va && decide (x = 0))
      (bad = true → res k = nan true) ∧
      (bad = false → (nan2 || fpIsNan p vc) = true → res k = nan (snan2 || fpIsSnan p vc))) ∧
    (fpIsInf p va = true → nan2 = false →
      res .add = (if fpIsInf p vb && (na != nb) then nan true else inf na) ∧
      res .sub = (if fpIsInf p vb && (na == nb) then nan true else inf na) ∧
      res .mul = (if fpFin p vb && decide (y = 0) then nan true else inf (na != nb)) ∧
      res .div = (if fpIsInf p vb then nan true else inf (na != nb)) ∧ res .sqrt = (if na then nan true else inf false)) ∧
    (fpFin p va = true → fpIsInf p vb = true →
      res .add = inf nb ∧ res .sub = inf (!nb) ∧ res .mul = (if x = 0 then nan true else inf (na != nb)) ∧
      res .div = zero (na != nb)) ∧
    -- compares, minimum and maximum
    (∀ k ∈ [FpKind.cmp, .cmps],
      let r := fpCompute (op k false)
      r.1.flags = (if (if k = .cmp then snan2 else nan2) then 16 else 0) ∧
      r.2 = some (if nan2 then { n := false, z := false, c := true, v := true }
        else if fpPlace p va < fpPlace p vb then { n := true, z := false, c := false, v := false }
        else if fpPlace p va = fpPlace p vb then { n := false, z := true, c := true, v := false }
        else { n := false, z := false, c := true, v := false })) ∧
    (∀ k ∈ [FpKind.min, .max],
      let below := decide (fpPlace p va < fpPlace p vb) || (decide (fpPlace p va = fpPlace p vb) && na && !nb)
      (res k).flags = (if snan2 then 16 else 0) ∧
      (res k).val = if fpIsNan p va && fpIsNan p vb then nanBits p else if fpIsNan p va then vb else if fpIsNan p vb then va
        else if below = decide (k = .min) then va else vb) ∧
    -- conversions
    (let v := a.toNat
     let n := fpUnits true v
     let r := res .cvtsd
     (fpIsNan true v = true → r = { val := nanBits false, flags := if fpIsSnan true v then 16 else 0 }) ∧
     (fpIsInf true v = true → r = { val := infBits false (fpNeg true v), flags := 0 }) ∧
     (fpFin true v = true →
       if n = 0 then r = { val := fpBits false (fpNeg true v) 0, flags := 0 }
       else Rounded false rm n (2 ^ (unitExp true - unitExp false)) r)) ∧
    (let v := a.toNat % 2 ^ 32
     let r := res .cvtds
     (fpIsNan false v = true → r = { val := nanBits true, flags := if fpIsSnan false v then 16 else 0 }) ∧
     (fpIsInf false v = true → r = { val := infBits true (fpNeg false v), flags := 0 }) ∧
     (fpFin false v = true → r.flags = 0 ∧ fpFin true r.val = true ∧ fpNeg true r.val = fpNeg false v ∧
       fpUnits true r.val = fpUnits false v * 2 ^ (unitExp true - unitExp false))) ∧
    (∀ uns : Bool,
      let lo : Int := if uns then 0 else -(2 ^ 63)
      let hi : Int := if uns then 2 ^ 64 - 1 else 2 ^ 63 - 1
      let r := res (.cvtl uns)
      (fpFin p va = false →
        r = { val := (BitVec.ofInt 64 (if fpIsInf p va && na then lo else hi)).toNat, flags := 16 }) ∧
      (fpFin p va = true → ∃ i : Int, (∀ j : Int, Prefers rm x u i j (decide (i % 2 = 0))) ∧
        r = if lo ≤ i ∧ i ≤ hi then { val := (BitVec.ofInt 64 i).toNat, flags := if i * u = x then 0 else 1 }
          else { val := (BitVec.ofInt 64 (if x < 0 then lo else hi)).toNat, flags := 16 })) ∧
    (∀ uns : Bool,
      let n : Int := if uns then (a.toNat : Int) else a.toInt
      if n = 0 then res (.cvtf uns) = zero false else Rounded p rm (n * u) 1 (res (.cvtf uns))) ∧
    -- FTZ
    (∀ k ∈ [FpKind.add, .sub, .mul, .div, .sqrt, .madd, .msub, .nmadd, .nmsub],
      let flush (v : Word) : Word := if fpSubn p (bits p v) then wd (fpBits p (fpNeg p (bits p v)) 0) else v
      let r := fpCompute (op k true)
      let full := (fpCompute { op k false with a := flush a, b := flush b, c := flush c }).1
      r.2 = none ∧
      (fpFin p full.val = true → fpUnits p full.val ≠ 0 → (fpUnits p full.val).natAbs < 2 ^ fracW p →
        r.1 = { val := fpBits p (fpNeg p full.val) 0, flags := 3 }) ∧
      (fpFin p full.val = false ∨ 2 ^ fracW p < (fpUnits p full.val).natAbs ∨ full.flags = 0 ∧ fpUnits p full.val = 0 →
        r.1 = full))

/-- R145, R151 to R153: the service calls and the taking of fault records. -/
def Obligations.ServiceCallResults : Prop :=
  (∀ (s : State) (cx : CtxId) (n : BitVec 16) (x : BitVec 4),
    canIssue s cx { word := wWide 0x28 0 n.toNat, reads := [8, 9, 10, 11, 12, 13] } = true →
    let core := coreOf cx
    let w := n.getMsbD 0 || (cpu s cx).cust
    svcEff (begun s cx) core w false = some x → x ≠ cxLow cx →
    let c := cpu s cx
    let ent := [readReg c 8, readReg c 9, readReg c 10, readReg c 11, readReg c 12, readReg c 13,
      intCap (cxidWord cx c), intCap (n.zeroExtend 64)]
    let t := setCtx (begun s cx) cx { parkCtx c with bySysc := true }
    let k := coreAt s core
    exec (.sysc cx n) s = .next (rested cx
      (acceptWaiting (setCore t core (setCallQ k w (callQ k w ++ [{ cx := cxLow cx, ent := ent }]))) core w x))) ∧
  (∀ (s : State) (cx : CtxId), canIssue s cx { word := wReg 0x29 0 0 0 1 } = true →
    let core := coreOf cx
    let c := cpu s cx
    svcEff (begun s cx) core c.cust false = some (cxLow cx) → c.held = none →
    (∀ k ∈ regKeys c [24, 25, 26, 27, 28, 29, 30, 31], k ∉ pendingKeys c) →
    match callQ (coreAt s core) c.cust with
    | [] => exec (.accept cx) s = .next (rested cx
        (setCtx (begun s cx) cx { c with run := .waiting, wait := some .accept }))
    | e :: q => ∃ t, exec (.accept cx) s = .next (ran cx t) ∧ callQ (coreAt t core) c.cust = q ∧
        (ctxAt t cx).held = some (some e) ∧ t.mem = s.mem ∧
        (c.cwp < 8 → ∀ i, i < 8 → i < e.ent.length → readReg (ctxAt t cx) (BitVec.ofNat 5 (24 + i)) = e.ent.getD i Cap.null)) ∧
  (∀ (s : State) (cx : CtxId) (k : BitVec 3),
    canIssue s cx { word := wReg 0x29 0 0 0 (k.toNat * 256), reads := [24, 25, 26, 27].take k.toNat } = true →
    k.toNat ≤ 4 →
    match (cpu s cx).held with
    | none => Traps (.sysr cx k) s cx { word := wReg 0x29 0 0 0 (k.toNat * 256) } { kind := 0x0C }
    | some none => ∃ t, exec (.sysr cx k) s = .next (ran cx t) ∧ (ctxAt t cx).held = none ∧ (ctxAt t cx).flags.z = true
    | some (some e) =>
      let x := cxOn (coreOf cx) e.cx
      x ≠ cx → ∃ t, exec (.sysr cx k) s = .next (ran cx t) ∧ (ctxAt t cx).held = none ∧ (ctxAt t cx).flags.z = false ∧
        (ctxAt t x).run = .ready ∧ (ctxAt t x).pcc = pccAt (ctxAt s x) (pcOf (ctxAt s x) + 4) ∧
        ((cpu s cx).cwp < 8 → (ctxAt s x).cwp < 8 → ∀ i, i < k.toNat →
          readReg (ctxAt t x) (BitVec.ofNat 5 (8 + i)) = readReg (cpu s cx) (BitVec.ofNat 5 (24 + i)))) ∧
  (∀ (s : State) (cx : CtxId), canIssue s cx { word := wReg 0x29 0 0 0 2 } = true →
    let core := coreOf cx
    let c := cpu s cx
    svcEff (begun s cx) core c.cust true = some (cxLow cx) →
    (∀ k ∈ regKeys c [24, 25, 26, 27, 28, 29, 30, 31], k ∉ pendingKeys c) →
    match faultQ (coreAt s core) c.cust with
    | [] => Runs (.takef cx) s cx fun c => { c with flags := { c.flags with z := true } }
    | r :: q => ∃ t, exec (.takef cx) s = .next (ran cx t) ∧ faultQ (coreAt t core) c.cust = q ∧
        (ctxAt t cx).flags.z = false ∧ t.mem = s.mem ∧
        (c.cwp < 8 → [24, 25, 26, 27, 28, 29, 30, 31].map (readReg (ctxAt t cx)) =
          [intCap r.fe0, intCap r.fe1, r.fe2, intCap r.fe3, intCap r.fe4, intCap r.fe5, intCap r.fe6, intCap r.fe7]))

/-- R46, R148 to R150: acting on another context of the core. The model's choices in it: RESUME and RESTART empty the
prefetch queue and withdraw a fetch and a walk (assumption log 21); KILL drains what its target has buffered, and waits while a
port takes none of it (assumption log 28). -/
def Obligations.ContextControlResults : Prop :=
  (∀ (s : State) (cx x : CtxId) (a : Reg), canIssue s cx { word := wReg 0x2A 0 a 0 0, reads := [a, 0] } = true →
    Targets s cx a x → (ctxAt s x).run = .parked → (ctxAt s x).bySysc = false →
    ∃ t, exec (.resume cx a) s = .next (ran cx t) ∧ t.mem = s.mem ∧
      ctxAt t x = { ctxAt s x with run := .ready, queue := [], fetch := none, walk := none } ∧
      ∀ r, r ∈ faultQ (coreAt t (coreOf cx)) true ++ faultQ (coreAt t (coreOf cx)) false → r.cx ≠ cxLow x) ∧
  (∀ (s : State) (cx x : CtxId) (a b : Reg), canIssue s cx { word := wReg 0x2A 0 a b 1, reads := [a, b] } = true →
    Targets s cx a x → (ctxAt s x).run = .parked → (ctxAt s x).bySysc = false →
    targetCheck (readReg (cpu s cx) b) = none →
    ∃ t, exec (.restart cx a b) s = .next (ran cx t) ∧ ctxAt t x = { ctxAt s x with
        run := .ready, pcc := targetPcc (readReg (cpu s cx) b), repAct := false, repCnt := 0, repU := false, queue := []
        fetch := none, walk := none } ∧ fcsrTpend (fpOf t x) = 0 ∧ t.mem = s.mem) ∧
  (∀ (s : State) (cx x : CtxId) (a : Reg), canIssue s cx { word := wReg 0x2A 0 a 0 2, reads := [a, 0] } = true →
    Targets s cx a x → (ctxAt s x).run ≠ .empty →
    ((ctxAt s x).stores = [] →
      ∃ t, exec (.kill cx a) s = .next (ran cx t) ∧ ctxAt t x = Ctx.empty ∧ fpOf t x = FpState.zero) ∧
    let u := drainAll (parkOp (begun s cx) x) x
    ((ctxAt u x).stores = [] → exec (.kill cx a) s = .next (ran cx (emptyCtx u x))) ∧
    ((ctxAt u x).stores ≠ [] → exec (.kill cx a) s = .next (stalled cx u .settle))) ∧
  (∀ (s : State) (cx x : CtxId) (a : Reg), canIssue s cx { word := wReg 0x2A 0 a 0 3, reads := [a, 0] } = true →
    Targets s cx a x → (ctxAt s x).run ≠ .empty → (ctxAt s x).run ≠ .parked →
    (inRepu (ctxAt s x) = true →
      exec (.park cx a) s = .next (ran cx (setCtx (begun s cx) x { ctxAt s x with parkDue := true }))) ∧
    (inRepu (ctxAt s x) = false → ∃ t, exec (.park cx a) s = .next (ran cx t) ∧ (ctxAt t x).run = .parked ∧ (ctxAt t x).bank = (ctxAt s x).bank ∧
      (ctxAt t x).pcc = (ctxAt s x).pcc ∧ (∀ p ∈ t.bellQ, x.toNat ∉ p.2) ∧ t.mem = s.mem)) ∧
  (∀ (s : State) (cx : CtxId) (level world : Bool) (i : BitVec 4) (a b : Reg),
    let ins : Ins := { word := wReg 0x2B 0 a b (b2n level * 32 + b2n world * 16 + i.toNat), reads := [a, b] }
    let x := cxOn (coreOf cx) i
    canIssue s cx ins = true →
    if (cpu s cx).super = true ∧ (cpu s cx).cust = true then
      x ≠ cx → (ctxAt s x).run = .empty → targetCheck (readReg (cpu s cx) a) = none →
      ∃ t, exec (.cxstart cx level world i a b) s = .next (ran cx t) ∧ t.mem = s.mem ∧
        (ctxAt t x).run = .ready ∧ (ctxAt t x).super = level ∧ (ctxAt t x).cust = world ∧
        (ctxAt t x).pcc = targetPcc (readReg (cpu s cx) a) ∧
        (∀ k, smGet Cap.null (ctxAt t x).bank k = if k = 1 then readReg (cpu s cx) b else Cap.null) ∧
        (ctxAt t x).em = true ∧ (ctxAt t x).depth = 0
    else Traps (.cxstart cx level world i a b) s cx ins { kind := 0x0D }) ∧
  (∀ (s : State) (cx : CtxId) (a : Reg), canIssue s cx { word := wReg 0x2A 0 a 0 2, reads := [a, 0] } = true →
    (cpu s cx).super = false → Traps (.kill cx a) s cx { word := wReg 0x2A 0 a 0 2 } { kind := 0x0D })

/-- R58, R59, R199, R452: the whole-cache operations of a cluster, what the end of one has done to each line, the write of
WAYEN, and the record of a failed write-back. The lines that WAYEN flushes are open (R55, assumption log 10). -/
def Obligations.WholeCacheResults : Prop :=
  (∀ (s : State) (cl : BitVec 3) (ic : InitClass), pageOn s .clu cl.toNat = true →
    let off := pg .clu cl.toNat + 0x108
    let lines (p : CLine → Bool) : List Nat := ((clusterAt s cl.toNat).lines.filter p).map (·.pa)
    let l1 := (coresOf cl.toNat).flatMap fun k => ((coreAt s k).l1d ++ (coreAt s k).l1i).map (·.pa)
    (rbit s off 0 = false →
      (∃ t, exec (.cleanAll cl ic) s = .next t ∧ rbit t off 0 = true ∧ t.mem = s.mem ∧
        (clusterAt t cl.toNat).maint = some (1, lines (·.dirty) ++ [])) ∧
      (∃ t, exec (.flushAll cl ic) s = .next t ∧ rbit t off 0 = true ∧ t.mem = s.mem ∧
        (clusterAt t cl.toNat).maint = some (2, lines (fun _ => true) ++ l1)) ∧
      (∃ t, exec (.invalidateAll cl ic) s = .next t ∧ rbit t off 0 = true ∧ t.mem = s.mem ∧
        (clusterAt t cl.toNat).maint = some (3, lines (fun _ => true) ++ l1))) ∧
    (rbit s off 0 = true → ∀ i ∈ [Instr.cleanAll cl ic, .flushAll cl ic, .invalidateAll cl ic],
      ∃ t, exec i s = .next t ∧ rbit t off 2 = true ∧ t.clusters = s.clusters ∧ t.mem = s.mem)) ∧
  (∀ (s : State) (cl : BitVec 3) (op : Nat) (ls : List Nat), (clusterAt s cl.toNat).maint = some (op, ls) →
    ∃ t, exec (.cmaintDone cl) s = .next t ∧ (clusterAt t cl.toNat).maint = none ∧
      rbit t (pg .clu cl.toNat + 0x108) 0 = false ∧ intRaw t .clu cl.toNat 0 = true) ∧
  (∀ (s : State) (cl : BitVec 3) (op : Nat) (ls : List Nat), (clusterAt s cl.toNat).maint = some (op, ls) →
    let n := cl.toNat
    let u := ls.foldl (fun u pa => maintLine u n op pa) s
    exec (.cmaintDone cl) s =
      .next (intSet (rsetB (setCluster u n { clusterAt u n with maint := none }) (pg .clu n + 0x108) 0 false) .clu n 0)) ∧
  (∀ (s : State) (cl pa : Nat) (l : CLine), findLine (clusterAt s cl).lines pa = some l → l.err = [] →
    l.data.bytes.length = 64 → isDram pa = true → pa % 64 = 0 → memOn s = true → s.mem.err = [] →
    let clean := maintLine s cl 1 pa
    let flush := maintLine s cl 2 pa
    let inval := maintLine s cl 3 pa
    let gone (t : State) : Prop := findLine (clusterAt t cl).lines pa = none ∧
      ∀ k ∈ coresOf cl, findLine (coreAt t k).l1d pa = none ∧ findLine (coreAt t k).l1i pa = none
    (l.dirty = true → memBytes clean.mem pa 64 = l.data.bytes) ∧ (l.dirty = false → clean.mem = s.mem) ∧
    (∀ a, a < pa ∨ pa + 64 ≤ a → memByte clean.mem a = memByte s.mem a) ∧
    findLine (clusterAt clean cl).lines pa = some { l with dirty := false } ∧
    (∀ q, q ≠ pa → findLine (clusterAt clean cl).lines q = findLine (clusterAt s cl).lines q) ∧
    flush.mem = clean.mem ∧ gone flush ∧ inval.mem = s.mem ∧ gone inval ∧
    (∀ t ∈ [flush, inval], ∀ q, q ≠ pa → findLine (clusterAt t cl).lines q = findLine (clusterAt s cl).lines q)) ∧
  (∀ (s : State) (cl : BitVec 3) (v : Word) (ic : InitClass), pageOn s .clu cl.toNat = true →
    rbit s (pg .clu cl.toNat + 0x108) 0 = true →
    ∃ t, exec (.wayenWrite cl v ic) s = .next t ∧ rbit t (pg .clu cl.toNat + 0x108) 2 = true ∧
      rget t (pg .clu cl.toNat + 0x110) = rget s (pg .clu cl.toNat + 0x110) ∧ t.clusters = s.clusters ∧ t.mem = s.mem) ∧
  (∀ (s : State) (cl : BitVec 3) (v : Word) (ic : InitClass), pageOn s .clu cl.toNat = true →
    rbit s (pg .clu cl.toNat + 0x108) 0 = false →
    ∃ t, exec (.wayenWrite cl v ic) s = .next t ∧ rget t (pg .clu cl.toNat + 0x110) = v &&& 0xFFFF ∧ t.mem = s.mem) ∧
  (∀ (s : State) (cl : BitVec 3) (n pa : Nat), (clusterAt s cl.toNat).wbErr[n]? = some pa →
    ∃ t, exec (.writebackError cl n) s = .next t ∧ (clusterAt t cl.toNat).wbErr = (clusterAt s cl.toNat).wbErr.eraseIdx n ∧
      intRaw t .clu cl.toNat 2 = true ∧ t.mem = s.mem ∧
      (intRaw s .clu cl.toNat 1 = false → intRaw s .clu cl.toNat 2 = false →
        rget t (pg .clu cl.toNat + 0x030) = wd pa ∧ rget t (pg .clu cl.toNat + 0x038) = 2) ∧
      (intRaw s .clu cl.toNat 1 = true ∨ intRaw s .clu cl.toNat 2 = true →
        rget t (pg .clu cl.toNat + 0x030) = rget s (pg .clu cl.toNat + 0x030) ∧
        rbit t (pg .clu cl.toNat + 0x038) 63 = true))

/-- R26, R30, R86, R196, R469: a transaction that its gate allows is performed at its target, and no byte outside it
changes; a write leaves its tags and, where it covers a granule, no poison but its own. One that the gate refuses
changes no memory and is recorded. One with no target changes nothing. -/
def Obligations.FabricTransactionResults : Prop :=
  (∀ (s : State) (x : Txn), targetOf x.pa = .nowhere → exec (.fabricTransaction x) s = .next s) ∧
  (∀ (s : State) (x : Txn) (ds : List Byte) (tags poison : List Bool),
    let g := gateOf (targetOf x.pa)
    x.op = .write ds tags poison → ds ≠ [] → s.mem.err = [] →
    ((∃ m, targetOf x.pa = .dram m) ∧ memOn s = true ∨ ∃ b, targetOf x.pa = .spad b ∧ bankOn s b = true) →
    gateDomainOn s g = true → injArmed s .gate g 1 = false →
    verdict s g x.pa x.cls { r := false, w := true, x := false } x.colour = none →
    ∃ t, exec (.fabricTransaction x) s = .next t ∧ t.ctxs = s.ctxs ∧
      (∀ n, n < ds.length → memByte t.mem (x.pa + n) = ds.getD n 0) ∧
      (∀ a, a < x.pa ∨ x.pa + ds.length ≤ a → memByte t.mem a = memByte s.mem a) ∧
      (∀ n, let gr := x.pa / 16 + n
        gr ≤ (x.pa + ds.length - 1) / 16 →
        let full := decide (x.pa ≤ 16 * gr) && decide (16 * gr + 16 ≤ x.pa + ds.length)
        memMeta t.mem (2 * gr) = (full && (decide (x.cls.toNat < 5) || decide (x.cls = 14)) && tags.getD n false) ∧
        memMeta t.mem (2 * gr + 1) = (poison.getD n false || (!full && memMeta s.mem (2 * gr + 1)))) ∧
      (∀ w, w / 2 < x.pa / 16 ∨ (x.pa + ds.length - 1) / 16 < w / 2 → memMeta t.mem w = memMeta s.mem w)) ∧
  (∀ (s : State) (x : Txn) (b : Nat),
    x.op = .read → s.mem.err = [] → targetOf x.pa = .spad b → bankOn s b = true → gateDomainOn s 5 = true →
    injArmed s .gate 5 1 = false → verdict s 5 x.pa x.cls { r := true, w := false, x := false } x.colour = none →
    exec (.fabricTransaction x) s = .next s ∧
    fabricTxn s x.pa x.n .read x.cls x.colour x.src.toNat 0 = (.ok (memRead s.mem x.pa x.n), s)) ∧
  (∀ (s : State) (x : Txn) (b : Nat) (v : Word),
    (x.op = .atomicAdd v ∨ x.op = .atomicSwap v) → x.n = 8 → s.mem.err = [] → targetOf x.pa = .spad b → bankOn s b = true →
    gateDomainOn s 5 = true → injArmed s .gate 5 1 = false →
    verdict s 5 x.pa x.cls { r := true, w := true, x := false } x.colour = none →
    (memRead s.mem x.pa 8).poison.any id = false →
    ∃ t, exec (.fabricTransaction x) s = .next t ∧
      memBytes t.mem x.pa 8 = leBytes 8 (if x.op = .atomicSwap v then v else wd (leNat (memBytes s.mem x.pa 8)) + v).toNat ∧
      (∀ a, a < x.pa ∨ x.pa + 8 ≤ a → memByte t.mem a = memByte s.mem a) ∧ memMeta t.mem (x.pa / 16 * 2) = false) ∧
  (∀ (s : State) (x : Txn) (v : Nat × Nat),
    let g := gateOf (targetOf x.pa)
    targetOf x.pa ≠ .nowhere → retried s x.pa x.n x.op (txnKey (opKinds x.op) x.cls x.colour x.src.toNat) = false →
    writeHeld s (targetOf x.pa) x.op = false → gateDomainOn s g = true → injArmed s .gate g 1 = false → verdict s g x.pa x.cls (opKinds x.op) x.colour = some v →
    ∃ t, exec (.fabricTransaction x) s = .next t ∧ t.mem = s.mem ∧ intRaw t .gate g 0 = true ∧
      (intRaw s .gate g 0 = false → rget t (pg .gate g + 0x030) = wd x.pa) ∧
      (intRaw s .gate g 0 = true → rget t (pg .gate g + 0x030) = rget s (pg .gate g + 0x030)))

/-- R200, R201: a swap of a valid set is PENDING, and DONE once what was judged under the old set has completed; it is
refused while LOCK is set. -/
def Obligations.GateSwapResults : Prop :=
  (∀ (s : State) (g : BitVec 4) (ic : InitClass), pageOn s .gate g.toNat = true →
    let st := pg .gate g.toNat + 0x108
    (rbit s (pg .gate g.toNat + 0x008) 0 = false → rfld s st 3 1 ≠ 1 →
      setMalformed s g.toNat (1 - activeSet s g.toNat) = false → setOverlap s g.toNat (1 - activeSet s g.toNat) = false →
      ∃ t, exec (.swap g ic) s = .next t ∧ activeSet t g.toNat = 1 - activeSet s g.toNat ∧ rfld t st 3 1 = 1 ∧
        t.mem = s.mem) ∧
    (rbit s (pg .gate g.toNat + 0x008) 0 = true → exec (.swap g ic) s = .next s) ∧
    (rbit s (pg .gate g.toNat + 0x008) 0 = false → rfld s st 3 1 ≠ 1 →
      setMalformed s g.toNat (1 - activeSet s g.toNat) = true →
      ∃ t, exec (.swap g ic) s = .next t ∧ activeSet t g.toNat = activeSet s g.toNat ∧ rfld t st 3 1 = 4 ∧
        intRaw t .gate g.toNat 2 = true)) ∧
  (∀ (s : State) (g : BitVec 4), rfld s (pg .gate g.toNat + 0x108) 3 1 = 1 → oldDone s g.toNat = false →
    exec (.swapDone g) s = .next s) ∧
  (∀ (s : State) (g : BitVec 4), rfld s (pg .gate g.toNat + 0x108) 3 1 = 1 → oldDone s g.toNat = true →
    ∃ t, exec (.swapDone g) s = .next t ∧ rfld t (pg .gate g.toNat + 0x108) 3 1 = 2 ∧
      activeSet t g.toNat = activeSet s g.toNat ∧ intRaw t .gate g.toNat 1 = true ∧ t.mem = s.mem)

/-- R180 to R188: the memory controllers and the scratchpad banks. -/
def Obligations.MemoryFieldResults : Prop :=
  (∀ (s : State) (m : Fin 5), exec (.dramRefresh m) s = .next s) ∧
  (∀ (s : State) (m : Fin 5), memOn s = true → tempMoved s m.val = true →
    ∃ t, exec (.recentre m) s = .next t ∧ rbit t (trainOff m.val) 1 = true ∧ t.mem = s.mem) ∧
  (∀ (s : State) (m : Fin 5) (ic : InitClass), pageOn s .mc m.val = true →
    ∃ t, exec (.retrain m ic) s = .next t ∧ rbit t (trainOff m.val) 1 = true ∧ t.mem = s.mem) ∧
  (∀ (s : State) (m : Fin 5), memOn s = true → inHold s = false → stopped s = false →
    let off := trainOff m.val
    (rbit s off 1 = true → training s = false → (∀ j, j < m.val → rbit s (trainOff j) 1 = false) →
      ∃ t, exec (.retrainStep m true) s = .next t ∧ rbit t off 0 = true ∧ rbit t off 1 = false ∧ rfld t off 7 4 = 1 ∧
        rfld t off 39 32 = rfld s (pg .orr + 0x300 + 8 * (32 + m.val)) 9 2 ∧ t.mem = s.mem) ∧
    (rbit s off 0 = true → rfld s off 23 16 = 0 → rfld s off 7 4 < 15 →
      ∃ t, exec (.retrainStep m true) s = .next t ∧ rbit t off 0 = true ∧ rfld t off 7 4 = rfld s off 7 4 + 1) ∧
    (rbit s off 0 = true → rfld s off 23 16 = 0 → rfld s off 7 4 = 15 →
      ∃ t, exec (.retrainStep m true) s = .next t ∧ rbit t off 0 = false ∧ intRaw t .mc m.val 3 = true) ∧
    (rbit s off 0 = true → rfld s off 23 16 = 0 →
      ∃ t, exec (.retrainStep m false) s = .next t ∧ rfld t off 23 16 = 1 ∧ rfld t off 7 4 = rfld s off 7 4) ∧
    (rbit s off 0 = true → rfld s off 23 16 ≠ 0 → rfld s off 7 4 < 15 →
      ∃ t, exec (.retrainRetry m true) s = .next t ∧ rfld t off 23 16 = 0 ∧ rfld t off 7 4 = rfld s off 7 4 + 1) ∧
    (rbit s off 0 = true → rfld s off 23 16 = 2 → rfld s off 7 4 < 15 →
      ∃ t, exec (.retrainRetry m false) s = .next t ∧ rfld t off 23 16 = 0 ∧ rfld t off 7 4 = rfld s off 7 4 + 1 ∧
        intRaw t .mc m.val 2 = true)) ∧
  (∀ (s : State) (m : Fin 5), memOn s = true → rbit s (pg .mc m.val + 0x100) 32 = true → inHold s = false →
    training s = false → stopped s = false → s.mem.err = [] →
    let pos := pg .mc m.val + 0x108
    ∃ t, exec (.scrubPair m) s = .next t ∧ t.mem = s.mem ∧
      (setHas m.val s.scrubHalf = false → setHas m.val t.scrubHalf = true ∧ rfld t pos 28 0 = rfld s pos 28 0) ∧
      (setHas m.val s.scrubHalf = true → setHas m.val t.scrubHalf = false ∧
        rfld t pos 28 0 = if rfld s pos 28 0 + 5 < 2 ^ 29 then rfld s pos 28 0 + 5 else m.val)) ∧
  (∀ (s : State) (b : BitVec 8) (w : Nat) (e : BitVec 80), domOn s 1 = true → bankOn s b.toNat = true → inHold s = false →
    training s = false → stopped s = false → s.mem.err = [(w, e)] → e ≠ 0 →
    bankBase b.toNat ≤ 8 * w → 8 * w < bankBase (b.toNat + 1) →
    injArmed s .spad 0 1 = false → injArmed s .spad 0 2 = false → injArmed s .spad 0 3 = false →
    let d := decodeWord (storedWord s.mem w)
    d.out ≠ 3 → ∃ t, exec (.bankSelfScrub b) s = .next t ∧ t.mem.err = [] ∧ memWord t.mem w = d.data ∧
      memMeta t.mem w = d.m ∧ ∀ a, a / 8 ≠ w → memByte t.mem a = memByte s.mem a) ∧
  (∀ (s : State) (b : BitVec 8) (v : Word) (ic : InitClass), pageOn s .spad 0 = true → b.toNat < 248 →
    let x := fld v (b.toNat % 32 * 2 + 1) (b.toNat % 32 * 2)
    x ≠ 2 →
    ∃ t, exec (.bankreqWrite (BitVec.ofNat 3 (b.toNat / 32)) v ic) s = .next t ∧ bankReq t b.toNat = x ∧
      bankState t b.toNat = (if bankState s b.toNat = x then x else 2)) ∧
  (∀ (s : State) (b : BitVec 8), bankState s b.toNat = 2 →
    ∃ t, exec (.bankTransitionDone b) s = .next t ∧ bankState t b.toNat = bankReq s b.toNat ∧
      intRaw t .spad 0 3 = true ∧ t.mem = s.mem)

/-- R169 to R173: the decoder corrects any one and any two inverted bits of a codeword. -/
def Obligations.WordCodeCorrects : Prop :=
  (∀ (d : Word) (m : Bool), decodeWord (encodeWord d m) = { data := d, m := m, out := 0, s1 := 0, s3 := 0, p := 0 }) ∧
  (∀ (d : Word) (m : Bool) (i : Nat), i < 80 →
    let r := decodeWord (encodeWord d m ^^^ (1 <<< i))
    r.data = d ∧ r.m = m ∧ r.out = 1) ∧
  (∀ (d : Word) (m : Bool) (i j : Nat), i < 80 → j < 80 → i ≠ j →
    let r := decodeWord (encodeWord d m ^^^ (1 <<< i) ^^^ (1 <<< j))
    r.data = d ∧ r.m = m ∧ r.out = 2)

/-- R206, R217, R219, R220, R224, R227: the commands of a Mover channel. -/
def Obligations.MoverCommandResults : Prop :=
  (∀ (s : State) (ch : BitVec 6), 512 + 8 * ch.toNat + 7 ∈ s.bells → movHalted s = false →
    ∃ t, exec (.kickBell ch) s = .next t ∧ 512 + 8 * ch.toNat + 7 ∉ t.bells ∧ t.mem = s.mem ∧
      (chState s ch.toNat = 3 → chState t ch.toNat = 2 ∧ (movAt t ch.toNat).phase = .fetch) ∧
      (chState s ch.toNat = 2 → chState t ch.toNat = 2 ∧ rbit t (chStatOff ch.toNat) 8 = true)) ∧
  (∀ (s : State) (ch : BitVec 6) (ic : InitClass), pageOn s .movch ch.toNat = true → movHalted s = false →
    let n := ch.toNat
    let st := chStatOff n
    (chState s n = 1 → rbit s st 7 = false →
      (∃ t, exec (.movchStart ch ic) s = .next t ∧ chState t n = 2 ∧ (movAt t n).phase = .anchor ∧
        (movAt t n).step = false ∧ (movAt t n).credit = 4096 ∧ rfld t st 39 32 = 0 ∧ t.mem = s.mem) ∧
      (∃ t, exec (.movchStep ch ic) s = .next t ∧ chState t n = 2 ∧ (movAt t n).phase = .anchor ∧
        (movAt t n).step = true ∧ rfld t st 39 32 = 0 ∧ t.mem = s.mem)) ∧
    (chState s n = 3 → ∃ t, exec (.movchKick ch ic) s = .next t ∧ chState t n = 2 ∧ (movAt t n).phase = .fetch) ∧
    (chState s n = 2 → ∃ t, exec (.movchKick ch ic) s = .next t ∧ chState t n = 2 ∧ rbit t st 8 = true) ∧
    (chState s n ≠ 0 → chState s n ≠ 4 →
      ∃ t, exec (.arm ch ic) s = .next t ∧ rbit t st 7 = true ∧ chState t n = chState s n ∧ t.movs = s.movs) ∧
    (chState s n = 0 → ∃ t, exec (.enable ch ic) s = .next t ∧ chState t n = 1 ∧ t.movs = s.movs)) ∧
  (∀ (s : State) (ch : BitVec 6) (ic : InitClass), pageOn s .movch ch.toNat = true → chState s ch.toNat ≠ 0 →
    ∃ t, exec (.disable ch ic) s = .next t ∧ chState t ch.toNat = 0 ∧ (movAt t ch.toNat).phase = .idle ∧
      (unitAt t (ch.toNat / 16)).cur ≠ some ch.toNat ∧ t.mem = s.mem) ∧
  (∀ (s : State) (ic : InitClass), pageOn s .mov 0 = true → (∃ n, n < 64 ∧ chState s n = 4) →
    ∃ t, exec (.gctrlClear ic) s = .next t ∧ movHalted t = false ∧
      (∀ n, n < 64 → chState t n = if chState s n = 4 then 1 else chState s n) ∧ t.mem = s.mem)

/-- R205, R210 to R223, R225, R226: what the Mover does by itself, one beat at a time. The model's choices in it: how much one
beat carries and which transfer a unit goes on with (assumption log 36), that an error halts the Mover in a command of its own
(assumption log 38), and the order in which a beat of COMPARE or SWEEP reads and ends (assumption log 39). -/
def Obligations.MoverWorkResults : Prop :=
  (∀ (s t : State) (ch : BitVec 6) (d : RData),
    let n := ch.toNat
    movLive s n = true → (movAt s n).phase = .anchor →
    fabricTxn s (spadBase + rfld s (pg .mov + 0x100) 25 11 * 2048 + (2 * n + chBank s n) * 16) 16 .read 4 0 n 0 = (.ok d, t) →
    d.poison.any id = false → headCheck (granCap d 0) 128 = none →
    exec (.moverAnchorRead ch) s = .next (setMov t n { movAt s n with phase := .fetch, head := granCap d 0 })) ∧
  (∀ (s t : State) (ch : BitVec 6) (pa : Nat) (d : RData),
    let n := ch.toNat
    let va := capCursor (movAt s n).head
    let s1 := rset s (pg .movch n + 0x110) (wd va)
    movLive s n = true → (movAt s n).phase = .fetch →
    descFetch (chReq s1 n) 4 n (movAt s n).head va s1 = (.ok (pa, d), t) → d.poison.any id = false →
    (bitAt (mdWord d 0) 63 = true → exec (.moverDescriptorFetch ch) s = .next (movAccept t n d)) ∧
    (bitAt (mdWord d 0) 63 = false → rbit t (chStatOff n) 8 = true →
      exec (.moverDescriptorFetch ch) s = .next (rsetB t (chStatOff n) 8 false)) ∧
    (bitAt (mdWord d 0) 63 = false → rbit t (chStatOff n) 8 = false →
      ∃ u, exec (.moverDescriptorFetch ch) s = .next u ∧ chState u n = 3 ∧ (movAt u n).phase = .idle ∧ u.mem = t.mem)) ∧
  (∀ (s : State) (n : Nat) (d : RData), mdReject d ≠ 0 →
    (movAt (movAccept s n d) n).phase = .ending ∧ fld (movAt (movAccept s n d) n).stat 7 0 = 7 ∧
      (movAccept s n d).mem = s.mem) ∧
  (∀ (s : State) (u : BitVec 2) (n : Nat), s.movErr = none → movHalted s = false → stopped s = false →
    s.power.nadir = false → unitPick s u.toNat = some n → (unitAt s u.toNat).cur ≠ some n →
    ∃ t, exec (.unitSelect u) s = .next t ∧ (unitAt t u.toNat).cur = some n ∧ (movAt t n).phase = .moving ∧
      t.mem = s.mem ∧ t.regs = s.regs) ∧
  (∀ (s s1 s2 s3 : State) (ch : BitVec 6) (sp dp : List XPiece) (rs : List (XPiece × RData)),
    let n := ch.toNat
    let d := (movAt s n).desc
    let m := beatLen d (movAt s n).done
    movBeat s n 1 = true → beatPieces s n false needR m = (.ok sp, s1) → beatPieces s1 n true needW m = (.ok dp, s2) →
    beatRead s2 n sp = (.ok rs, s3) →
    exec (.copy ch) s = .next (match firstPoison rs with
      | some k => beatEnd s3 n 0 4 k
      | none => beatWrite s3 n m dp (rs.flatMap fun x => x.2.bytes) (copyTag d rs))) ∧
  (∀ (s s1 : State) (ch : BitVec 6) (dp : List XPiece),
    let n := ch.toNat
    let d := (movAt s n).desc
    let k := (movAt s n).done
    let m := beatLen d k
    movBeat s n 2 = true → beatPieces s n true needW m = (.ok dp, s1) →
    exec (.fill ch) s = .next (beatWrite s1 n m dp
      ((List.range m).map fun i => BitVec.ofNat 8 ((mdWord d 8).toNat / 256 ^ ((k + i) % 8))) fun _ => false)) ∧
  (∀ (s s1 s2 s3 : State) (ch : BitVec 6) (sp dp : List XPiece) (rs : List (XPiece × RData)),
    let n := ch.toNat
    let d := (movAt s n).desc
    let m := beatLen d (movAt s n).done
    let k := (movAt s n).done
    movBeat s n 3 = true → (mdCmpv d = false → beatPieces s n false needR m = (.ok sp, s1)) →
    (mdCmpv d = true → sp = [] ∧ s1 = s) →
    beatPieces s1 n true needR m = (.ok dp, s2) → beatRead s2 n (sp ++ dp) = (.ok rs, s3) →
    let a := if mdCmpv d then (List.range m).map fun i => BitVec.ofNat 8 ((mdWord d 8).toNat / 256 ^ ((k + i) % 8))
      else (rs.take sp.length).flatMap fun r => r.2.bytes
    let b := (rs.drop sp.length).flatMap fun r => r.2.bytes
    let pa := firstPoison (rs.take sp.length)
    let pb := firstPoison (rs.drop sp.length)
    let differs (j : Nat) : Prop :=
      j < a.length ∧ j < b.length ∧ a.getD j 0 ≠ b.getD j 0 ∧ ∀ i, i < j → a.getD i 0 = b.getD i 0
    (pa = none → pb = none →
      ((∀ j, ¬differs j) → exec (.compare ch) s = .next (beatDone s3 n m id)) ∧
      (∀ j, differs j → exec (.compare ch) s = .next (beatEnd s3 n 0 1 (j + k)))) ∧
    (∀ q side, (pa = some q ∧ side = 0 ∧ ∀ q', pb = some q' → q ≤ q') ∨ (pb = some q ∧ side = 1 ∧ ∀ q', pa = some q' → q < q') →
      ((∀ j, differs j → q ≤ j + k) → exec (.compare ch) s = .next (beatEnd s3 n side 4 q)) ∧
      (∀ j, differs j → j + k < q → exec (.compare ch) s = .next (beatEnd s3 n 0 1 (j + k))))) ∧
  (∀ (s s1 s2 s3 : State) (ch : BitVec 6) (dp : List XPiece),
    let n := ch.toNat
    let d := (movAt s n).desc
    let m := beatLen d (movAt s n).done
    movBeat s n 4 = true → beatPieces s n true (needR + needW) m = (.ok dp, s1) → piecesReadyK { r := true, w := true, x := false } 4 n dp s1 = (true, s2) →
    sweepPieces n (mdWord d 0x60).toNat (mdWord d 0x68).toNat dp s2 = (none, s3) →
    exec (.sweep ch) s = .next (beatDone s3 n m fun _ => (movAt s3 n).count)) ∧
  (∀ (s s1 s2 : State) (ch : BitVec 6),
    let n := ch.toNat
    let m := movAt s n
    movLive s n = true → m.phase = .ending → m.last = none →
    movCplWrite s n 0x70 6 (leBytes 8 m.stat.toNat ++ leBytes 8 m.result.toNat) = (.ok (), s1) →
    movCplWrite s1 n 0 7 (leBytes 8 (mdWord m.desc 0 &&& 0x7FFFFFFFFFFFFFFF).toNat) = (.ok (), s2) →
    exec (.moverDescriptorComplete ch) s = .next (movFollow s2 n)) ∧
  (∀ (s : State) (e : BusErr), s.movErr = some e → intRaw s .mov 0 0 = false →
    ∃ t, exec .moverHalt s = .next t ∧ movHalted t = true ∧ t.movErr = none ∧ intRaw t .mov 0 0 = true ∧
      rget t (pg .mov + 0x030) = wd e.pa ∧ t.mem = s.mem ∧
      (∀ n, n < 64 → chState t n = if chState s n = 2 ∨ chState s n = 3 then 4 else chState s n) ∧
      (∀ n, n < 64 → chState s n = 2 ∨ chState s n = 3 → rfld t (chStatOff n) 11 9 = chState s n))

/-- R238 to R245, R331: the commands of an engine's rings, and what the rings do by themselves; the Cipher takes the key slot
that the handle names with the descriptor, over its private path. A write of software to the bytes of an accepted descriptor
is noted in it, and its RESULT is then open (R246). That only an accepted descriptor is watched (assumption log 84), which
ring's fetch comes next, the rotation it leaves, and that descriptors are accepted ahead of the one that runs, are the model's
choice (assumption log 42). -/
def Obligations.EngineRingResults : Prop :=
  (∀ (s : State) (e : Eng) (r : BitVec 4) (ic : InitClass), pageOn s (engPage e) 0 = true →
    let n := r.toNat
    let st := rstatOff e n
    (ringState s e n = 0 → ringLog2n s e n ≠ 0 →
      (∃ t, exec (.rcmdStart e r ic) s = .next t ∧ ringState t e n = 1 ∧ (ringAt t e n).phase = .anchor ∧
        ringHead t e n = ringHead s e n ∧ rfld t st 39 32 = 0 ∧ t.mem = s.mem) ∧
      (∃ t, exec (.rewind e r ic) s = .next t ∧ ringState t e n = 1 ∧ (ringAt t e n).phase = .anchor ∧
        ringHead t e n = 0 ∧ t.mem = s.mem)) ∧
    (ringState s e n = 2 → ∃ t, exec (.rcmdKick e r ic) s = .next t ∧ ringState t e n = 1 ∧ (ringAt t e n).phase = .fetch) ∧
    (ringState s e n = 1 → ∃ t, exec (.rcmdKick e r ic) s = .next t ∧ rbit t st 8 = true ∧ ringState t e n = 1) ∧
    ((ringState s e n = 1 ∨ ringState s e n = 2) → (ringAt s e n).descs = [] →
      ∃ t, exec (.stop e r ic) s = .next t ∧ ringState t e n = 0 ∧ rfld t st 39 32 = 0 ∧
        intRaw t (engPage e) 0 1 = true ∧ t.mem = s.mem) ∧
    ((ringState s e n = 1 ∨ ringState s e n = 2) → (ringAt s e n).descs ≠ [] →
      ∃ t, exec (.stop e r ic) s = .next t ∧ ringState t e n = 3 ∧ (ringAt t e n).descs = (ringAt s e n).descs)) ∧
  (∀ (s : State) (e : Eng) (r : BitVec 4),
    let b := 1024 + 64 * engNum e + 4 * r.toNat + 3
    b ∈ s.bells → ringState s e r.toNat = 2 →
    ∃ t, exec (.ringKickBell e r) s = .next t ∧ b ∉ t.bells ∧ ringState t e r.toNat = 1 ∧
      (ringAt t e r.toNat).phase = .fetch) ∧
  (∀ (s t : State) (e : Eng) (r : BitVec 4) (d : RData),
    let n := r.toNat
    ringLive s e n .anchor = true →
    fabricTxn s (spadBase + rfld s (pg (engPage e) + 0x800) 25 8 * 256 + 16 * n) 16 .read 5 0 (fetchSrc e n) 0 = (.ok d, t) →
    d.poison.any id = false → headCheck (granCap d 0) (128 * 2 ^ ringLog2n t e n) = none →
    exec (.engineAnchorRead e r) s = .next (setRing t e n { ringAt t e n with phase := .fetch, anchor := granCap d 0 })) ∧
  (∀ (s t : State) (e : Eng) (r : BitVec 4) (pa : Nat) (d : RData),
    let n := r.toNat
    let s0 := if fetchSent s e n then s else ringChosen s e 0 n
    let va := capCursor (ringAt s e n).anchor + 128 * ringHead s0 e n
    ringFetch s e n = true → (fetchSent s e n = true ∨ fetchTurn s e n = true) →
    descFetch (ringReq s0 e n) 5 (fetchSrc e n) (ringAt s e n).anchor va s0 = (.ok (pa, d), t) → d.poison.any id = false →
    (bitAt (edWord d 0) 63 = true → e ≠ .cph →
      ∃ u, exec (.engineDescriptorFetch e r) s = .next u ∧ u.mem = t.mem ∧
        (ringAt u e n).descs.length = (ringAt t e n).descs.length + 1 ∧
        ringHead u e n = (ringHead t e n + 1) % 2 ^ ringLog2n t e n) ∧
    (bitAt (edWord d 0) 63 = true → e = .cph → t.mem.err = [] →
      let slot := spadBase + 0x3E00000 + 128 * capCursor (edSlot d 1)
      let named := decide (handleWhy (edSlot d 1) = 0)
      ∃ u x, exec (.engineDescriptorFetch e r) s = .next u ∧ u.mem = t.mem ∧
        (ringAt u e n).descs = (ringAt t e n).descs ++ [x] ∧ x.raw = d ∧ x.wiped = false ∧
        x.aux = (if named then memBytes t.mem slot 128 else []) ∧
        x.auxBad = (named && (grans slot 128).any fun g => memMeta t.mem (2 * g + 1)) ∧
        ringHead u e n = (ringHead t e n + 1) % 2 ^ ringLog2n t e n) ∧
    (bitAt (edWord d 0) 63 = false → rbit t (rstatOff e n) 8 = false →
      ∃ u, exec (.engineDescriptorFetch e r) s = .next u ∧ ringState u e n = 2 ∧ (ringAt u e n).phase = .idle ∧
        u.mem = t.mem)) ∧
  (∀ (s s1 s2 : State) (e : Eng) (r : BitVec 4) (d : EngDesc) (status result : Word),
    let n := r.toNat
    descAt s e n 0 = some d → d.fin = some (status, result) → d.last = none → engLive s e = true → (ringAt s e n).err = none →
    let drawn := if d.torn then { s with free := s.free + 1 } else s
    let given := if d.torn then Config.freeWord s.free else result
    engCplWrite drawn e n d 0x70 6 (leBytes 8 status.toNat ++ leBytes 8 given.toNat) = (.ok (), s1) →
    engCplWrite s1 e n d 0 7 (leBytes 8 (edWord d.raw 0 &&& 0x7FFFFFFFFFFFFFFF).toNat) = (.ok (), s2) →
    exec (.engineDescriptorComplete e r) s = .next (engFollow s2 e n d (fld status 7 0))) ∧
  (∀ (s : State) (e : Eng) (r i pa n : Nat) (d : EngDesc), descAt s e r i = some d →
    descAt (softWrite s pa n) e r i = some { d with torn := d.torn || usesHit pa n d.uses }) ∧
  (∀ (s : State) (e : Eng) (r : BitVec 4) (x : BusErr), (ringAt s e r.toNat).err = some x →
    exec (.engineBusError e r) s = .next
      (let t := engRecord s e r.toNat x
       engEnd (setRing t e r.toNat { ringAt t e r.toNat with err := none }) e r.toNat (x.who.getD 0) 3 x.side x.cause))

/-- R254 to R260: the Chunker. A stream begun with FIRST, or continued from its carry block, is cut byte by byte, its
records and its carry block are written, and FPRINT gives the digest of the domain ID and the input. -/
def Obligations.ChunkerResults : Prop :=
  ∀ (s : State) (r : BitVec 4) (i : Nat),
    let ins (f : EngForm) : List EngSlot := f.exts.filter fun x => decide (x.side < 2)
    EngOp (.chunk r i) s .chk r i 1 (fun d _ => edFlag d.raw 10 = true ∨ i = 0) (fun d => chunkForm d.raw)
      (fun d => ins (chunkForm d.raw))
      (fun d b u =>
        match if edFlag d.raw 10 then some { h := 0, n := 0, hs := [], pend := [], off := 0, recs := [] } else carryIn (b 1) with
        | none => engCode u .chk r.toNat i 0x11 0
        | some x0 =>
          let x := (b 0).foldl (chunkByte (rget u (pg .chk + 0x100)) (edParam d.raw 1)) x0
          if edFlag d.raw 11 then
            engOk u .chk r.toNat i [(outSlot d.raw 2 ((chunkLast x).recs.reverse.flatMap id).length,
              (chunkLast x).recs.reverse.flatMap id)] ((chunkLast x).n * 2 ^ 32 + (chunkLast x).recs.length)
          else
            engOk u .chk r.toNat i [(outSlot d.raw 2 (x.recs.reverse.flatMap id).length, x.recs.reverse.flatMap id),
              (outSlot d.raw 3 (carryOut x).length, carryOut x)] (x.n * 2 ^ 32 + x.recs.length)) ∧
    EngOp (.fprint r i) s .chk r i 2 (fun _ _ => True) (fun d => fprintForm d.raw) (fun d => ins (fprintForm d.raw))
      (fun d b u =>
        let fp := sha256 (leBytes 8 (edParam d.raw 1).toNat ++ b 0)
        if edFlag d.raw 10 = false then engOk u .chk r.toNat i [(outSlot d.raw 2 fp.length, fp)] (leAt fp 0 8)
        else if b 1 = fp then engOk u .chk r.toNat i [] (leAt fp 0 8)
        else engCode u .chk r.toNat i 0x10 (leAt fp 0 8))

/-- R254, R257: the digest that the Chunker keeps byte by byte is SHA-256 of the domain ID and the chunk. -/
def Obligations.ChunkDigestIsSha256 : Prop :=
  ∀ (x : ChunkSt) (dom : Word) (bs : List Byte),
    let y := bs.foldl absorb (chunkBegin x dom)
    shaEnd y.hs y.pend.reverse (8 + bs.length) = sha256 (leBytes 8 dom.toNat ++ bs)

/-- R262 to R271: the Index. That a row names position 0 of its ring, that the change of the batch is held with its
descriptor until it completes, how an OPEN waits (assumption log 44), and how the table is open once software wrote to it
(assumption log 84) are the model's choice. -/
def Obligations.IndexResults : Prop :=
  ∀ (s : State) (r : BitVec 4),
    let n := r.toNat
    let bat := pg .idx + 0x118
    let opened (u : State) (d : EngDesc) : State :=
      let e := rget u (pg .idx + 0x110)
      let v := { u with batch := some { ring := n, bind := rcfg u .idx n, cap := edSlot d.raw 0, nb := (edParam d.raw 1).toNat,
                                        chg := [], look := 0, news := [], torn := false
                                        uses := tableUses u n (edSlot d.raw 0) (edParam d.raw 1).toNat } }
      engOk (rset (rset v (pg .idx + 0x120) e) bat (wd (2 ^ 63 + n * 2 ^ 48))) .idx n 0 [] e.toNat
    let cnt (d : EngDesc) : Nat := (edParam d.raw 0).toNat
    let next (u : State) (b : Batch) : State :=
      modDesc (descUse u .idx n 0 b.uses b.torn) .idx n 0 fun d => { d with next := some b }
    (∀ d s1 t, engPlaced s .idx n 0 1 false = some (d, s1) → engPass s1 .idx n 0 d.raw (idxOpenForm s1 d.raw) = some t →
      t.batch = none → (edFlag d.raw 10 = true → edParam d.raw 0 = rget t (pg .idx + 0x110)) → rbit t bat 62 = false →
      exec (.openBatch r 0) s = .next (opened t d)) ∧
    (∀ d t, engWaits s .idx n 1 = some d → d.begun = false → engPass s .idx n 0 d.raw (idxOpenForm s d.raw) = some t →
      exec (.openBatch r 0) s = .next (modDesc t .idx n 0 fun d => { d with begun := true, issued := false })) ∧
    (∀ d s1, engPlaced s .idx n 0 1 true = some (d, s1) → s1.batch = none →
      (edFlag d.raw 10 = true → edParam d.raw 0 = rget s1 (pg .idx + 0x110)) → rbit s1 bat 62 = false →
      exec (.openProceed r 0) s = .next (opened (engIssued s1 .idx n 0 true) d)) ∧
    (∀ b d s1 t, engPlaced s .idx n 0 (edOp d.raw) false = some (d, s1) → t.batch = some b → b.ring = n →
      (∀ x u, edOp d.raw = 2 →
        engPass s1 .idx n 0 d.raw (idxForm s1 d.raw 1 [0, 2] [0] [inSlot d.raw 0 (48 * cnt d), outSlot d.raw 2 (16 * cnt d)]
          (idxNBad d.raw)) = some t →
        b.look + cnt d ≤ 65536 → engInput t .idx n [inSlot d.raw 0 (48 * cnt d)] = some (x, u) →
        let y := ((List.range (cnt d)).map fun k => sliceZ (x 0) (48 * k) 48).foldl (lookOne (rbit u (pg .idx + 0x100) 0))
          { tab := { st := u, bat := b, memo := [], got := [], bad := none }, out := [], ord := b.look, news := b.news, found := 0, new := 0 }
        y.tab.bad = none →
        exec (.lookup r 0) s = .next (engOk (next y.tab.st { b with look := b.look + cnt d, news := y.news })
          .idx n 0 [engOut d.raw 2 (y.out.reverse.flatMap id)] (y.found * 2 ^ 32 + y.new))) ∧
      (∀ x u, engPass s1 .idx n 0 d.raw (idxForm s1 d.raw 1 [0] [0] [inSlot d.raw 0 (32 * cnt d)] (idxNBad d.raw)) = some t →
        b.chg.length + cnt d ≤ 65536 → engInput t .idx n [inSlot d.raw 0 (32 * cnt d)] = some (x, u) →
        let app (rm : Bool) : State := engOk (next u { b with
          chg := b.chg ++ (List.range (cnt d)).map fun k => (rm, sliceZ (x 0) (32 * k) 32) }) .idx n 0 [] (cnt d)
        (edOp d.raw = 3 → exec (.insert r 0) s = .next (app false)) ∧ (edOp d.raw = 4 → exec (.remove r 0) s = .next (app true))) ∧
      (∀ last u, edOp d.raw = 5 → cnt d = 0 → engPass s1 .idx n 0 d.raw (idxForm s1 d.raw 1 [] [0] [] false) = some t →
        let p := (commitPlan t b).1
        p.bad = none → commitHeld b p.memo (ringReq p.st .idx n) [] p.st = false →
        commitWrite b p.memo none p.st = (.ok last, u) →
        let v := commitTorn u n 0 b
        let epoch := rget v (pg .idx + 0x110) + 1
        exec (.commit r 0) s = .next (engWriteAfter (rset (batchClose v) (pg .idx + 0x110) epoch) .idx n 0 last [] 0 epoch)) ∧
      (edOp d.raw = 6 → engPass s1 .idx n 0 d.raw (idxForm s d.raw 1 [] [] [] false) = some t →
        exec (.abort r 0) s = .next (engOk (batchClose t) .idx n 0 [] (rget t (pg .idx + 0x110)).toNat))) ∧
    (∀ (b : Batch) (ic : InitClass), pageOn s .idx 0 = true → s.batch = some b → ringState s .idx b.ring = 0 →
      ∃ t, exec (.idxCmdAbort ic) s = .next t ∧ t.batch = none ∧ rbit t bat 63 = false ∧ t.mem = s.mem)

/-- R280 to R289: the Condenser. Which frame PCOMP writes within what R282 and R283 fix (`pcompFrame`, assumption log 45) and
which earlier descriptors a dictionary operation waits for (assumption log 47) are the model's choice. -/
def Obligations.CondenserResults : Prop :=
  ∀ (s : State) (r : BitVec 4) (i : Nat),
    let n := r.toNat
    let one (d : EngDesc) : List EngSlot := [inSlot d.raw 0 (fld (edParam d.raw 0) 31 0)]
    let put (u : State) (d : EngDesc) (f : List Byte) : State := engOk u .cdn n i [(outSlot d.raw 2 f.length, f)] f.length
    EngOp (.pcomp r i) s .cdn r i 1 (fun d _ => edFlag d.raw 11 = false)
      (fun d => pcompForm d.raw) one
      (fun d b u => put u d
        (pcompFrame (fld (edParam d.raw 1) 3 0) (edFlags d.raw) 0 (edFlag d.raw 10) [] (b 0) ZDict.none)) ∧
    (∀ d s1 t b u out v, engPlaced s .cdn n i 2 false = some (d, s1) →
      engPass s1 .cdn n i d.raw (pdecForm d.raw) = some t → engInput t .cdn n (one d) = some (b, u) →
      pdecLoop n i (b 0).toArray (cdnC d.raw) (if edFlag d.raw 10 then some (cdnSlot d.raw) else none)
        (cdnL d.raw + 1) 0 0 [] 0 [] u = (.ok (out, none), v) →
      exec (.pdec r i) s = .next (put v d out)) ∧
    EngOp (.denc r i) s .cdn r i 8 (fun d t => d.lane.any t.laneBad.contains = false) (fun d => dencForm d.raw) one
      (fun d b u => put u d (dfEncode (b 0))) ∧
    EngOp (.ddec r i) s .cdn r i 9 (fun d t => d.lane.any t.laneBad.contains = false) (fun d => ddecForm d.raw) one
      (fun d b u => match dfFrame (b 0) (cdnC d.raw) with
        | .ok out => put u d out
        | .error code => engWrite u .cdn n i [(outSlot d.raw 2 (List.replicate (cdnC d.raw) 0).length,
            List.replicate (cdnC d.raw) 0)] (engStatus 0 0 0 code) 0) ∧
    EngOp (.dload r 0) s .cdn r 0 3 (fun _ _ => True) (fun d => dloadForm d.raw) one
      (fun d b u => dloadDo u n 0 d.raw (b 0)) ∧
    EngOp0 (.dfree r 0) s .cdn r 0 4 (fun d => dfreeForm d.raw)
      (fun d u => engOk (setDict u (cdnSlot d.raw) none) .cdn n 0 [] 0) ∧
    (∀ d t, engWaits s .cdn n 3 = some d → d.begun = false → engPass s .cdn n 0 d.raw (dloadForm d.raw) = some t →
      exec (.dload r 0) s = .next (modDesc t .cdn n 0 fun d => { d with begun := true, issued := false })) ∧
    (∀ d t, engWaits s .cdn n 4 = some d → d.begun = false → engPass s .cdn n 0 d.raw (dfreeForm d.raw) = some t →
      exec (.dfree r 0) s = .next (modDesc t .cdn n 0 fun d => { d with begun := true, issued := false })) ∧
    (∀ d s1, engPlaced s .cdn n 0 4 true = some (d, s1) →
      exec (.dictOpProceed r 0) s = .next (engOk (setDict (engIssued s1 .cdn n 0 true) (cdnSlot d.raw) none) .cdn n 0 [] 0)) ∧
    (∀ d s1 u b, engPlaced s .cdn n 0 3 true = some (d, s1) →
      engInput (engIssued s1 .cdn n 0 true) .cdn n (one d) = some (b, u) →
      exec (.dictOpProceed r 0) s = .next (dloadDo u n 0 d.raw (b 0)))

/-- R310 to R320: the Coder. That RUN makes its reads before its writes, what a lane holds after it, and the WHY and pc of a
program that breaks several rules are the model's choice (assumption log 48). -/
def Obligations.CoderResults : Prop :=
  ∀ (s : State) (r : BitVec 4) (i : Nat),
    let n := r.toNat
    let loaded (u : State) (d : EngDesc) (b : Nat → List Byte) : State :=
      let l := fld (edParam d.raw 1) 31 0
      let wa := fld (edParam d.raw 0) 15 0
      engOk { u with
        prog := (List.range (l / 4)).foldl (fun m k => smSet 0 m (wa + k) (BitVec.ofNat 32 (leAt (b 0) (4 * k) 4))) u.prog
        progBad := u.progBad.filter fun w => decide (w < wa) || decide (wa + l / 4 ≤ w) } .cdr n 0 [] (l / 4)
    (∀ d s1 t p, engPlaced s .cdr n i 1 false = some (d, s1) →
      engPass s1 .cdr n i d.raw (runForm d.raw) = some t → progPoison t (fld (edParam d.raw 0) 15 0) = false →
      progLoad t (fld (edParam d.raw 0) 15 0) (runVals d.raw) = some p →
      (∀ pc why w, codeCheck p 0 0 p.code = some (pc, why, w) →
        exec (.run r i) s = .next (codEnd t n i 0x10 why w pc)) ∧
      (codeCheck p 0 0 p.code = none → (codeCount p [1] p.code).1 ≤ 2 ^ 40 →
        let c := codTrace p (codeCount p [1] p.code).2 { pc := 0, stack := [], uses := List.replicate 8 0, acts := [] }
        let acts := c.acts
        let k := d.lane.getD 0
        (∀ pc w, walkRange p (runLens d.raw) acts = some (pc, w) → exec (.run r i) s = .next (codEnd t n i 0x11 0 w pc)) ∧
        (∀ b u, walkRange p (runLens d.raw) acts = none →
          engInput t .cdr n (acts.flatMap fun a => if insOp a.ins = 3 then [] else a.acc.map fun x => codSlot d.raw p x false) =
            some (b, u) →
          let l := acts.foldl (laneStep d.raw p) { acc := List.replicate 16 vecZero, ins := [b 0, b 1], outs := [] }
          exec (.run r i) s = .next (engOk (setLane (setLane u k LaneRegs.start) k
            { acc := l.acc, uses := c.uses, stack := c.stack }) .cdr n i
            l.outs.reverse l.outs.length)))) ∧
    (∀ d s1 t b u, engPlaced s .cdr n 0 2 false = some (d, s1) → engPass s1 .cdr n 0 d.raw (ploadForm d.raw) = some t →
      engInput t .cdr n [inSlot d.raw 0 (fld (edParam d.raw 1) 31 0)] = some (b, u) →
      exec (.pload r 0) s = .next (loaded u d b)) ∧
    (∀ d t, engWaits s .cdr n 2 = some d → d.begun = false → engPass s .cdr n 0 d.raw (ploadForm d.raw) = some t →
      exec (.pload r 0) s = .next (modDesc t .cdr n 0 fun d => { d with begun := true, issued := false })) ∧
    (∀ d s1 b u, engPlaced s .cdr n 0 2 true = some (d, s1) →
      engInput (engIssued s1 .cdr n 0 true) .cdr n [inSlot d.raw 0 (fld (edParam d.raw 1) 31 0)] = some (b, u) →
      exec (.ploadProceed r 0) s = .next (loaded u d b)) ∧
    (∀ (u : State) (d : EngDesc) (b : Nat → List Byte) (k : Nat), k < fld (edParam d.raw 1) 31 0 / 4 →
      smGet 0 (loaded u d b).prog (fld (edParam d.raw 0) 15 0 + k) = BitVec.ofNat 32 (leAt (b 0) (4 * k) 4)) ∧
    EngOp0 (.cauchy r i) s .cdr r i 3 (fun d => cauchyForm d.raw)
      (fun d u =>
        let f := fld (edParam d.raw 0) 0 0
        let k := fld (edParam d.raw 1) 31 0
        let m := fld (edParam d.raw 1) 63 32
        let b := (List.range k).flatMap fun c => (List.range m).flatMap fun j => leBytes (cfEs f) (cfInv f ((k + j) ^^^ c))
        engOk u .cdr n i [(outSlot d.raw 2 b.length, b)] (k * m))

/-- R326 to R331: the Cipher, with the key slot and the nonce of its descriptor; a descriptor that a wipe met writes zeros. -/
def Obligations.CipherResults : Prop :=
  ∀ (s : State) (r : BitVec 4) (i : Nat),
    let n := r.toNat
    let key (d : EngDesc) : List Byte := d.aux.take 32
    let nonce (d : EngDesc) : List Byte :=
      (aesBlock (roundKeys ((d.aux.drop 32).take 32)) (leBytes 8 (edParam d.raw 1).toNat ++ leBytes 8 (edParam d.raw 2).toNat)).take 12
    let sound (d : EngDesc) : Prop := d.wiped = false ∧ d.auxBad = false ∧ handleBad (edSlot d.raw 1) d.aux = 0
    EngOp (.encrypt r i) s .cph r i 1 (fun d _ => sound d)
      (fun d => cphForm d.raw (cphA d.raw + cphL d.raw) (cphA d.raw + cphL d.raw + 16))
      (fun d => [inSlot d.raw 0 (cphA d.raw + cphL d.raw)])
      (fun d b u =>
        let a := cphA d.raw
        let x := gcmEncrypt (key d) (nonce d) ((b 0).take a) ((b 0).drop a)
        let out := (b 0).take a ++ x.1 ++ x.2
        engOk u .cph n i [(outSlot d.raw 2 out.length, out)] (a + cphL d.raw + 16)) ∧
    EngOp (.decrypt r i) s .cph r i 2 (fun d _ => sound d)
      (fun d => cphForm d.raw (cphA d.raw + cphL d.raw + 16) (cphL d.raw))
      (fun d => [inSlot d.raw 0 (cphA d.raw + cphL d.raw + 16)])
      (fun d b u =>
        let a := cphA d.raw
        let l := cphL d.raw
        match gcmDecrypt (key d) (nonce d) ((b 0).take a) (((b 0).drop a).take l) ((b 0).drop (a + l)) with
        | some p => engOk u .cph n i [(outSlot d.raw 2 p.length, p)] l
        | none => engWrite u .cph n i [(outSlot d.raw 2 (List.replicate l 0).length, List.replicate l 0)]
            (engStatus 0 0 0 0x10) 0) ∧
    (∀ (op : Nat) (d : EngDesc) (s1 : State), engPlaced s .cph n i op false = some (d, s1) → d.wiped = true →
      let al := cphA d.raw + cphL d.raw
      let u := engIssued s1 .cph n i true
      let ends (inN outN : Nat) (o : Out) : Prop :=
        let form := cphForm d.raw inN outN
        let zeros := List.replicate outN (0 : Byte)
        engReject u .cph n d.raw form = 0 → engCapFault form.exts = none → (engPages (ringReq u .cph n) form.exts u).1 = none →
        o = .next (engWrite u .cph n i [(outSlot d.raw 2 zeros.length, zeros)] (engStatus 0 0 0 0x12) 0)
      (op = 1 → ends al (al + 16) (exec (.encrypt r i) s)) ∧
      (op = 2 → ends (al + 16) (cphL d.raw) (exec (.decrypt r i) s)))

/-- R327: what is encrypted decrypts, with the same key, nonce and additional data, to itself. -/
def Obligations.GcmRoundTrip : Prop :=
  ∀ key nonce aad p : List Byte, key.length = 32 → nonce.length = 12 →
    let x := gcmEncrypt key nonce aad p
    gcmDecrypt key nonce aad x.1 x.2 = some p ∧ x.1.length = p.length

/-- R103, R104: CALLM stores its link and the registers of its mask below g7, as STC would, moves g7 down and goes to its
target; RETM loads them, moves g7 up and goes to the link. Each check that fails faults: of the target, of g7 and its
alignment, of what is stored, of the translation of the area, of the poison of what RETM reads and of its link, each with no
register written; where a gate refuses a granule of CALLM, those before it stay stored. That the granules go one by one, each as
an STC or LDC, and that the fault of RETM's link names g7, are read from the rules (assumption log 20). -/
def Obligations.StackCallResults : Prop :=
  (∀ (s : State) (cx : CtxId) (rd : Reg) (mask : BitVec 16),
    let w := wWide 0x22 rd mask.toNat
    let ins : Ins := { word := w, reads := rd :: 7 :: maskRegs mask, writes := [7] }
    let c := cpu s cx
    let t := readReg c rd
    let stack := readReg c 7
    let vals := pccAt c (pcOf c + 4) :: (maskRegs mask).map (readReg c)
    let n := 16 * vals.length
    canIssue s cx ins = true →
    (∀ k, targetCheck t = some k → Traps (.callm cx rd mask) s cx ins (branchFault t rd k)) ∧
    (∀ f, targetCheck t = none → callCheck stack n vals = some f → Traps (.callm cx rd mask) s cx ins f) ∧
    (∀ f s1, targetCheck t = none → callCheck stack n vals = none →
      xlateParts (access s cx 7 w) needW false 0 (linesOf (capCursor stack - n) n) (begun s cx) = .error (.fault s1 f) →
      exec (.callm cx rd mask) s = .next (trapped cx s1 f w)) ∧
    (∀ ps s1 pre p v post u e u', targetCheck t = none → callCheck stack n vals = none →
      xlateParts (access s cx 7 w) needW false 0 (linesOf (capCursor stack - n) n) (begun s cx) = .ok (ps, s1) →
      (areaPieces ps (capCursor stack - n) vals.length).zip vals = pre ++ (p, v) :: post →
      callStores (access s cx 7 w) pre s1 = .ok u → (ctxAt u cx).stores.length < 4 →
      storeCheck (access s cx 7 w) p (.write (capBytes v) (if v.tag then [true] else []) []) u = (some e, u') →
      ∃ f : FaultInfo, f.addr = some (wd p.va) ∧ f.reg = 7 ∧ (∀ g, e = .refused g → f.kind = 0x09 ∧ f.detail = g) ∧
        exec (.callm cx rd mask) s = .next (trapped cx u' f w)) ∧
    (∀ ps s1 s2, targetCheck t = none → callCheck stack n vals = none →
      xlateParts (access s cx 7 w) needW false 0 (linesOf (capCursor stack - n) n) (begun s cx) = .ok (ps, s1) →
      callStores (access s cx 7 w) ((areaPieces ps (capCursor stack - n) vals.length).zip vals) s1 = .ok s2 →
      exec (.callm cx rd mask) s = .next (ranTo cx
        (setCtx s2 cx (writeReg (ctxAt s2 cx) 7 (capSetCursor stack (capCursor stack - n)))) (targetPcc t)))) ∧
  (∀ (s : State) (cx : CtxId) (mask : BitVec 16),
    let w := wWide 0x23 0 mask.toNat
    let ins : Ins := { word := w, reads := [7], writes := 7 :: maskRegs mask }
    let stack := readReg (cpu s cx) 7
    let x := capCursor stack
    let m := 1 + (maskRegs mask).length
    canIssue s cx ins = true →
    (∀ k, capCheck stack [rLoad] true false x (16 * m) = some k →
      Traps (.retm cx mask) s cx ins (faultAt k (wd x) 7)) ∧
    (capCheck stack [rLoad] true false x (16 * m) = none → x % 16 ≠ 0 →
      Traps (.retm cx mask) s cx ins (faultAt 0x05 (wd x) 7)) ∧
    (∀ f s1, capCheck stack [rLoad] true false x (16 * m) = none → x % 16 = 0 →
      xlateParts (access s cx 7 w) needR false 0 (linesOf x (16 * m)) (begun s cx) = .error (.fault s1 f) →
      exec (.retm cx mask) s = .next (trapped cx s1 f w)) ∧
    (∀ ps s1 p, capCheck stack [rLoad] true false x (16 * m) = none → x % 16 = 0 →
      xlateParts (access s cx 7 w) needR false 0 (linesOf x (16 * m)) (begun s cx) = .ok (ps, s1) →
      (∀ q ∈ areaPieces ps x m, plainRead (access s cx 7 w) s1 q) →
      (∀ e ∈ (ctxAt s1 cx).stores, ∀ q ∈ areaPieces ps x m, e.pa + e.data.length ≤ q.pa ∨ q.pa + q.n ≤ e.pa) →
      (areaPieces ps x m).find? (poisoned s1) = some p →
      exec (.retm cx mask) s = .next (trapped cx s1 { kind := 0x0A, addr := some (wd p.va), reg := 7 } w)) ∧
    (∀ ps s1 link vs s2 k, capCheck stack [rLoad] true false x (16 * m) = none → x % 16 = 0 →
      xlateParts (access s cx 7 w) needR false 0 (linesOf x (16 * m)) (begun s cx) = .ok (ps, s1) →
      retLoads (access s cx 7 w) (areaPieces ps x m) s1 = .ok (link :: vs, s2) → targetCheck link = some k →
      exec (.retm cx mask) s = .next (trapped cx s2 (branchFault link 7 k) w)) ∧
    (∀ ps s1 link vs s2, capCheck stack [rLoad] true false x (16 * m) = none → x % 16 = 0 →
      xlateParts (access s cx 7 w) needR false 0 (linesOf x (16 * m)) (begun s cx) = .ok (ps, s1) →
      retLoads (access s cx 7 w) (areaPieces ps x m) s1 = .ok (link :: vs, s2) → targetCheck link = none →
      exec (.retm cx mask) s = .next (ranTo cx
        (setCtx s2 cx (writeReg (((maskRegs mask).zip vs).foldl (fun c p => writeReg c p.1 p.2) (ctxAt s2 cx)) 7
          (capSetCursor stack (x + 16 * m)))) (targetPcc link))))

/-- R32 to R41, R119, R336, R342: the seal unit. That SEAL of a type outside 1 to 15 ends with AUTHORITY, that EPOCH closes the
apertures of its tenant before it writes the entry, and that TENANT writes the reserved bits of an entry as zero are the model's
choice (assumption log 31). -/
def Obligations.SealUnitResults : Prop :=
  (∀ (s : State) (o : IslOp) (q : List IslOp) (n code : Nat) (named : SMap Cap), islQueue s 0 = o :: q → o.src = .cx n →
    let t := islFinish s 0 o code named
    islQueue t 0 = q ∧ (portSet t 0 n).busy = (portSet s 0 n).busy - 1 ∧ t.mem = s.mem ∧ t.regs = s.regs ∧
      smGet Cap.null (portSet t 0 n).vals 0x22 = intCap (wd (opCode o * 256 + code)) ∧
      ∀ p ∈ [0x20, 0x21], smGet Cap.null (portSet t 0 n).vals p = smGet Cap.null named p) ∧
  IslRow .seal 0 1 sealZero (fun s o =>
    let c := opVal o 0
    let a := opVal o 1
    let t := capCursor a
    if c.tag = false then (0x10, [], s)
    else if capOtype c ≠ 0 then (0x11, [], s)
    else if sealsType a rSeal = true ∧ 1 ≤ t ∧ t ≤ 15 then (0, [(0x20, withType c (BitVec.ofNat 4 t))], s)
    else (0x13, [], s)) ∧
  IslRow .unseal 0 2 sealZero (fun s o =>
    let c := opVal o 0
    let a := opVal o 1
    if c.tag = false then (0x10, [], s)
    else if capOtype c = 0 then (0x12, [], s)
    else if sealsType a rUnseal = true ∧ capCursor a = capOtype c then (0, [(0x20, withType c 0)], s)
    else (0x13, [], s)) ∧
  IslRow .recolour 0 3 sealZero (fun s o => (0, [(0x20, withColour (opVal o 0) ((opWord o).extractLsb' 8 4))], s)) ∧
  IslRow .wcheck 0 4 (fun _ => false) (fun s o =>
    let w := capBytes (opVal o 0) ++ capBytes (opVal o 1)
    let v := writVerdict s w
    let c : Cap := { bits := (opVal o 0).bits, tag := decide (v.1 = 0) }
    (v.1, [(0x20, c)], apVerdict v.2 o v.1 c (leAt w 16 2))) ∧
  IslRow .wmake 0 5 sealZero (fun s o =>
    let c := opVal o 0
    let t := opTenant o
    if c.tag = false then (0x10, [], s)
    else if capOtype c ≠ 0 then (0x11, [], s)
    else if capHas c rCustody = true ∨ capHas c rSeal = true ∨ capHas c rUnseal = true then (0x15, [], s)
    else match entryRead s t with
      | (none, s1) => (0x1A, [], s1)
      | (some e, s1) =>
        if e.getLsbD 63 = false then (0x14, [], s1)
        else
          let k := slotRead s1 (fld e 59 48)
          if slotIs k.1 2 = false then (0x18, [], k.2)
          else
            let w := writBytes (slotKey k.1) c t (fld e 47 0)
            (0, [(0x20, { bits := c.bits, tag := false }), (0x21, { bits := BitVec.ofNat 128 (leNat (w.drop 16)), tag := false })], k.2)) ∧
  IslRow .epoch 0 6 sealZero (fun s o =>
    match entryRead (closeTenant s (opTenant o)) (opTenant o) with
    | (none, s1) => (0x1A, [], s1)
    | (some e, s1) =>
      if e.getLsbD 63 = false then (0x14, [], s1)
      else if e.extractLsb' 0 48 = 0xFFFFFFFFFFFF then (0x16, [], s1)
      else match entryWrite s1 (opTenant o) (e + 1) with
        | (true, s2) => (0, [(0x20, intCap ((e.extractLsb' 0 48).zeroExtend 64 + 1))], s2)
        | (false, s2) => (0x1A, [], s2)) ∧
  IslRow .tenant 0 7 sealZero (fun s o =>
    let e := capWord (opVal o 0) &&& 0x8FFFFFFFFFFFFFFF
    let k := slotRead s (fld e 59 48)
    if e.getLsbD 63 = true ∧ slotIs k.1 2 = false then (0x18, [], k.2)
    else match entryWrite k.2 (opTenant o) e with
      | (true, s2) => (0, [], s2)
      | (false, s2) => (0x1A, [], s2)) ∧
  IslRow .tread 0 8 sealZero (fun s o => match entryRead s (opTenant o) with
    | (none, s1) => (0x1A, [], s1)
    | (some e, s1) => (0, [(0x20, intCap e)], s1)) ∧
  IslHolds .seal 0 1 ∧ IslHolds .unseal 0 2 ∧ IslHolds .recolour 0 3 ∧ IslHolds .wcheck 0 4 ∧ IslHolds .wmake 0 5 ∧
  IslHolds .epoch 0 6 ∧ IslHolds .tenant 0 7 ∧ IslHolds .tread 0 8

/-- R37, R39: a writ made for a tenant under its key and its epoch, of a capability that R39 lets a writ hold, is valid. -/
def Obligations.WritMadeIsValid : Prop :=
  ∀ (s s1 s2 : State) (c : Cap) (t : Nat) (e : Word) (k : List Byte),
    t < 2 ^ 16 → entryRead s t = (some e, s1) → e.getLsbD 63 = true → slotRead s1 (fld e 59 48) = (k, s2) →
    slotIs k 2 = true → writImageOk c = true →
    writVerdict s (writBytes (slotKey k) c t (fld e 47 0)) = (0, s2) ∧
      ∀ e', e' < 2 ^ 48 → e' ≠ fld e 47 0 → writVerdict s (writBytes (slotKey k) c t e') = (3, s2)

/-- R332 to R334, R337, R425, R426, R429: the key ladder, the digest unit and the image key. A FOLD hashes what it found as it
reached the head of its queue. The order of UNWRAP's checks is the model's choice (assumption log 31). -/
def Obligations.LadderAndDigestResults : Prop :=
  IslRow .derive 2 1 (fun o => ladderZero o || !(decide (kKind o = 2) || decide (kKind o = 3))) (fun s o =>
    match rootKey s ((opWord o).getLsbD 56) with
    | none => (0x12, [], s)
    | some r =>
      let label := leBytes 8 (capCursor (opVal o 0)) ++ leBytes 1 (kKind o) ++ leBytes 2 (kTenant o)
      let k := hmacSha256 r ([0, 0, 0, 1] ++ label ++ [0] ++ capBytes (opVal o 1) ++ [0, 0, 1, 0])
      (0, [], slotWrite s (kSlot o) (slotBytes k [] (kKind o) (kTenant o)))) ∧
  (∀ (s s1 : State) (o : IslOp) (q : List IslOp) (w : List Byte), islQueue s 2 = o :: q → opCode o = 2 → o.wiped = false →
    islHeld s 2 = false → ladderZero o = false → (kKind o = 1 ∨ kKind o = 2) → slotRead s (kWslot o) = (w, s1) →
    let c := opVal o 2
    let n := if kKind o = 1 then 72 else 40
    (slotIs w 3 = false → exec .unwrap s = islEnds 2 o (0x11, [], s1)) ∧
    (slotIs w 3 = true → capCheck c [rLoad] true false (capCursor c) n ≠ none → exec .unwrap s = islEnds 2 o (0x13, [], s1)) ∧
    (slotIs w 3 = true → capCheck c [rLoad] true false (capCursor c) n = none →
      ∀ s2 s3 b p, blobPending s1 (linesOf (capCursor c) n) = (false, s2) →
        blobRead s2 (linesOf (capCursor c) n) = (some (b, p), s3) →
        exec .unwrap s = islEnds 2 o (if p = true then (0x15, [], s3) else match kwUnwrap (slotKey w) b with
          | none => (0x14, [], s3)
          | some k => (0, [], slotWrite s3 (kSlot o) (slotBytes (k.take 32) (k.drop 32) (kKind o) (kTenant o)))))) ∧
  IslRow .clearKey 2 3 ladderZero (fun s o => (0, [], slotWrite s (kSlot o) (List.replicate 128 0))) ∧
  IslRow .attr 2 4 ladderZero (fun s o =>
    let b := slotRead s (kSlot o)
    (0, [(0x20, intCap (slotAttr b.1))], b.2)) ∧
  IslRow .extend 1 1 digestZero (fun s o =>
    if (opWord o).extractLsb' 8 2 < 2 ∧ rbit s (pg .sys + 0x108) 8 = true then (0x11, [], s)
    else
      let r := ((opWord o).extractLsb' 8 2).toNat
      let v := capBytes (opVal o 0) ++ capBytes (opVal o 1) ++ capBytes (opVal o 2)
      (0, [], setMeas s r (sha384 (measAt s r ++ v)))) ∧
  IslRow .readm 1 3 digestZero (fun s o => (0, threePorts (measAt s ((opWord o).extractLsb' 8 2).toNat), s)) ∧
  (∀ (s : State) (o : IslOp) (q : List IslOp), islQueue s 1 = o :: q → opCode o = 2 → o.wiped = false → digestZero o = false →
    let n := capWord (opVal o 0)
    (n ≤ rget s (pg .mer + 0x120) → exec .fold s = islEnds 1 o (0x12, [], s)) ∧
    (rget s (pg .mer + 0x120) < n → ∃ t, exec .fold s = .next t ∧ rget t (pg .mer + 0x120) = n ∧ intRaw t .mer 0 0 = true ∧
      t.mem = s.mem ∧ ∀ k, k < 4 → rget t (pg .mer + 0x100 + 8 * k) = wd (leAt (sha256 (o.snap.getD (foldBytes s))) (8 * k) 8))) ∧
  (∀ (s : State) (o : IslOp) (q : List IslOp), islQueue s 1 = o :: q → opCode o = 2 → o.snap = none → o.wiped = false →
    islQueue (islSweep s 1) 1 = { o with snap := some (foldBytes s) } :: q) ∧
  (∀ (s : State) (i : Nat) (v : List Byte), v.length = 48 → measAt (setMeas s i v) i = v) ∧
  IslHolds .derive 2 1 ∧ IslHolds .unwrap 2 2 ∧ IslHolds .clearKey 2 3 ∧ IslHolds .attr 2 4 ∧
  (∀ s : State, domOn s 2 = true → s.power.halted = false → rbit s (pg .seal + 0x100) 0 = false →
    ∃ t, exec .imageKeyReady s = .next t ∧ rbit t (pg .seal + 0x100) 0 = true ∧ t.mem = s.mem ∧
      ∀ cx, (ctxAt s cx).run = .stalled → (ctxAt s cx).why = some .imageKey →
        if (ctxAt s cx).queue = [] then (ctxAt t cx).run = .stalled ∧ (ctxAt t cx).why = some .fetch
        else (ctxAt t cx).run = .ready)

/-- R341 to R343: requests of the life cycle, tamper causes and wipes. That the apertures close as a wipe begins and the
secure part reads zero when it ends (assumption log 32), that an ADV write during BUSY is discarded, and which wipes ask for
the reset of TCFG.RESET (assumption log 33) are the model's choice. -/
def Obligations.LifeCycleResults : Prop :=
  (∀ (s : State) (target : BitVec 3) (confirm : BitVec 16) (ic : InitClass), pageOn s .lct 0 = true →
    let st := pg .lct + 0x100
    let ok := confirm = 0x4C43 ∧ s.life.state < target.toNat ∧ target.toNat ≤ 4
    (rbit s st 8 = false → ok → ∃ t, exec (.adv target confirm ic) s = .next t ∧ rbit t st 8 = true ∧ rfld t st 6 4 = target.toNat ∧
      t.life.state = s.life.state ∧ t.life.target = target.toNat ∧ t.mem = s.mem ∧
      (domOn s 2 = true → rbit t (pg .lct + 0x118) 8 = true)) ∧
    (rbit s st 8 = false → ¬ok → ∃ t, exec (.adv target confirm ic) s = .next t ∧ rbit t st 9 = true ∧ rbit t st 8 = false ∧
      t.life = s.life ∧ t.mem = s.mem) ∧
    (rbit s st 8 = true → ∃ t, exec (.adv target confirm ic) s = .next t ∧ rget t st = rget s st ∧
      t.life = s.life ∧ t.mem = s.mem)) ∧
  (∀ s : State, rbit s (pg .lct + 0x100) 8 = true → rbit s (pg .lct + 0x118) 8 = false → s.life.target < 8 →
    ∃ t, exec .transitionComplete s = .next t ∧ t.life.state = s.life.target ∧ rbit t (pg .lct + 0x100) 8 = false ∧
      rfld t (pg .lct + 0x100) 2 0 = s.life.target ∧ intRaw t .lct 0 2 = true ∧ t.mem = s.mem) ∧
  (∀ (s : State) (i : Instr) (b : Nat),
    (i = .tamperPin ∧ b = 0 ∨ i = .refclkOutOfRange ∧ b = 1 ∨ i = .coldTamper ∧ b = 2 ∧ rbit s (pg .lct + 0x110) 0 = true) →
    ∃ t, exec i s = .next t ∧ rbit t (pg .lct + 0x118) b = true ∧ intRaw t .lct 0 0 = true ∧ t.mem = s.mem ∧
      t.life.count = Nat.min (s.life.count + 1) 0xFFFFFFFF ∧
      (domOn s 2 = true → rbit t (pg .lct + 0x118) 8 = true ∧
        (rbit s (pg .lct + 0x118) 8 = false → ∀ h a, h < 2 → a < 64 → (apAt t h a).state = 0)) ∧
      (domOn s 2 = false → t.power.tamper = true)) ∧
  (∀ s : State, rbit s (pg .lct + 0x110) 0 = false → exec .coldTamper s = .next s) ∧
  (∀ s : State, rbit s (pg .lct + 0x118) 8 = true →
    (rbit s (pg .lct + 0x110) 1 = false ∨ s.life.tam = false ∨ s.power.tamper = true) →
    ∃ t, exec .wipeComplete s = .next t ∧ rbit t (pg .lct + 0x118) 8 = false ∧ intRaw t .lct 0 1 = true ∧
      t.island.nonce = 0 ∧
      (∀ a, bankBase 248 ≤ a → a < bankBase 256 → memByte t.mem a = 0 ∧ memMeta t.mem (a / 8) = false) ∧
      (∀ a, a < bankBase 248 ∨ bankBase 256 ≤ a → memByte t.mem a = memByte s.mem a ∧ memMeta t.mem (a / 8) = memMeta s.mem (a / 8)))

/-- R358 to R360, R369, R373, R374, R431, R438: configuration requests, the resets and the links of the host and media
ports, and the armed injection point that has a received TLP replayed first. The places of the AER bits, the bits of the
Command register and of the BARs, the power states, the trained rates and the INT_RAW bit of a hot reset are the model's
choice (log 50). -/
def Obligations.HostPortResults : Prop :=
  let failed (rs : List OutRead) : List ReadDone := (rs.filter fun r => decide (r.src < noOne)).map fun r =>
    { src := r.src, pa := r.pa, n := r.n, data := none }
  (∀ (s : State) (h : BitVec 1),
    let i := h.toNat
    (∃ t, exec (.perstNAssert h) s = .next t ∧ (hostAt t i).perst = false ∧ t.mem = s.mem ∧
      (domOn s 16 = true → intRaw t .host i 2 = true ∧ linkUp t .host i = false ∧ ∀ a, a < 64 → (apAt t i a).state = 0)) ∧
    (rbit s (pg .pwr + 0x120) 1 = false →
      exec (.perstNRise h) s = .next (setHost s i { hostAt s i with perst := true })) ∧
    (rbit s (pg .pwr + 0x120) 1 = true → s.power.nadir = true →
      exec (.perstNRise h) s = .next (startUp (setHost s i { hostAt s i with perst := true }) .nadirWake))) ∧
  (∀ (s : State) (h : BitVec 1) (ic : InitClass), pageOn s .host h.toNat = true →
    let c := pg .host h.toNat + 0x100
    ∃ t, exec (.cfgready h ic) s = .next t ∧ rbit t c 0 = true ∧ rbit t c 1 = rbit s c 1 ∧ t.mem = s.mem ∧ t.hosts = s.hosts) ∧
  (∀ (s : State) (h : BitVec 1) (off : BitVec 12) (w : Option (BitVec 32)), linkUp s .host h.toNat = true →
    injArmed s .host h.toNat 1 = false →
    let i := h.toNat
    let o := off.toNat / 4 * 4
    let ready := rbit s (pg .host i + 0x100) 0
    (ready = false → exec (.configRequest h off w) s = .next (sendCpl s .host i 0 .rrs [])) ∧
    (ready = true → w = none →
      exec (.configRequest h off w) s = .next (sendCpl s .host i 0 .sc (leBytes 4 (cfgRead s i o).toNat)) ∧
      (o = 0 → cfgRead s i o = 0x72001D7E) ∧ (o = 8 → cfgRead s i o = 0x120000B1) ∧ (o = 0x2C → cfgRead s i o = s.mgmt.ssid)) ∧
    (∀ v, ready = true → w = some v → ∃ t, exec (.configRequest h off w) s = .next t ∧ t.mem = s.mem ∧
      (hostAt t i).io.cpls = (hostAt s i).io.cpls ++ [{ reqid := 0, st := .sc, data := [] }] ∧
      (o = 4 → cfgRead t i o = v &&& 0x547) ∧ (o = 0x10 → cfgRead t i o = v &&& 0xFF000000 ||| 4) ∧
      (o = 0x18 → cfgRead t i o = v &&& 0xFFFE0000 ||| 4) ∧ (o = 0x20 → cfgRead t i o = v &&& 0xFC000000 ||| 12) ∧
      (o = 0x14 ∨ o = 0x1C ∨ o = 0x24 → cfgRead t i o = v))) ∧
  (∀ (s : State) (h : BitVec 1), linkUp s .host h.toNat = true → injArmed s .host h.toNat 1 = false →
    let i := h.toNat
    let gone (t : State) : Prop :=
      (∀ a, a < 64 → (apAt t i a).state = 0) ∧ (∀ d, d < 64 → rget t (pg .host i + 0x200 + 8 * d) = 0) ∧
        (hostAt t i).cfg = [] ∧ (hostAt t i).msix = [] ∧ (hostAt t i).pba = [] ∧ t.mem = s.mem
    (∃ t, exec (.functionLevelReset h) s = .next t ∧ gone t ∧ rbit t (pg .host i + 0x100) 1 = false ∧
      rfld t (pg .host i + 0x108) 21 20 = 0 ∧ intRaw t .host i 7 = true) ∧
    (∃ t, exec (.hotReset h) s = .next t ∧ gone t ∧ rbit t (pg .host i + 0x100) 1 = false ∧
      rfld t (pg .host i + 0x108) 21 20 = 0 ∧ intRaw t .host i 1 = true) ∧
    (∃ t, exec (.d3hotEntry h) s = .next t ∧ gone t ∧ rbit t (pg .host i + 0x100) 1 = rbit s (pg .host i + 0x100) 1 ∧
      rfld t (pg .host i + 0x108) 21 20 = 3 ∧ intRaw t .host i 6 = true) ∧
    (∃ t, exec (.pcieLinkDown (.host h)) s = .next t ∧ gone t ∧ linkUp t .host i = false ∧ intRaw t .host i 1 = true ∧
      (hostAt t i).io.reads = [] ∧
      (hostAt t i).io.dones = (hostAt s i).io.dones ++
        failed ((hostAt s i).io.reads ++ (hostAt s i).io.waitR))) ∧
  (∀ (s : State) (m : BitVec 2), linkUp s .med m.toNat = true →
    ∃ t, exec (.pcieLinkDown (.med m)) s = .next t ∧ linkUp t .med m.toNat = false ∧ intRaw t .med m.toNat 1 = true ∧
      (medAt t m.toNat).io.reads = [] ∧ t.mem = s.mem ∧
      (medAt t m.toNat).io.dones = (medAt s m.toNat).io.dones ++
        failed ((medAt s m.toNat).io.reads ++ (medAt s m.toNat).io.waitR)) ∧
  (∀ (s : State) (p : Port) (k : PageKind) (i : Nat) (speed : BitVec 3) (width : BitVec 5) (flit : Bool),
    pciePort p = some (k, i) → domOn s (pageDom k i) = true → linkUp s k i = false →
    trained (if k = .host then 16 else 8) speed width flit = true →
    (k = .host → (hostAt s i).perst = true) → (k = .med → rbit s (pg k i + 0x100) 0 = true) →
    ∃ t, exec (.pcieLinkUp p speed width flit) s = .next t ∧ linkUp t k i = true ∧ t.mem = s.mem ∧ intRaw t k i 0 = true ∧
      rfld t (pg k i + 0x108) 18 16 = speed.toNat ∧ rfld t (pg k i + 0x108) 12 8 = width.toNat ∧
      rbit t (pg k i + 0x108) 19 = flit) ∧
  (∀ (s : State) (h : BitVec 1), (hostAt s h.toNat).perst = false →
    ∀ speed width flit, exec (.pcieLinkUp (.host h) speed width flit) s = .next s) ∧
  (∀ (s : State) (h : BitVec 1) (d : Bool), ∃ t, exec (.badTlp { port := .host h, dllp := d }) s = .next t ∧
    intRaw t .host h.toNat 5 = true ∧ t.mem = s.mem ∧
    (smGet 0 (hostAt t h.toNat).cfg (Config.aerCap + 0x10)).getLsbD (if d then 7 else 6) = true) ∧
  (∀ (s : State) (m : BitVec 2) (d : Bool), ∃ t, exec (.badTlp { port := .med m, dllp := d }) s = .next t ∧
    (medAt t m.toNat).aer.getLsbD (if d then 7 else 6) = true ∧ t.mem = s.mem) ∧
  (∀ (s : State) (k : PageKind) (i : Nat) (c : Instr), receivedBy c = some (k, i) → linkUp s k i = true →
    injArmed s k i 1 = true →
    let u := tlpIn s k i
    u.mem = s.mem ∧ linkUp u k i = true ∧ rbit u (pg k i + 0x040) 1 = true ∧
    (k = .host → intRaw u .host i 5 = true ∧ (smGet 0 (hostAt u i).cfg (Config.aerCap + 0x10)).getLsbD 6 = true) ∧
    (k = .med → (medAt u i).aer.getLsbD 6 = true) ∧
    (rfld s (pg k i + 0x040) 5 4 = 1 → injArmed u k i 1 = false ∧ exec c s = exec c u) ∧
    (∀ p tag st data, c = .pcieCompletion p tag st data → (∀ r ∈ (ioAt s k i).reads, r.tag ≠ tag) → exec c s = .next u)) ∧
  (∀ (s : State) (m : BitVec 2), (linkUp s .med m.toNat = true → injArmed s .med m.toNat 1 = false) → ∃ t, exec (.downstreamErrorMessage m) s = .next t ∧ intRaw t .med m.toNat 4 = true ∧
    (medAt t m.toNat).aer = (medAt s m.toNat).aer ∧ (medAt t m.toNat).io = (medAt s m.toNat).io ∧ t.mem = s.mem)

/-- R361 to R367, R371, R372, R388: requests from outside, through the BARs of a host port and the window of a media port,
and the anchors of the media and peer ports. That BARs need Memory Space Enable and MSI-X messages MSI-X Enable (log 50),
that media requests which meet a port window wait in order (log 51), and the KIND of an anchor whose read is refused are
the model's choice; an armed injection point is `HostPortResults`'. -/
def Obligations.InboundResults : Prop :=
  (∀ (s : State) (h : BitVec 1) (q : PortReq), (linkUp s .host h.toNat = true → injArmed s .host h.toNat 1 = false) →
    let i := h.toNat
    let a0 := barBase s i 0 + q.addr
    let a4 := barBase s i 4 + q.addr
    let ap := apAt s i (q.addr / 2 ^ 20)
    let x := capCursor ap.cap + q.addr % 2 ^ 20
    let hostIn (a x bar : Nat) (colour : BitVec 4) : State :=
      (inbound (epNote s .host i q a bar) .host i q a x bar (BitVec.ofNat 4 (6 + i)) colour (linesOf x q.n)).2
    (barsOpen s i = true → q.addr + q.n ≤ 2 ^ 24 →
      (q.n = 8 → q.addr % 8 = 0 → exec (.bar0Request h q) s = .next (hostIn a0 (regBase + q.addr) 0 0)) ∧
      (q.n ≠ 8 ∨ q.addr % 8 ≠ 0 → exec (.bar0Request h q) s = .next (refuseIn s .host i q a0 2 0 0 .ca))) ∧
    (barsOpen s i = false → exec (.bar0Request h q) s = .next (refuseIn s .host i q a0 1 0 0 .ur) ∧
      exec (.bar4Request h q) s = .next (refuseIn s .host i q a4 1 0 4 .ur)) ∧
    (barsOpen s i = true → q.addr + q.n ≤ 2 ^ 26 →
      (ap.state ≠ 2 → exec (.bar4Request h q) s = .next (refuseIn s .host i q a4 3 0 4 .ca)) ∧
      (ap.state = 2 →
        (∀ k, capCheck ap.cap [if q.write then rStore else rLoad] true false x q.n = some k →
          exec (.bar4Request h q) s = .next (refuseIn s .host i q a4 4 k 4 .ca)) ∧
        (capCheck ap.cap [if q.write then rStore else rLoad] true false x q.n = none →
          (spadBase ≤ x ∧ x + q.n ≤ spadBase + 0x4000000 →
            exec (.bar4Request h q) s = .next (hostIn a4 x 4 (BitVec.ofNat 4 (capColour ap.cap)))) ∧
          (x < spadBase ∨ spadBase + 0x4000000 < x + q.n →
            exec (.bar4Request h q) s = .next (refuseIn s .host i q a4 5 0 4 .ca)))))) ∧
  (∀ (s : State) (h : BitVec 1) (q : PortReq), barsOpen s h.toNat = true → injArmed s .host h.toNat 1 = false →
    let d := q.addr / 8
    let r := pg .host h.toNat + 0x200 + 8 * d
    let b := 1536 + 64 * h.toNat + d
    let n := q.data.length
    let row := Instr.doorbellWrite h { val := q.addr, reqid := q.reqid } q.data
    (q.addr < 0x200 → q.addr % 8 = 0 → n = 4 ∨ n = 8 →
      (q.ep = true → exec (row true) s = .next (ringBell (rset (epNote s .host h.toNat
        { q with write := true, n := n } (barBase s h.toNat 2 + q.addr) 2) r (wd (leNat q.data))) b)) ∧
      (s.power.halted = false → ∃ t, exec (row false) s = .next t ∧ t.mem = s.mem ∧
        rget t r = wd (leNat q.data) ∧
        (smGet [] s.bellQ b = [] → b ∈ t.bells ∧ ∀ c, c ≠ b → (c ∈ t.bells ↔ c ∈ s.bells)) ∧
        (∀ w ws, smGet [] s.bellQ b = w :: ws → t.bells = s.bells ∧ smGet [] t.bellQ b = ws))) ∧
    (q.addr < 0x200 → n ≠ 4 → n ≠ 8 → q.addr + n ≤ 0x20000 → exec (row false) s = .next s) ∧
    (q.addr < 0x200 → q.addr % 8 = 0 → q.n = 8 →
      exec (.doorbellRead h q) s = .next (sendCpl s .host h.toNat q.reqid.toNat .sc (leBytes 8 (rget s r).toNat))) ∧
    (0x1000 ≤ q.addr → q.addr < 0x5000 → q.addr % 8 = 0 → q.n = 8 →
      exec (.doorbellRead h q) s = .next (sendCpl s .host h.toNat q.reqid.toNat .sc (List.replicate 8 0))) ∧
    (0x20000 < q.addr + q.n → exec (.doorbellRead h q) s = .next (refuseIn s .host h.toNat { q with write := false }
      (barBase s h.toNat 2 + q.addr) 1 0 2 .ur))) ∧
  (∀ (s : State) (h : BitVec 1) (j : BitVec 11) (reqid : BitVec 16), barsOpen s h.toNat = true → injArmed s .host h.toNat 1 = false →
    let w := pg .host h.toNat + 0x400
    let b := rfld s w 11 0 + j.toNat
    let ok := j.toNat < rfld s w 43 32 ∧ b ≤ 4095 ∧ rbit s (pg .car + 0x100 + b / 64 * 8) (b % 64) = false
    (ok → exec (.bellWindowWrite h j reqid) s = .next (ringBell s b)) ∧
    (¬ok → intRaw s .host h.toNat 3 = false → intRaw s .host h.toNat 4 = false →
      ∃ t, exec (.bellWindowWrite h j reqid) s = .next t ∧ intRaw t .host h.toNat 3 = true ∧
        rfld t (pg .host h.toNat + 0x038) 39 32 = 7 ∧ rfld t (pg .host h.toNat + 0x038) 31 16 = reqid.toNat ∧ t.mem = s.mem)) ∧
  (∀ (s : State) (h : BitVec 1) (v : BitVec 11) (ic : InitClass), pageOn s .host h.toNat = true →
    let p := hostAt s h.toNat
    let e := smGet msixReset p.msix v.toNat
    (msixOn s h.toNat = true → msixMasked s h.toNat = false → e.getLsbD 96 = false → s.power.halted = false →
      ∃ t, exec (.msix h v ic) s = .next t ∧ t.mem = s.mem ∧ v.toNat ∉ (hostAt t h.toNat).pba ∧
        (hostAt t h.toNat).io.tx = p.io.tx ++
          [{ kind := 3, addr := (e.extractLsb' 0 64).toNat, data := leBytes 4 (e.extractLsb' 64 32).toNat }]) ∧
    (msixOn s h.toNat = true → (msixMasked s h.toNat = true ∨ e.getLsbD 96 = true ∨ s.power.halted = true) →
      ∃ t, exec (.msix h v ic) s = .next t ∧ t.mem = s.mem ∧ v.toNat ∈ (hostAt t h.toNat).pba ∧
        (hostAt t h.toNat).io = p.io)) ∧
  (∀ (s : State) (h : BitVec 1) (v : BitVec 11) (e : BitVec 128) (reqid : BitVec 16), barsOpen s h.toNat = true →
    injArmed s .host h.toNat 1 = false →
    ∃ t, exec (.msixTableWrite h v { val := e, reqid := reqid }) s = .next t ∧ smGet msixReset (hostAt t h.toNat).msix v.toNat = e ∧ t.mem = s.mem ∧
      (∀ w, w ≠ v.toNat → smGet msixReset (hostAt t h.toNat).msix w = smGet msixReset (hostAt s h.toNat).msix w) ∧
      (v.toNat ∈ (hostAt s h.toNat).pba → msixOn s h.toNat = true → msixMasked s h.toNat = false → e.getLsbD 96 = false →
        s.power.halted = false → v.toNat ∉ (hostAt t h.toNat).pba ∧
        { kind := 3, addr := (e.extractLsb' 0 64).toNat, data := leBytes 4 (e.extractLsb' 64 32).toNat } ∈
          (hostAt t h.toNat).io.tx.drop (hostAt s h.toNat).io.tx.length)) ∧
  (∀ (s : State) (h : BitVec 1) (a : BitVec 6) (w : BitVec 256) (reqid : BitVec 16), barsOpen s h.toNat = true →
    injArmed s .host h.toNat 1 = false →
    let x := apAt s h.toNat a.toNat
    (x.state ≠ 1 → ∃ t, exec (.apertureLoad h a { val := w, reqid := reqid }) s = .next t ∧ t.mem = s.mem ∧
      (apAt t h.toNat a.toNat).state = 1 ∧ (apAt t h.toNat a.toNat).copy = w ∧
      (islQueue t 0).length = (islQueue s 0).length + 1 ∧
      (islQueue t 0).getLast? = some { src := .aperture h.toNat a.toNat, port := 0x10, wiped := false, snap := none
                                       vals := [(0, { bits := w.extractLsb' 0 128, tag := false }),
                                         (1, { bits := w.extractLsb' 128 128, tag := false }), (0x10, intCap 4)] }) ∧
    (x.state = 1 → ∃ t, exec (.apertureLoad h a { val := w, reqid := reqid }) s = .next t ∧ (apAt t h.toNat a.toNat).refused = true ∧
      (apAt t h.toNat a.toNat).state = 1 ∧ (apAt t h.toNat a.toNat).copy = x.copy ∧ t.islQ = s.islQ ∧ t.mem = s.mem) ∧
    (∃ t, exec (.apertureClose h { val := a, reqid := reqid }) s = .next t ∧ (apAt t h.toNat a.toNat).state = 0 ∧
      (apAt t h.toNat a.toNat).closed = 1 ∧ t.mem = s.mem)) ∧
  (∀ (s : State) (h : BitVec 1) (m : Word) (ic : InitClass), pageOn s .host h.toNat = true →
    ∃ t, exec (.apclose h m ic) s = .next t ∧ t.mem = s.mem ∧ ∀ a, a < 64 →
      if m.getLsbD a = true then (apAt t h.toNat a).state = 0 ∧
        ((apAt s h.toNat a).state ≠ 0 → (apAt t h.toNat a).closed = 5)
      else apAt t h.toNat a = apAt s h.toNat a) ∧
  (∀ (s : State) (m : BitVec 2) (q : PortReq), linkUp s .med m.toNat = true → injArmed s .med m.toNat 1 = false →
    let i := m.toNat
    (iwinHit s i q.addr q.n = false → exec (.mediaInboundRequest m q) s = .next (refuseIn s .med i q q.addr 1 0 0 .ur)) ∧
    (iwinHit s i q.addr q.n = true → (medAt s i).anchor = none →
      exec (.mediaInboundRequest m q) s = .next (refuseIn s .med i q q.addr 3 0 0 .ca)) ∧
    (∀ c, iwinHit s i q.addr q.n = true → (medAt s i).anchor = some c →
      let x := capCursor c + (q.addr - rfld s (pg .med i + 0x180) 63 12 * 0x1000)
      (∀ k, capCheck c [if q.write then rStore else rLoad] true false x q.n = some k →
        exec (.mediaInboundRequest m q) s = .next (refuseIn s .med i q q.addr 4 k 0 .ca)) ∧
      (capCheck c [if q.write then rStore else rLoad] true false x q.n = none →
        let r : InReq := .mem q x (BitVec.ofNat 4 (capColour c)) (linesOf x q.n)
        exec (.mediaInboundRequest m q) s = .next (mediaTake (epNote s .med i q q.addr 0) i r)))) ∧
  (∀ (s : State) (i : Nat) (r : InReq), (medAt s i).inq = [] →
    mediaTake s i r = match mediaDo (setMed s i { medAt s i with inq := [r] }) i r with
      | (none, u) => setMed u i { medAt u i with inq := [] }
      | (some r, u) => setMed u i { medAt u i with inq := [r] }) ∧
  (∀ (s : State) (i : Nat) (q : PortReq) (x : Nat) (colour : BitVec 4) (left : List (Nat × Nat)),
    mediaDo s i (.mem q x colour left) =
      ((inbound s .med i q q.addr x 0 (BitVec.ofNat 4 (8 + i)) colour left).1.map (.mem q x colour),
        (inbound s .med i q q.addr x 0 (BitVec.ofNat 4 (8 + i)) colour left).2)) ∧
  (∀ (s : State) (i b : Nat), mediaDo s i (.bell b) = (none, ringBell s b)) ∧
  (∀ (s : State) (m : BitVec 2) (off reqid : BitVec 16), linkUp s .med m.toNat = true → injArmed s .med m.toNat 1 = false →
    let i := m.toNat
    let o := off.toNat
    let row (ep : Bool) : Instr := .mediaDoorbellWrite m off { val := ep, reqid := reqid }
    let addr := rfld s (pg .med i + 0x190) 63 16 * 2 ^ 16 + o
    (rbit s (pg .med i + 0x190) 0 = false → ∀ ep,
      exec (row ep) s = .next (portEvent s .med i addr 1 0 reqid.toNat 0 false (some 20))) ∧
    (rbit s (pg .med i + 0x190) 0 = true →
      exec (row true) s = exec (row false) (portEvent s .med i addr 8 0 reqid.toNat 0 false (some 12))) ∧
    (rbit s (pg .med i + 0x190) 0 = true → o % 4 = 0 →
    (o < 64 → exec (row false) s = .next (mediaTake s i (.bell (1664 + 16 * i + o / 4)))) ∧
    (∀ b, 0x8000 ≤ o → windowBell s (pg .med i + 0x400) ((o - 0x8000) / 4) = some b →
      exec (row false) s = .next (mediaTake s i (.bell b))) ∧
    (0x8000 ≤ o → windowBell s (pg .med i + 0x400) ((o - 0x8000) / 4) = none →
      exec (row false) s = .next (portRecord s .med i addr 7 0 reqid.toNat 0 false)) ∧
    (64 ≤ o → o < 0x8000 → exec (row false) s = .next s))) ∧
  (∀ (s : State) (p : Port) (k : PageKind) (i : Nat) (ic : InitClass),
    (∃ m, p = .med m ∧ k = .med ∧ i = m.toNat) ∨ (∃ q, p = .peer q ∧ k = .peer ∧ i = q.toNat) → pageOn s k i = true →
    let off := pg k i + 0x188
    let v := rget s off
    let anchor (t : State) : Option Cap := if k = .med then (medAt t i).anchor else (peerAt t i).anchor
    (rbit s off 0 = false → ∀ r u, memTxn (plainWrite s k i 0x188 (v ||| 1) ic) (spadBase + fld v 25 4 * 16) 16 .read
        (BitVec.ofNat 4 (if k = .med then 8 + i else 12 + i)) 0 0 0 = (r, u) →
      let shut (kind : Nat) : Prop := ∃ t, exec (.ianchorEnable p ic) s = .next t ∧ anchor t = none ∧
        rget t (pg k i + 0x198) = wd (kind * 256) ∧ intRaw t k i (if k = .med then 5 else 7) = true ∧ t.mem = u.mem
      (∀ d, r = .ok d →
        let c : Cap := { bits := BitVec.ofNat 128 (leNat d.bytes), tag := d.tags.headD false }
        (d.poison.headD false = true → shut 0x0A) ∧
        (d.poison.headD false = false → (c.tag = false → shut 0x01) ∧ (c.tag = true → (capOtype c ≠ 0 → shut 0x04) ∧
          (capOtype c = 0 → ((capHas c rLoad && capHas c rStore) = false → shut 0x03) ∧
            ((capHas c rLoad && capHas c rStore) = true → ∃ t, exec (.ianchorEnable p ic) s = .next t ∧
              anchor t = some c ∧ rget t (pg k i + 0x198) = 1 ∧ t.mem = u.mem))))) ∧
      ((∀ d, r ≠ .ok d) → shut 0x09)) ∧
    (rbit s off 0 = true → ∃ t, exec (.ianchorDisable p ic) s = .next t ∧ anchor t = none ∧
      rbit t (pg k i + 0x198) 0 = false ∧ rbit t off 0 = false ∧ t.mem = s.mem))

/-- R358, R368 to R370, R375, R387: requests to the windows of the ports, and the completions that answer their reads.
The AER bits 12 and 14 and the place of Completion Timeout Disable (log 50), and the 128 reads of a peer window with the
lowest free tag, the rest waiting in order (log 53), are the model's choice. -/
def Obligations.OutboundResults : Prop :=
  (∀ (s : State) (x : Txn) (k : PageKind) (i o : Nat),
    (targetOf x.pa = .host i o ∧ k = .host) ∨ (targetOf x.pa = .media i o ∧ k = .med) →
    let seg := rget s (pg k i + 0x140 + 8 * (o / 2 ^ 36))
    let off := o % 2 ^ 36
    let addr := fld seg 63 12 * 0x1000 + off
    let key := initKey x.cls x.colour x.src.toNat
    let io := ioAt s k i
    let cfg := decide (k = .med) && seg.getLsbD 1
    let kind := if cfg then cfgType s i off x.n else 0
    let dev := if cfg then off else 0
    let open' := seg.getLsbD 0 = true ∧ addr + x.n ≤ 2 ^ 64 ∧ linkUp s k i = true ∧ (cfg = true → kind ≠ 0)
    let both (out : State) : Prop := exec (.outboundWindowRequest x) s = .next out ∧
      (cfg = true → exec (.mediaConfigRequest x) s = .next out)
    let asks (r : OutRead) : Prop :=
      (io.reads.length < 768 → ∃ tag, (∀ q ∈ io.reads, q.tag ≠ tag) ∧
        both (setIo s k i { io with reads := io.reads ++ [{ r with tag := tag }] })) ∧
      (768 ≤ io.reads.length → both (setIo s k i { io with waitR := io.waitR ++ [r] }))
    (lets s x = true → open' → ∀ ds tags po, x.op = .write ds tags po →
      (kind = 0 → both (setIo s k i { io with tx := io.tx ++ [{ kind := 0, addr := addr, data := ds }] })) ∧
      (kind ≠ 0 → asks { tag := 0, kind := kind + 2, addr := addr, dev := dev, src := noOne, pa := 0, n := ds.length, data := ds
                         xl := none, old := false })) ∧
    (lets s x = true → open' → x.op = .read → asked s key x.pa x.n = false →
      asks { tag := 0, kind := kind, addr := addr, dev := dev, src := key, pa := x.pa, n := x.n, data := [], xl := none, old := false }) ∧
    (∀ d ds, x.op = .read → takeDone io.dones key x.pa x.n = some (d, ds) → both (setIo s k i { io with dones := ds })) ∧
    (lets s x = true → ¬open' → (x.op = .read → takeDone io.dones key x.pa x.n = none) →
      both (portRecord s k i (addr % 2 ^ 64) 12 0 0 0 true))) ∧
  (∀ (s : State) (m o n : Nat), n = 1 ∨ n = 2 ∨ n = 4 → o < 2 ^ 28 → o % 4 + n ≤ 4 →
    let bus := o / 2 ^ 20 % 256
    let sec := rfld s (pg .med m + 0x110) 7 0
    let sub := rfld s (pg .med m + 0x110) 15 8
    cfgType s m o n = if bus = sec then 1 else if sec < bus ∧ bus ≤ sub then 2 else 0) ∧
  (∀ (s : State) (p : Port) (k : PageKind) (i tag : Nat) (st : CplStatus) (data : List Byte) (r : OutRead),
    pciePort p = some (k, i) → (ioAt s k i).reads.find? (fun r => decide (r.tag = tag)) = some r →
    let ends (c : Instr) (u : State) (d : Option RData) : Prop :=
      let io := ioAt u k i
      exec c s = .next (wakeReader (setIo u k i (ioNext { io with
        reads := io.reads.filter fun x => decide (x.tag ≠ r.tag)
        dones := io.dones ++ if r.src < noOne then [{ src := r.src, pa := r.pa, n := r.n, data := d }] else [] })) r.src)
    let error (cause : Nat) (aer : Option Nat) : State := portEvent s k i r.addr cause 0 0 0 true aer
    let c : Instr := .pcieCompletion p tag st data
    let got (ep : Bool) : RData :=
      { bytes := sliceZ data 0 r.n, tags := (grans r.pa r.n).map fun _ => false, poison := (grans r.pa r.n).map fun _ => ep }
    let rrssv := k = .med ∧ rbit s (pg .med i + 0x100) 1 = true ∧ r.kind < 3 ∧ r.n = 4 ∧ r.dev % 0x1000 = 0
    ((linkUp s k i = true → injArmed s k i 1 = false) →
    (st = .sc → ends c s (some (got false))) ∧ (st = .ep → ends c (error 8 (some 12)) (some (got true))) ∧
    (st = .ur → ends c (error 9 none) none) ∧ (st = .ca → ends c (error 10 none) none) ∧
    (st = .rrs → r.kind = 0 → ends c (error 9 none) none) ∧
    (st = .rrs → r.kind ≠ 0 → rrssv →
      ends c s (some { bytes := [0x01, 0x00, 0xFF, 0xFF], tags := (grans r.pa 4).map fun _ => false
                       poison := (grans r.pa 4).map fun _ => false })) ∧
    (st = .rrs → r.kind ≠ 0 → ¬rrssv → exec c s = .next s)) ∧
    (timeoutOff s k i = false → ends (.completionTimeout p tag) (error 11 (some 14)) none) ∧
    (timeoutOff s k i = true → exec (.completionTimeout p tag) s = .next s) ∧
    (∀ m, p = .med m → (r.kind ≠ 0 → ends (.configRetry m tag true) (error 11 none) none) ∧
      exec (.configRetry m tag false) s = .next s)) ∧
  (∀ (s : State) (cx : CtxId) (key : Nat), keyCls key < 4 → key < noOne → BitVec.ofNat 11 (keySrc key) = cx →
    s.power.halted = false → (ctxAt s cx).run = .stalled → (ctxAt s cx).why = some .port →
    wakeReader s key = setCtx s cx (if (ctxAt s cx).queue = [] then { ctxAt s cx with why := some .fetch }
      else { ctxAt s cx with run := .ready, why := none })) ∧
  (∀ (s : State) (x : Txn) (p o : Nat), targetOf x.pa = .peer p o →
    let key := initKey x.cls x.colour x.src.toNat
    let y := peerAt s p
    let up := rbit s (pg .peer p + 0x108) 0
    (∀ ds tags po, lets s x = true → up = true → x.op = .write ds tags po → o + x.n ≤ 0x7FFFFF8000 → o % 8 = 0 →
      ds.length % 8 = 0 →
      let g := ((grans o ds.length).zipIdx.map fun q => if po.getD q.2 false then 2 ^ (q.1 % 8) else 0).sum
      exec (.peerWindowRequest x) s = .next (peerSend s p 0x10 { Stroke.blank with
        wmask := BitVec.ofNat 16 (wmaskOf o ds.length), arg := wd (g * 2 ^ 40 + o / 128 * 128)
        payload := sliceZ (List.replicate (o % 128) 0 ++ ds) 0 128 })) ∧
    (lets s x = true → up = true → x.op = .read → o + x.n ≤ 0x7FFFFF8000 → asked s key x.pa x.n = false →
      let r : OutRead := { tag := 0, kind := 0, addr := o, dev := 0, src := key, pa := x.pa, n := x.n, data := [], xl := none, old := false }
      (y.reads.length < 128 → ∃ t tag, exec (.peerWindowRequest x) s = .next t ∧ tag < 256 ∧ (∀ q ∈ y.reads, q.tag ≠ tag) ∧
        t.mem = s.mem ∧ (peerAt t p).reads = y.reads ++ [{ r with tag := tag }]) ∧
      (128 ≤ y.reads.length → exec (.peerWindowRequest x) s = .next (setPeer s p { y with waitR := y.waitR ++ [r] }))) ∧
    (∀ d ds, x.op = .read → takeDone y.dones key x.pa x.n = some (d, ds) →
      exec (.peerWindowRequest x) s = .next (setPeer s p { y with dones := ds })) ∧
    (lets s x = true → up = true → 0x7FFFFF8000 ≤ o → o % 8 = 0 → (o - 0x7FFFFF8000) / 8 < 2080 →
      (∀ ds tags po, x.op = .write ds tags po → (x.n = 4 ∨ x.n = 8) → exec (.peerWindowRequest x) s =
        .next (peerSend s p 0x20 { Stroke.blank with arg := wd ((o - 0x7FFFFF8000) / 8) })) ∧
      (x.op = .read → 0 < x.n → asked s key x.pa x.n = false → exec (.peerWindowRequest x) s = .next s)) ∧
    (∀ ds tags po, lets s x = true → up = false → x.op = .write ds tags po →
      exec (.peerWindowRequest x) s = .next (portRecord s .peer p o 12 0 0 0 true)))

/-- R341, R376 to R380: the I3C target, the console, JTAG and the boot NOR. What loading DEBUG does in each life-cycle state
(log 33), that IDCODE shifts out as it is selected and that the FIFOs drop what they cannot hold (log 54), and which of the
I3C rows an unknown CMD is (log 66) are the model's choice. -/
def Obligations.ManagementResults : Prop :=
  (∀ (s : State) (da : BitVec 7),
    let dyn := rfld s (pg .mgmt + 0x118) 15 8
    let now (c : Instr) : Prop := ∃ t, exec c s = .next t ∧ rfld t (pg .mgmt + 0x118) 15 8 = da.toNat ∧ t.mem = s.mem
    (dyn = 0 → now (.entdaa da) ∧ now (.setdasa da) ∧ exec (.setnewda da) s = .next s) ∧
    (dyn ≠ 0 → now (.setnewda da) ∧ exec (.entdaa da) s = .next s ∧ exec (.setdasa da) s = .next s) ∧
    (∃ t, exec .rstdaa s = .next t ∧ rfld t (pg .mgmt + 0x118) 15 8 = 0 ∧ t.mem = s.mem)) ∧
  (∀ (s : State) (e : Byte), exec (.enec e) s = .next { s with ibiEn := s.ibiEn || e.getLsbD 0 } ∧
    exec (.disec e) s = .next { s with ibiEn := s.ibiEn && !e.getLsbD 0 }) ∧
  (∀ s : State, rfld s (pg .mgmt + 0x118) 15 8 ≠ 0 →
    let sends (c : Instr) (b : List Byte) : Prop :=
      exec c s = .next { s with mgmt := { s.mgmt with i3cOut := s.mgmt.i3cOut ++ [b] } }
    sends .getpid (beBytes 6 (s.mgmt.pid.toNat * 2 ^ 33 + (Config.pid.extractLsb' 32 1).toNat * 2 ^ 32 + 0x7200 * 2 ^ 16 +
      (Config.pid.extractLsb' 12 4).toNat * 2 ^ 12 + 0x0B1)) ∧
    sends .getbcr [0x06] ∧ sends .getdcr [0x00] ∧ sends .getmwl (beBytes 2 Config.i3cMwl.toNat) ∧
    sends .getmrl (beBytes 3 Config.i3cMrl.toNat) ∧
    (∃ t b, exec .getstatus s = .next t ∧ b.length = 2 ∧ t.mgmt = { s.mgmt with i3cOut := s.mgmt.i3cOut ++ [b] } ∧
      t.mem = s.mem ∧ t.regs = s.regs)) ∧
  (∀ (s : State) (addr : BitVec 24) (v : Word),
    let reply (st data : Nat) (u : State) : State := { u with mgmt := { u.mgmt with i3c := leBytes 1 st ++ leBytes 8 data } }
    let row (c : I3cReq → Instr) (cmd : Byte) (n base size : Nat) (op : TxnOp) (val : RData → Nat) : Prop :=
      let i := c { cmd := cmd, n := n, addr := addr }
      (addr.toNat % 8 = 0 → addr.toNat < size →
        (∀ d u, fabricTxn s (base + addr.toNat) 8 op 15 0 0 0 = (.ok d, u) → exec i s = .next (reply 0 (val d) u)) ∧
        (∀ r u, fabricTxn s (base + addr.toNat) 8 op 15 0 0 0 = (r, u) → (∀ d, r ≠ .ok d) → exec i s = .next (reply 1 0 u))) ∧
      (addr.toNat % 8 ≠ 0 ∨ size ≤ addr.toNat → exec i s = .next (reply 1 0 s)) ∧
      ∀ q, q.cmd ≠ cmd ∨ q.n ≠ n → exec (c q) s = .next (reply 2 0 s)
    row .i3cReadRegister 1 4 regBase 0x1000000 .read (fun d => leNat d.bytes) ∧
    row (.i3cWriteRegister · v) 2 12 regBase 0x1000000 (.write (leBytes 8 v.toNat) [] []) (fun _ => 0) ∧
    row .i3cReadKeep 3 4 keepBase 0x400000 .read (fun d => leNat d.bytes) ∧
    row (.i3cWriteKeep · v) 4 12 keepBase 0x400000 (.write (leBytes 8 v.toNat) [] []) (fun _ => 0) ∧
    (s.power.nadir = false → exec .i3cWake s = .next (reply 2 0 s)) ∧
    (s.power.nadir = true → rbit s (pg .pwr + 0x120) 2 = true → exec .i3cWake s = .next (startUp (reply 0 0 s) .nadirWake)) ∧
    (s.power.nadir = true → rbit s (pg .pwr + 0x120) 2 = false → exec .i3cWake s = .next (reply 0 0 s)) ∧
    (s.mgmt.i3c ≠ [] → exec .i3cPrivateRead s =
      .next { s with mgmt := { s.mgmt with i3cOut := s.mgmt.i3cOut ++ [s.mgmt.i3c], i3c := [] } })) ∧
  (∀ (s : State) (b : Byte) (ic : InitClass), pageOn s .mgmt 0 = true →
    exec (.utx b ic) s = .next { s with mgmt := { s.mgmt with tx := if s.mgmt.tx.length < 64 then s.mgmt.tx ++ [b] else s.mgmt.tx } } ∧
    exec (.urx ic) s = .next { s with mgmt := { s.mgmt with rx := s.mgmt.rx.tail } } ∧
    (∀ c cs, s.mgmt.rx = c :: cs → (regRead s (pg .mgmt + 0x110)).1 = some (wd (0x100 + c.toNat))) ∧
    (s.mgmt.rx = [] → (regRead s (pg .mgmt + 0x110)).1 = some 0)) ∧
  (∀ (s : State) (b : Byte), rbit s (pg .clk + 0x100) 0 = true →
    (s.mgmt.rx.length < 64 → ∃ t, exec (.uartRxByte b) s = .next t ∧ t.mgmt = { s.mgmt with rx := s.mgmt.rx ++ [b] } ∧
      intRaw t .mgmt 0 0 = true ∧ t.mem = s.mem) ∧
    (∀ c cs, s.mgmt.tx = c :: cs → ∃ t, exec .uartTxByte s = .next t ∧
      t.mgmt = { s.mgmt with tx := cs, uart := s.mgmt.uart ++ [c] } ∧ t.mem = s.mem ∧ (cs = [] → intRaw t .mgmt 0 1 = true))) ∧
  (∀ s : State,
    let ir (n : Nat) : Out := .next { s with mgmt := { s.mgmt with ir := n } }
    exec .testLogicReset s = ir 1 ∧ exec .bypass s = ir 0xFF ∧ exec .samplePreload s = ir 2 ∧ exec .extest s = ir 3 ∧
    exec .idcode s = .next { s with mgmt := { s.mgmt with
      ir := 1, jtag := s.mgmt.jtag ++ [wd (0x17200001 + 2 * Config.idcodeFuse.toNat)] } } ∧
    (s.life.state = 2 ∨ s.life.state = 4 → ∀ acc, exec (.jtagDebug acc) s = ir 0x10) ∧
    (s.life.state = 1 → ∃ t, exec (.jtagDebug none) s = .next t ∧ t.life.noRoot = true ∧ t.mgmt.ir = 0x10 ∧
      (domOn s 2 = true → rbit t (pg .lct + 0x118) 8 = true)) ∧
    (s.life.state = 0 ∨ s.life.state = 3 → exec (.jtagDebug none) s = ir 0x10) ∧
    (∀ keep off w, s.life.state = 0 ∨ s.life.state = 3 ∨ s.life.state = 1 ∧ s.mgmt.ir = 0x10 →
      let row : Instr := .jtagDebug (some (keep, off, w))
      let at10 : State := { s with mgmt := { s.mgmt with ir := 0x10 } }
      (off.toNat % 8 ≠ 0 ∨ keep = true ∧ 0x400000 ≤ off.toNat → exec row s = .next at10) ∧
      (off.toNat % 8 = 0 → (keep = true → off.toNat < 0x400000) → ∀ r u,
        fabricTxn at10 ((if keep then keepBase else regBase) + off.toNat) 8
          (match w with | some v => .write (leBytes 8 v.toNat) [] [] | none => .read) 15 0 0 0 = (r, u) →
        (∀ d, r = .ok d → exec row s = .next { u with mgmt := { u.mgmt with jtag := u.mgmt.jtag ++
          [if w = none then wd (leNat d.bytes) else 0] } }) ∧
        ((∀ d, r ≠ .ok d) → exec row s = .next u)))) ∧
  (∀ (s : State) (v : Word) (ic : InitClass), pageOn s .mgmt 0 = true →
    (rbit s (pg .mgmt + 0x138) 0 = false →
      let n := if v.getLsbD 49 then Nat.min (fld v 48 40) 256 else 0
      ∃ t, exec (.go v ic) s = .next t ∧ rbit t (pg .mgmt + 0x138) 0 = true ∧
        t.mgmt = { s.mgmt with spiCmd := some (v &&& 0x003FFFFFFFFFFFFF, s.mgmt.spi.take n), spi := s.mgmt.spi.drop n } ∧ t.mem = s.mem) ∧
    (rbit s (pg .mgmt + 0x138) 0 = true → exec (.go v ic) s = .next s) ∧
    exec (.spidata (some v) ic) s =
      .next { s with mgmt := { s.mgmt with spi := (s.mgmt.spi ++ leBytes 8 v.toNat).take 256 } } ∧
    (8 ≤ s.mgmt.spi.length → exec (.spidata none ic) s = .next { s with mgmt := { s.mgmt with spi := s.mgmt.spi.drop 8 } } ∧
      (regRead s (pg .mgmt + 0x130)).1 = some (wd (leNat (s.mgmt.spi.take 8))))) ∧
  (∀ (s : State) (v : Word) (w data : List Byte), s.mgmt.spiCmd = some (v, w) →
    ∃ t, exec (.spiCommandDone data) s = .next t ∧ rbit t (pg .mgmt + 0x138) 0 = false ∧ intRaw t .mgmt 0 2 = true ∧
      t.mem = s.mem ∧ t.mgmt = { s.mgmt with
        spiCmd := none
        spi := (s.mgmt.spi ++ if v.getLsbD 49 then [] else data.take (Nat.min (fld v 48 40) 256)).take 256 })

/-- R384, R385, R389 to R392, R394, R438: bring-up, retry and link down of a Tambour port, and what it sends by itself. That
a resend and a NAK in one unit of TB are one resend (log 75), the pointer of a port's gossip relay and the test of the time
lock (log 53) are the model's choice. -/
def Obligations.TambourLinkResults : Prop :=
  (∀ (s : State) (p : BitVec 1) (v : Word) (ic : InitClass), pageOn s .peer p.toNat = true →
    let i := p.toNat
    (rbit s (pg .peer i + 0x100) 0 = false → v.getLsbD 0 = true →
      ∃ t, exec (.peerCtrlEn p v ic) s = .next t ∧ linkState t i = 1 ∧ rbit t (pg .peer i + 0x100) 0 = true ∧ t.mem = s.mem) ∧
    (rbit s (pg .peer i + 0x100) 0 = true → v.getLsbD 0 = false →
      ∃ t, exec (.peerCtrlEn p v ic) s = .next t ∧ linkState t i = 0 ∧
        (linkState s i = 4 → rbit t (pg .peer i + 0x108) 0 = false) ∧ (peerAt t i).held = [] ∧ (peerAt t i).txq = [] ∧ t.mem = s.mem)) ∧
  (∀ (s : State) (p : BitVec 1),
    let i := p.toNat
    let off := pg .peer i + 0x108
    (linkState s i = 1 → ∃ t, exec (.elecDone p) s = .next t ∧ linkState t i = 2 ∧ (peerAt t i).aligned = 0 ∧ t.mem = s.mem) ∧
    (∀ d k, linkState s i = 2 → injArmed s .peer i 1 = false → strokeOk 0xF1 k = true →
      ∃ t, exec (.alignStroke p (k, d)) s = .next t ∧ t.mem = s.mem ∧
      linkState t i = (if d = true ∧ 15 ≤ (peerAt s i).aligned then 3 else 2) ∧
      (peerAt t i).aligned = (if d = true ∧ (peerAt s i).aligned < 15 then (peerAt s i).aligned + 1 else 0)) ∧
    (∀ d k, linkState s i = 2 → injArmed s .peer i 1 = false → strokeOk 0xF1 k = false →
      exec (.alignStroke p (k, d)) s = .next (pump (strokeDrop s i false) i)) ∧
    (∀ d k, soundStroke s i 0xF1 k = true → exec (.alignStroke p (k, d)) s = .next (pump (rxHead s i k) i)) ∧
    (linkState s i = 1 ∨ linkState s i = 2 ∨ linkState s i = 3 →
      ∃ t, exec (.bringupTimeout p) s = .next t ∧ linkState t i = 1 ∧
        rfld t off 63 48 = Nat.min (rfld s off 63 48 + 1) 0xFFFF ∧ t.mem = s.mem) ∧
    (∀ k, linkState s i = 3 → injArmed s .peer i 1 = false → strokeOk 0x02 k = true →
      (leAt k.payload 0 2 = 1 → (peerAt s i).inits < 8 →
        exec (.initStroke p k) s = .next (setPeer s i { peerAt s i with gotInit := some k })) ∧
      (leAt k.payload 0 2 = 1 → 8 ≤ (peerAt s i).inits → ∃ t, exec (.initStroke p k) s = .next t ∧ linkState t i = 4 ∧ rbit t off 0 = true ∧
        rfld t off 19 16 = leAt k.payload 6 1 % 16 ∧ intRaw t .peer i 0 = true ∧ (peerAt t i).held = [] ∧
        (peerAt t i).nextSeq = PeerPort.idle.nextSeq ∧ (peerAt t i).expect = PeerPort.idle.expect ∧
        (peerAt t i).credInit = [leAt k.payload 2 1, leAt k.payload 3 1, leAt k.payload 4 1, leAt k.payload 5 1] ∧ t.mem = s.mem) ∧
      (leAt k.payload 0 2 ≠ 1 → ∃ t, exec (.initStroke p k) s = .next t ∧ linkState t i = 1 ∧ t.mem = s.mem)) ∧
    (∀ k, soundStroke s i 0x02 k = true → exec (.initStroke p k) s = .next (pump (rxHead s i k) i)) ∧
    (linkState s i = 4 → ∃ t, exec (.tambourLinkDown p) s = .next t ∧ rbit t off 0 = false ∧
      linkState t i = (if rbit s (pg .peer i + 0x100) 0 = true then 1 else 0) ∧ intRaw t .peer i 1 = true ∧
      rbit t (pg .peer i + 0x208) 0 = false ∧ (peerAt t i).held = [] ∧ (peerAt t i).txq = [] ∧ (peerAt t i).reads = [] ∧
      (peerAt t i).dones = (peerAt s i).dones ++
        ((peerAt s i).reads ++ (peerAt s i).waitR).filterMap (fun r =>
          if r.src < noOne then some { src := r.src, pa := r.pa, n := r.n, data := none } else none) ∧
      rfld t (pg .peer i + 0x110) 63 42 = Nat.min (rfld s (pg .peer i + 0x110) 63 42 +
        ((((peerAt s i).held ++ (peerAt s i).txq).filter fun x => decide (x.typ = 0x10) || decide (x.typ = 0x20)).length +
          ((peerAt s i).inq.filter fun x => decide (x.typ = 0x10) || decide (x.typ = 0x20)).length)) 0x3FFFFF ∧
      t.mem = s.mem) ∧
    (2 ≤ linkState s i → ∃ t, exec (.strokeBad p) s = .next t ∧ t.mem = s.mem ∧
      (injArmed s .peer i 1 = true → rbit t (pg .peer i + 0x040) 1 = true) ∧
      rfld t (pg .peer i + 0x110) 41 21 = Nat.min (rfld s (pg .peer i + 0x110) 41 21 + 1) 0x1FFFFF ∧
      (linkState s i = 4 → (peerAt t i).nakSent = true ∧ (peerAt t i).held = (peerAt s i).held ∧
        ((peerAt s i).nakSent = true → (peerAt t i).out = (peerAt s i).out) ∧
        ((peerAt s i).nakSent = false → ∃ x, (peerAt t i).out = (peerAt s i).out ++ [x] ∧ x.typ = 0x01 ∧
          x.stroke.ack = (peerAt s i).expect - 1))) ∧
    (∀ k, soundStroke s i 0x00 k = true → exec (.idleStroke p k) s = .next (pump (rxHead s i k) i)) ∧
    (∀ k, soundStroke s i 0x01 k = true →
      let u := rxHead s i k
      let x := peerAt u i
      let n := (peerAt s i).held.length - x.held.length
      ((∀ tb at' sent, x.again = some (tb, at', sent) → tb ≠ u.tb) → exec (.nak p k) s = .next (pump (resend u i) i)) ∧
      (∀ at' sent, x.again = some (u.tb, at', sent) → exec (.nak p k) s = .next (pump (setPeer u i (if n = 0 then x else
        { x with out := x.out.take at' ++ x.out.drop (at' + Nat.min n sent), resends := 1 })) i))) ∧
    (linkState s i = 4 → exec (.replayTimeout p) s =
      .next (if 800 ≤ (s.tb - (peerAt s i).ackTb).toNat then resend s i else s)) ∧
    ((peerAt s i).held ≠ [] → (peerAt s i).resends < 7 →
      let again := (peerAt s i).held.map (emitStroke s (peerAt s i))
      (peerAt (resend s i) i).held = again ∧ (peerAt (resend s i) i).out = (peerAt s i).out ++ again ∧
        (peerAt (resend s i) i).resends = (peerAt s i).resends + 1 ∧
        rfld (resend s i) (pg .peer i + 0x110) 20 0 = Nat.min (rfld s (pg .peer i + 0x110) 20 0 + 1) 0x1FFFFF) ∧
    (linkState s i = 4 → (peerAt s i).held ≠ [] → 7 ≤ (peerAt s i).resends →
      rbit (resend s i) off 0 = false ∧ (peerAt (resend s i) i).held = []) ∧
    (∀ k n t, (peerAt s i).held[n]? = some t → t.stroke.seq = k.ack →
      (∀ m u, m < n → (peerAt s i).held[m]? = some u → u.stroke.seq ≠ k.ack) →
      (peerAt (rxHead s i k) i).held = (peerAt s i).held.drop (n + 1)) ∧
    (linkState s i = 4 → isSource s i = true → exec (.tsyncSend p) s = .next (peerSend s i 0x30 Stroke.blank)) ∧
    (linkState s i = 4 → (peerAt s i).tsLast.toNat + 400000 ≤ s.tb.toNat →
      ∃ t, exec (.timeLockTimeout p) s = .next t ∧ rbit t (pg .peer i + 0x208) 0 = false ∧ (peerAt t i).tsGood = 0 ∧
        t.mem = s.mem ∧ (rbit s (pg .peer i + 0x208) 0 = true → intRaw t .peer i 5 = true)) ∧
    (linkState s i = 4 → rbit s (pg .peer i + 0x300) 0 = true →
      let own := gosBytes (ownNode s) { digest := localDigest s, epoch := localEpoch s, hops := 0, stamp := s.tb }
      (gosPick s (smGet 0 s.gosNext i) = none →
        exec (.gossipSend p) s = .next (peerSend s i 0x40 { Stroke.blank with payload := own ++ List.replicate 64 0 })) ∧
      (∀ n r, gosPick s (smGet 0 s.gosNext i) = some (n, r) → ∃ u, exec (.gossipSend p) s =
        .next (peerSend u i 0x40 { Stroke.blank with payload := own ++ gosBytes n { r with hops := r.hops + 1 } }) ∧
        u.peers = s.peers ∧ u.mem = s.mem ∧ u.regs = s.regs)))

/-- R383, R385, R387 to R393, R438: what a sequenced stroke does when it is accepted. The dropped malformed stroke, the CAUSE 14
of an MCPL with a completion status and the part of a unit in a TSYNC stamp (log 53), and the order of what waits behind a
port window (log 51) are the model's choice. -/
def Obligations.TambourMessageResults : Prop :=
  SeqRow .mwr 0x10 0 ∧ SeqRow .mrd 0x11 0 ∧ SeqRow .mcpl 0x12 0 ∧ SeqRow .bellStroke 0x20 0 ∧ SeqRow .gossip 0x40 0 ∧
  (∀ part : BitVec 8, SeqRow (.tsync · · part) 0x30 part.toNat) ∧
  Handled 0x10 0 mwrDo ∧ Handled 0x11 0 mrdDo ∧ Handled 0x12 0 (fun s p e => (none, mcplDo s p e.stroke)) ∧
  (∀ (s : State) (p : Nat) (e : InStroke), e.typ = 0x10 → e.auth = none →
    mwrDo s p e = match peerAuth s p e.stroke true with
      | .error x => (none, portRecord s .peer p (fld e.stroke.arg 38 0) x.1 x.2 0 0 false)
      | .ok (c, x) => match mwrWrite p e.stroke c x (msgLines e.stroke x) s with
        | ([], u) => (none, u)
        | (ls, u) => (some { e with auth := some (c, x, ls) }, u)) ∧
  (∀ (s : State) (p : Nat) (e : InStroke), e.typ = 0x11 → e.auth = none →
    mrdDo s p e = match peerAuth s p e.stroke false with
      | .error x => (none, sendMcpl (portRecord s .peer p (fld e.stroke.arg 38 0) x.1 x.2 0 0 false) p e.stroke none)
      | .ok (c, x) =>
        match readLines (BitVec.ofNat 4 (12 + p)) (BitVec.ofNat 4 (capColour c)) (msgLines e.stroke x) noData s with
        | (none, u) => (some { e with auth := some (c, x, msgLines e.stroke x) }, u)
        | (some (.error n), u) => (none, sendMcpl (portRecord u .peer p (fld e.stroke.arg 38 0) n 0 0 0 false) p e.stroke none)
        | (some (.ok d), u) => (none, sendMcpl u p e.stroke (some (mcplOf x (msgLines e.stroke x) d)))) ∧
  (∀ (s : State) (p : Nat) (k : Stroke) (store : Bool),
    ((peerAt s p).anchor = none → peerAuth s p k store = .error (3, 0)) ∧
    (∀ c, (peerAt s p).anchor = some c → k.wmask = 0xFFFF →
      let x := capCursor c + fld k.arg 38 0
      (∀ e, capCheck c [if store then rStore else rLoad] true false x 128 = some e → peerAuth s p k store = .error (4, e)) ∧
      (capCheck c [if store then rStore else rLoad] true false x 128 = none →
        peerAuth s p k store =
          if 0x40000000000 < x + 128 ∧ x < 0x50000000000 then .error (13, 0) else .ok (c, x)))) ∧
  (∀ (s : State) (p : Nat) (k : Stroke),
    mcplDo s p k = match (peerAt s p).reads.find? fun r => decide (r.tag = k.rtag.toNat) with
      | none => s
      | some r =>
        let bad := decide (fld k.arg 50 48 ≠ 0)
        let v := if bad then portRecord s .peer p r.addr 14 0 0 0 true else s
        let data : RData :=
          { bytes := sliceZ k.payload (r.addr % 128) r.n, tags := (grans r.pa r.n).map fun _ => false
            poison := (grans r.pa r.n).map fun g => k.arg.getLsbD (40 + g % 8) }
        wakeReader (peerNext (setPeer v p { peerAt v p with
          reads := (peerAt v p).reads.filter fun q => decide (q.tag ≠ r.tag)
          dones := (peerAt v p).dones ++ if r.src < noOne then
            [{ src := r.src, pa := r.pa, n := r.n, data := if bad then none else some data }] else [] }) p) r.src) ∧
  Handled 0x20 1 (fun s p e =>
    let j := fld e.stroke.arg 11 0
    (none, if j < 32 then ringBell s (1728 + 32 * p + j)
      else match windowBell s (pg .peer p + 0x1A0) (j - 32) with
        | some b => ringBell s b
        | none => portRecord s .peer p (0x7FFFFF8000 + 8 * j) 7 0 0 0 false)) ∧
  Handled 0x30 2 (fun s p e => (none, tsyncDo s p e.stroke e.stamp)) ∧
  (∀ (s : State) (i : Nat) (k : Stroke) (stamp : Word),
    (k.payload.headD 0 = 0 → tsyncDo s i k stamp = peerSend s i 0x30 { Stroke.blank with
      payload := [1] ++ List.replicate 7 0 ++ sliceZ k.payload 8 8 ++ leBytes 8 stamp.toNat ++ List.replicate 104 0 }) ∧
    (k.payload.headD 0 ≠ 0 → isSource s i = false → tsyncDo s i k stamp = s) ∧
    (i < 2 → k.payload.headD 0 ≠ 0 → isSource s i = true →
      let ts (n : Nat) : Word := wd (leAt k.payload (8 * n) 8)
      let asym := (BitVec.ofNat 16 (rfld s (pg .peer i + 0x200) 31 16)).toInt
      let th := ((ts 2 - ts 1) - (stamp - ts 3) - BitVec.ofInt 64 asym).toInt.tdiv 2
      let de := ((stamp - ts 1) - (ts 3 - ts 2)).toInt.tdiv 2
      let st := pg .peer i + 0x208
      let t := tsyncDo s i k stamp
      t.mem = s.mem ∧ (peerAt t i).tsFirst = false ∧ (peerAt t i).tsLast = t.tb ∧
        rfld t st 63 32 = (BitVec.ofInt 32 th).toNat ∧ rfld t st 31 8 = (BitVec.ofInt 24 de).toNat ∧
        (if (peerAt s i).tsFirst = true ∧ 25600 < th then
          t.tb = wd ((s.tb.toNat * 256 + s.tbFrac + th.natAbs) / 256) ∧ t.slew = 0
        else t.tb = s.tb ∧ t.slew = th) ∧
        (2560 < th.natAbs → rbit t st 0 = false ∧ (rbit s st 0 = true → intRaw t .peer i 5 = true)) ∧
        (th.natAbs ≤ 64 → 7 ≤ (peerAt s i).tsGood → rbit t st 0 = true ∧ (rbit s st 0 = false → intRaw t .peer i 4 = true)))) ∧
  Handled 0x40 3 (fun s p e =>
    (none, gosTake (gosTake s p (e.stroke.payload.take 64) true) p (e.stroke.payload.drop 64) false)) ∧
  (∀ (s : State) (p : Nat) (d : List Byte) (own : Bool),
    let node := leAt d 40 1
    let r : GosRec :=
      { digest := BitVec.ofNat 256 (leAt d 0 32), epoch := wd (leAt d 32 8), hops := leAt d 41 1, stamp := wd (leAt d 48 8) }
    (leAt d 42 1 = 0 → gosTake s p d own = s) ∧
    (leAt d 42 1 ≠ 0 → smFind s.gossip node = none → smFind (gosTake s p d own).gossip node = some r) ∧
    (∀ h, leAt d 42 1 ≠ 0 → smFind s.gossip node = some h →
      smFind (gosTake s p d own).gossip node =
        some (if h.epoch < r.epoch ∨ (h.epoch = r.epoch ∧ h.stamp < r.stamp) then r else h)) ∧
    (p < 2 → own = true → leAt d 42 1 ≠ 0 → r.epoch = localEpoch s → (peerAt (gosTake s p d own) p).grace = 0) ∧
    (p < 2 → own = true → leAt d 42 1 ≠ 0 → r.epoch ≠ localEpoch s →
      let g := (peerAt s p).grace + 1
      let late := Nat.max 1 (rfld s (pg .peer p + 0x300) 15 8) ≤ g
      (peerAt (gosTake s p d own) p).grace = g ∧
      (¬late → intRaw (gosTake s p d own) .peer p 6 = intRaw s .peer p 6) ∧
      (late → intRaw (gosTake s p d own) .peer p 6 = true ∧
        (rbit s (pg .peer p + 0x308) 63 = false →
          rget (gosTake s p d own) (pg .peer p + 0x308) = wd (2 ^ 63 + node % 16 * 2 ^ 48 + r.epoch.toNat % 2 ^ 48) ∧
          rget (gosTake s p d own) (pg .peer p + 0x310) = r.digest.extractLsb' 0 64))) ∧
    (p < 2 → leAt d 42 1 ≠ 0 → r.epoch = localEpoch s → r.digest ≠ localDigest s →
      intRaw (gosTake s p d own) .peer p 6 = true ∧
      (rbit s (pg .peer p + 0x308) 63 = false →
        rbit (gosTake s p d own) (pg .peer p + 0x308) 63 = true ∧
        rfld (gosTake s p d own) (pg .peer p + 0x308) 51 48 = node % 16 ∧
        rget (gosTake s p d own) (pg .peer p + 0x310) = r.digest.extractLsb' 0 64)))

/-- R396 to R404, R412, R413, R416, R417, R459, R460: the timebase, domain transitions and NADIR, the supplies, and the
divisor. That the memory of a part turned off reads zero (log 7) and the levels of VDD between a target and its settling
(log 56) are the model's choice. -/
def Obligations.PowerResults : Prop :=
  (∀ (s : State) (v : Word) (ic : InitClass), pageOn s .tb 0 = true →
    (s.tb < v → exec (.tbSet v ic) s = .next { s with tb := v, tbFrac := 0 }) ∧
    (v ≤ s.tb → exec (.tbSet v ic) s = .next s)) ∧
  (∀ s : State, s.power.alarmed = false →
    (s.tb < rget s (pg .tb + 0x108) → exec .tbAlarm s = .next s) ∧
    (rget s (pg .tb + 0x108) ≤ s.tb → rbit s (pg .pwr + 0x120) 0 = false →
      ∃ t, exec .tbAlarm s = .next t ∧ intRaw t .tb 0 0 = true ∧ t.power.alarmed = true ∧ t.mem = s.mem)) ∧
  (∀ (s : State) (v : Word) (ic : InitClass), pageOn s .pwr 0 = true →
    (rbit s (pg .pwr + 0x108) 34 = true ∨ inHold s = true ∨ s.power.queue ≠ [] →
      exec (.dreq v ic) s = .next { s with power := { s.power with queue := s.power.queue ++ [some v] } }) ∧
    (∀ d, rbit s (pg .pwr + 0x108) 34 = false → inHold s = false → s.power.queue = [] → 3 ≤ d → d ≤ 10 →
      rbit s (pg .pwr + 0x100) d = true → v = rget s (pg .pwr + 0x100) ^^^ (1 <<< d) →
      (∃ p ∈ s.ctxs, p.1 / 256 = d - 3 ∧ p.2.run ≠ .empty) →
      rfld s (pg .pwr + 0x108) 33 32 = rfld s (pg .pwr + 0x100) 33 32 →
      ∃ t, exec (.dreq v ic) s = .next t ∧ rbit t (pg .pwr + 0x108) 35 = true ∧ rfld t (pg .pwr + 0x108) 47 40 = 2 ∧
        intRaw t .pwr 0 1 = true ∧ rget t (pg .pwr + 0x100) = rget s (pg .pwr + 0x100) ∧ t.mem = s.mem) ∧
    (∀ d, rbit s (pg .pwr + 0x108) 34 = false → inHold s = false → s.power.queue = [] →
      (3 ≤ d ∧ d ≤ 10) ∨ (16 ≤ d ∧ d ≤ 21) ∨ ((d = 2 ∨ d = 22 ∨ d = 23) ∧ v.getLsbD d = true) →
      v = rget s (pg .pwr + 0x100) ^^^ (1 <<< d) → domOn s d = !v.getLsbD d →
      (d ≤ 10 → v.getLsbD d = false → ∀ p ∈ s.ctxs, p.1 / 256 = d - 3 → p.2.run = .empty) →
      rfld s (pg .pwr + 0x108) 33 32 = rfld s (pg .pwr + 0x100) 33 32 →
      ∃ t, exec (.dreq v ic) s = .next t ∧ rbit t (pg .pwr + 0x108) 34 = true ∧ t.power.entry = s.power.entry ∧
        (∃ on, t.power.cur = some (on, fld v 33 32) ∧ on.testBit d = v.getLsbD d) ∧ t.mem = s.mem ∧
        rget t (pg .pwr + 0x100) = v)) ∧
  (∀ (s : State) (on mem : Nat), s.power.halted = false → s.power.cur = some (on, mem) → s.power.entry = false →
    s.power.queue = [] → s.life.tam = false → on < 2 ^ 24 → mem < 4 →
    ∃ t, exec .domainTransitionDone s = .next t ∧ t.power.cur = none ∧ rbit t (pg .pwr + 0x108) 34 = false ∧
      intRaw t .pwr 0 0 = true ∧ rfld t (pg .pwr + 0x108) 33 32 = mem ∧
      (∀ d, d < 24 → domOn t d = (if 11 ≤ d ∧ d < 16 then decide (mem = 3) else on.testBit d)) ∧
      (mem = 0 → ∀ a, a < 0x2000000000 → memByte t.mem a = 0) ∧
      (∀ a, 0x2000000000 ≤ a → a < bankBase 248 → memByte t.mem a = memByte s.mem a)) ∧
  (∀ (s : State) (on mem : Nat), s.power.halted = false → s.power.cur = some (on, mem) → s.power.entry = true → mem < 2 →
    let u := settleAll s
    (accessOpen u = true → exec .domainTransitionDone s = .next u) ∧
    (accessOpen u = false → u.power.wake = false → u.life.tam = false → rbit u (pg .lct + 0x118) 8 = false →
      ∃ t, exec .domainTransitionDone s = .next t ∧ t.power.nadir = true ∧ t.power.entry = false ∧ t.power.cur = none ∧
        rbit t (pg .pwr + 0x108) 34 = false ∧ intRaw t .pwr 0 0 = true ∧ rbit t (pg .clk + 0x100) 0 = false ∧
        rfld t (pg .pwr + 0x108) 33 32 = mem ∧ (∀ d, d < 24 → domOn t d = decide (d = 0)) ∧
        (∀ a, bankBase 248 ≤ a → a < bankBase 256 → memByte t.mem a = memByte u.mem a) ∧
        (∀ a, spadBase ≤ a → a < bankBase 248 → memByte t.mem a = 0) ∧
        (∀ a, a < 0x2000000000 → memByte t.mem a = if mem = 0 then 0 else memByte u.mem a))) ∧
  (∀ (s : State) (ic : InitClass) (cx : CtxId), pageOn s .pwr 0 = true →
    (ic = 3 → (∀ p ∈ s.ctxs, p.1 ≠ cx.toNat → p.2.run = .empty) →
      rbit s (pg .pwr + 0x108) 34 = true ∨ inHold s = true ∨ s.power.queue ≠ [] →
      exec (.nadir ic cx) s = .next { s with power := { s.power with queue := s.power.queue ++ [none] } }) ∧
    (ic = 3 → (∀ p ∈ s.ctxs, p.1 ≠ cx.toNat → p.2.run = .empty) →
      rbit s (pg .pwr + 0x108) 34 = false → inHold s = false → s.power.queue = [] →
      ∃ t, exec (.nadir ic cx) s = .next t ∧ rbit t (pg .pwr + 0x108) 34 = true ∧ t.power.entry = true ∧ t.mem = s.mem ∧ t.ctxs = s.ctxs) ∧
    (ic ≠ 3 → ∃ t, exec (.nadir ic cx) s = .next t ∧ rbit t (pg .pwr + 0x108) 35 = true ∧ rfld t (pg .pwr + 0x108) 47 40 = 5 ∧
      intRaw t .pwr 0 1 = true ∧ t.mem = s.mem ∧ t.power = s.power) ∧
    (ic = 3 → exec (.reset ic) s = .next (startUp s .device)) ∧ (ic ≠ 3 → exec (.reset ic) s = .next s)) ∧
  (∀ s : State, s.power.nadir = true →
    (∀ w n, (w = .perst ∧ n = 1 ∨ w = .i3c ∧ n = 2) → rbit s (pg .pwr + 0x120) n = true →
      exec (.nadirWake w) s = .next (startUp s .nadirWake)) ∧
    (rget s (pg .tb + 0x108) ≤ s.tb → rbit s (pg .pwr + 0x120) 0 = true → exec (.nadirWake .tba) s = .next (startUp s .nadirWake))) ∧
  (∀ (s : State) (w : WakeSrc), s.power.nadir = false → exec (.nadirWake w) s = .next s) ∧
  (∀ (s : State) (r : Fin 5) (depth : BitVec 16), s.power.halted = false →
    let st := pg .sup + 0x108
    let low := railLow s r.val depth.toNat && !railReset s r.val depth.toNat
    (railReset s r.val depth.toNat = true → exec (.supplyWarning r depth) s = exec (.supplyReset r) s) ∧
    (railReset s r.val depth.toNat = false → railLow s r.val depth.toNat = false → exec (.supplyWarning r depth) s = .next s) ∧
    (low = true → inHold s = false → ∃ t, exec (.supplyWarning r depth) s = .next t ∧ rbit t st r.val = true ∧ inHold t = true ∧
      rbit t (pg .clk + 0x100) 1 = true ∧ intRaw t .sup 0 0 = true ∧ t.power.dipRail = r.val ∧ t.power.dipDepth = depth.toNat ∧
      t.power.dipStart = s.tb ∧ 6 ≤ rfld t (pg .clk + 0x100) 11 8 ∧ t.mem = s.mem) ∧
    (low = true → inHold s = true → ∃ t, exec (.supplyWarning r depth) s = .next t ∧ rbit t st r.val = true ∧ inHold t = true ∧
      t.power.dipDepth = Nat.max s.power.dipDepth depth.toNat ∧ t.power.dipRail = s.power.dipRail ∧ t.mem = s.mem)) ∧
  (∀ (s : State) (r : Fin 5) (d : Nat), d ≤ 1000 → r ≠ 0 →
    railLow s r.val d = decide ([750, 800, 750, 750, 1200].getD r.val 0 - d < [0, 736, 690, 690, 1104].getD r.val 0) ∧
    railReset s r.val d =
      decide (([750, 800, 750, 750, 1200].getD r.val 0 - d) * 10 ≤ [0, 6800, 6375, 6375, 10200].getD r.val 0)) ∧
  (∀ (s : State) (r : Fin 5),
    let sup := pg .sup + 0x108
    let left := [0, 1, 3, 4].any fun n => decide (n ≠ r.val) && rbit s sup n
    (startWaits s = false ∨ left = true → ∃ t, exec (.supplyRecovery r) s = .next t ∧ rbit t sup r.val = false ∧
      (∀ n, n ≠ r.val → n < 64 → rbit t sup n = rbit s sup n) ∧ t.mem = s.mem ∧ t.ctxs = s.ctxs) ∧
    (startWaits s = true → left = false → ∃ t, exec (.supplyRecovery r) s = .next t ∧ rbit t sup r.val = false ∧
      t.ctxs = State.reset.ctxs ∧ rfld t (pg .pwr + 0x128) 7 0 = 6 ∧ rbit t (pg .clk + 0x100) 0 = true ∧
      ∀ d, d < 24 → domOn t d = if 11 ≤ d ∧ d < 16 then decide (rfld s (pg .pwr + 0x108) 33 32 = 3) else true)) ∧
  (∀ s : State, s.power.halted = false → inHold s = true → rfld s (pg .sup + 0x108) 4 0 = 0 → s.power.queue = [] →
    s.power.dipRail < 16 → s.power.dipDepth < 2 ^ 16 →
    let log := pg .sup + 0x100
    ∃ t, exec .holdExit s = .next t ∧ inHold t = false ∧ intRaw t .sup 0 1 = true ∧ t.mem = s.mem ∧
      rfld t log 63 48 = Nat.min (rfld s log 63 48 + 1) 0xFFFF ∧ rfld t log 35 32 = s.power.dipRail ∧
      rfld t log 31 16 = s.power.dipDepth ∧ rfld t log 15 0 = Nat.min ((s.tb.toNat - s.power.dipStart.toNat) / 100) 0xFFFF) ∧
  (∀ s : State, s.power.halted = false → inHold s = true → rfld s (pg .sup + 0x108) 4 0 ≠ 0 →
    ∃ t, exec .orderlyStop s = .next t ∧ t.power.halted = true ∧ rbit t (pg .sup + 0x108) 9 = true ∧ intRaw t .sup 0 2 = true ∧
      t.plogQ = [] ∧ (rfld s (pg .pwr + 0x108) 33 32 = 3 → rfld t (pg .pwr + 0x108) 33 32 = 1) ∧
      (∀ a, a < keepBase → memByte t.mem a = memByte s.mem a)) ∧
  (∀ s : State, let target := rfld s (pg .orr + 0x120) 9 0
    (s.power.settle = none → exec .vddSettled s = .next { s with power := { s.power with level := target } }) ∧
    (∀ d, s.power.settle = some d → d < 16 →
      (avsBase s d ≤ target → ∃ t, exec .vddSettled s = .next t ∧ rfld t (pg .clk + 0x100) 11 8 = d ∧
        t.power = { s.power with settle := none, level := target } ∧ t.mem = s.mem) ∧
      (target < avsBase s d → ∃ t, exec .vddSettled s = .next t ∧ rfld t (pg .orr + 0x120) 9 0 = avsBase s d ∧
        t.power = { s.power with level := target, avsOut := s.power.avsOut ++ [avsBase s d] } ∧ t.mem = s.mem)))

/-- R405 to R411, R429, R433, R460: the resets, start-up from the memory field to the images, and recalibration. What a reset
or wake keeps where its rule does not say (log 58), that lost memory reads zero (log 7), that WARN shows at each reset which
rails start-up waits for (log 57) and the order of the boot ROM's checks (log 59) are the model's choice. -/
def Obligations.StartUpResults : Prop :=
  (∀ s : State,
    exec .powerOnReset s = .next (startUp s .powerOn) ∧ exec .sysRstN s = .next (startUp s .device) ∧
    (∀ r : Fin 5, exec (.supplyReset r) s =
      .next (startUp (rsetB s (pg .sup + 0x108) r.val true) (if r = 2 then .powerOn else .supply)))) ∧
  (∀ (s : State) (k : ResetKind), rbit s (pg .lct + 0x118) 8 = false → (k = .nadirWake → s.life.tam = false) →
    let t := startUp s k
    let waits := decide (k ≠ .nadirWake) && [0, 1, 3, 4].any (rbit s (pg .sup + 0x108))
    t.ctxs = (if waits then [] else State.reset.ctxs) ∧ (k ≠ .nadirWake → t.bells = []) ∧ t.pending = s.pending ∧ t.power.halted = false ∧ t.power.nadir = false ∧
      rfld t (pg .pwr + 0x128) 7 0 = (if waits then 3 else 6) ∧ rbit t (pg .clk + 0x100) 0 = !waits ∧
      (k ≠ .nadirWake → waits = false → rfld t (pg .clk + 0x100) 11 8 = if k ≠ .powerOn ∧ inHold s = true then 6 else 3) ∧
      rfld t (pg .sys + 0x108) 1 0 = 0 ∧ t.island.nonce = 0 ∧ t.life.state = s.life.state ∧ t.life.count = s.life.count ∧
      t.tb = (if k = .powerOn then 0 else s.tb) ∧
      (k = .powerOn → rget t (pg .sup + 0x100) = 0) ∧
      (k = .supply ∨ k = .device → rget t (pg .sup + 0x100) = rget s (pg .sup + 0x100) ∧ rget t (pg .ras + 0x100) = rget s (pg .ras + 0x100)) ∧
      (∀ a, spadBase ≤ a → a < bankBase 248 → memByte t.mem a = 0) ∧
      (∀ a, bankBase 248 ≤ a → a < bankBase 256 → memByte t.mem a =
        if k = .nadirWake ∧ s.power.tamper = false then memByte s.mem a else 0) ∧
      (∀ a, a < 0x2000000000 → memByte t.mem a =
        if k = .nadirWake ∨ (k = .device ∧ rfld s (pg .pwr + 0x108) 33 32 ≠ 0) then memByte s.mem a else 0) ∧
      (∀ a, keepBase ≤ a → a < calBase + 65520 ∨ calBase + 65536 ≤ a ∨ rbit s (pg .keep + 0x108) 0 = false →
        memByte t.mem a = memByte s.mem a)) ∧
  (∀ (s : State) (path : MemInit), rfld s (pg .sys + 0x108) 1 0 = 0 → rfld s (pg .pwr + 0x128) 15 8 = 0 → s.power.nadir = false →
    s.power.halted = false → rfld s (pg .pwr + 0x108) 33 32 ≠ 3 → rfld s (pg .pwr + 0x128) 7 0 < 8 →
    rfld s (pg .pwr + 0x128) 7 0 ≠ 3 →
    let m := rfld s (pg .pwr + 0x108) 33 32
    (path = .warm ∧ m = 1 ∨ path = .calibrated ∧ m ≠ 1 ∧ calValid s = true ∨ (∃ c, path = .trained c) ∧ m ≠ 1 ∧ calValid s = false →
      ∃ t, exec (.memoryFieldInit path) s = .next t ∧ memOn t = true ∧ rfld t (pg .pwr + 0x128) 7 0 = 8 ∧
        (∀ c, path = .trained c → c.length = 5 → ∀ i, i < 5 → rfld t (trainOff i) 39 32 = (c.getD i 0).toNat) ∧
        (path = .calibrated → ∀ i, i < 5 → rfld t (trainOff i) 39 32 = calTemp s) ∧
        rbit t (pg .keep + 0x108) 1 = !calValid s) ∧
    (path = .untrainable → m ≠ 1 → calValid s = false →
      ∃ t, exec (.memoryFieldInit path) s = .next t ∧ rfld t (pg .pwr + 0x128) 15 8 = 7 ∧ (ctxAt t 0).run = .parked ∧
        memOn t = false)) ∧
  (∀ (s : State) (src : BootSrc) (n : Nat) (q : Option (Byte × BitVec 2)) (c o : List Byte), booting s = true → memOn s = true →
    rfld s (pg .pwr + 0x128) 7 0 < 10 → s.life.state ≠ 4 → (bootOrder s)[s.power.bootAt]? = some n →
    (src = .norPrimary q c o ∧ n = 0 ∨ src = .norBackup q c o ∧ n = 1) →
    let r := norReads s q (if n = 0 then 0 else 0x2000000)
    let ic := norImage c
    let io := norImage o
    let k := imgCheck r ic.1 1 ic.2
    let m := imgCheck k.2 io.1 2 io.2
    ((imgMagic ic.1 && imgMagic io.1) = false → exec (.bootImageCheck src) s = .next (bootNext r 0)) ∧
    ((imgMagic ic.1 && imgMagic io.1) = true →
      (k.1 ≠ 0 → exec (.bootImageCheck src) s = .next (bootNext k.2 k.1)) ∧
      (k.1 = 0 → m.1 ≠ 0 → exec (.bootImageCheck src) s = .next (bootNext m.2 m.1)) ∧
      (k.1 = 0 → m.1 = 0 → rfld m.2 (pg .sys + 0x108) 1 0 = 0 →
        ∃ t, exec (.bootImageCheck src) s = .next t ∧ rfld t (pg .sys + 0x108) 1 0 = 1 ∧ rbit t (pg .sys + 0x108) 8 = true ∧
          rfld t (pg .pwr + 0x128) 7 0 = 10 ∧ rfld t (pg .pwr + 0x128) 17 16 = n ∧ (ctxAt t 0).run = .ready ∧
          (ctxAt t 0).super = true ∧ (ctxAt t 0).cust = true ∧
          capCursor (ctxAt t 0).pcc = (leAt ic.1 0x10 8 + leAt ic.1 0x18 8) % 2 ^ 64))) ∧
  (∀ (s : State) (src : BootSrc), booting s = true → memOn s = true → rfld s (pg .pwr + 0x128) 7 0 < 10 → s.life.state = 4 →
    ∃ t, exec (.bootImageCheck src) s = .next t ∧ (ctxAt t 0).run = .parked ∧ t.mem = s.mem) ∧
  (∀ (s : State) (ic : InitClass), pageOn s .keep 0 = true →
    rbit s (pg .keep + 0x108) 0 = false → inHold s = false → memOn s = true →
    ∃ t, exec (.recal ic) s = .next t ∧ rbit t (pg .keep + 0x108) 0 = true ∧ (∀ m, m < 5 → trainOpen t m = true) ∧
      t.mem = s.mem) ∧
  (∀ (s : State) (set : List Byte), rbit s (pg .keep + 0x108) 0 = true → inHold s = false → s.power.halted = false →
    (∀ m, m < 5 → trainOpen s m = false) →
    let body := sliceZ set 0 65520 ++ leBytes 8 (calSeq s + 1) ++ leBytes 4 2
    ∃ t, exec (.recalComplete set) s = .next t ∧ rbit t (pg .keep + 0x108) 0 = false ∧ rbit t (pg .keep + 0x108) 1 = false ∧
      rfld t (pg .keep + 0x108) 9 8 = 2 ∧ t.orrery = { s.orrery with avsNext := some (calTable t) } ∧
      memBytes t.mem calBase 65536 = body ++ leBytes 4 (crc32c body).toNat ∧
      (∀ a, a < calBase ∨ calBase + 65536 ≤ a → memByte t.mem a = memByte s.mem a))

/-- R414 to R422: the sensors, the loops and the planner. The rounding of the power and of its average, what a failing sensor's
sample leaves in its register and the times from which the loops count (log 61), and the floor of the target while a lower
divisor waits for VDD (log 56) are the model's choice. -/
def Obligations.OrreryResults : Prop :=
  (∀ (s : State) (n : BitVec 6) (t : BitVec 12) (ok : Bool),
    let i := n.toNat
    let off := pg .orr + 0x300 + 8 * i
    (domOn s (sensorDom i) = false → exec (.sensorSample n t ok) s = .next s) ∧
    (domOn s (sensorDom i) = true → injArmed s .orr 0 (0x40 + i) = false →
      (ok = false ∨ t.toInt < -220 ∨ 600 < t.toInt → ∃ u, exec (.sensorSample n t ok) s = .next u ∧ rbit u off 15 = true ∧
        rfld u off 11 0 = t.toNat ∧ smGet 0 u.orrery.good i = 0 ∧ u.mem = s.mem ∧
        (rbit s off 15 = false → intRaw u .orr 0 5 = true ∧ intRaw u .mgmt 0 7 = true)) ∧
      (ok = true → -220 ≤ t.toInt → t.toInt ≤ 600 → ∃ u, exec (.sensorSample n t ok) s = .next u ∧ rfld u off 11 0 = t.toNat ∧
        u.power.trip = (s.power.trip || decide (460 ≤ t.toInt)) ∧ u.mem = s.mem ∧
        rbit u off 15 = (rbit s off 15 && decide (smGet 0 s.orrery.good i < 15)) ∧
        (rbit s off 15 = true → smGet 0 s.orrery.good i < 15 → smGet 0 u.orrery.good i = smGet 0 s.orrery.good i + 1)))) ∧
  (∀ (s : State) (d : Fin 24) (c v : BitVec 16), ∃ u, exec (.currentSample d c v) s = .next u ∧ u.mem = s.mem ∧
    let off := pg .orr + 0x180 + 8 * d.val
    let pkg := pg .orr + 0x108
    let x := c.toNat * v.toNat
    (∃ p, (p = x / 1000 ∨ x % 1000 ≠ 0 ∧ p = x / 1000 + 1) ∧ rget u off = wd (Nat.min 0xFFFF p * 65536 + c.toNat)) ∧
    (d ≠ 23 → ∀ o, o ≠ off → rget u o = rget s o) ∧
    (d = 23 →
      let inst := Nat.min 0xFFFF (((List.range 24).map fun k => rfld u (pg .orr + 0x180 + 8 * k) 31 16).foldl (· + ·) 0)
      rfld u pkg 15 0 = inst ∧ u.orrery.hist = (inst :: s.orrery.hist).take 100 ∧
        rfld u (pg .orr + 0x110) 3 0 = if 11 * capWatts s < inst ∧ s.power.nadir = false ∧ rfld s (pg .orr + 0x110) 3 0 < 12 then
          rfld s (pg .orr + 0x110) 3 0 + 1 else rfld s (pg .orr + 0x110) 3 0)) ∧
  (∀ (s : State), s.power.nadir = false →
    let vdd := pg .orr + 0x120
    let target := rfld s vdd 9 0
    (∀ a, ∃ t, exec (.avsStep true a) s = .next t ∧ rfld t vdd 9 0 = Nat.min 850 (target + 5) ∧ t.mem = s.mem) ∧
    (let low := Nat.max (Nat.max 650 (avsBase s (rfld s (pg .clk + 0x100) 11 8) - 50))
        (match s.power.settle with | some d => avsBase s d | none => 0)
      ∃ t, exec (.avsStep false true) s = .next t ∧ rfld t vdd 9 0 = (if low ≤ target - 5 then target - 5 else target) ∧ t.mem = s.mem) ∧
    exec (.avsStep false false) s = .next s) ∧
  (∀ s : State, s.power.nadir = false → capHot s = false →
    let thr := pg .orr + 0x110
    let k := rfld s thr 3 0
    let stepTo (j : Nat) : Prop := ∃ t, exec .capEvaluation s = .next t ∧ rfld t thr 3 0 = j ∧ rfld t thr 27 24 = Nat.max 3 j ∧
      rbit t thr 31 = decide (j ≠ 0) ∧ rfld t (pg .mov + 0x118) 8 0 = [256, 128, 64].getD j 32 ∧ t.mem = s.mem
    (10 * capWatts s < rfld s (pg .orr + 0x108) 47 32 → k < 12 → stepTo (k + 1)) ∧
    (rfld s (pg .orr + 0x108) 47 32 ≤ 10 * capWatts s → heldMs s s.orrery.capLow = true → 2 * rfld s (pg .orr + 0x108) 47 32 < 19 * capWatts s →
      1 ≤ k → k ≤ 12 → stepTo (k - 1)) ∧
    (rfld s (pg .orr + 0x108) 47 32 ≤ 10 * capWatts s → heldMs s s.orrery.capLow = false ∨ 19 * capWatts s ≤ 2 * rfld s (pg .orr + 0x108) 47 32 →
      exec .capEvaluation s = .next s)) ∧
  (∀ s : State, s.power.nadir = false → injArmed s .orr 0 1 = false →
    let thr := pg .orr + 0x110
    let d := rfld s thr 19 16
    let t := thermalMax s
    let lim : Int := 4 * thermLimit s
    let goes (j : Nat) : Prop := ∃ u, exec .thermalEvaluation s = .next u ∧ rfld u thr 19 16 = j ∧ u.mem = s.mem
    (420 ≤ t → goes 12) ∧ (t < 420 → lim < t → d ≤ 12 → goes (Nat.min 12 (d + 1))) ∧
    (t < lim - 4 * (thermHyst s : Int) → t < 420 →
      goes (if heldMs s (some (s.orrery.thLow.getD s.tb)) = true then Nat.max 3 (d - 1) else d)) ∧
    (lim - 4 * (thermHyst s : Int) ≤ t → t ≤ lim → t < 420 → goes d)) ∧
  (∀ s : State, rbit s (pg .orr + 0x158) 16 = true → rbit s (pg .orr + 0x160) 63 = false →
    let req (i : Nat) : Nat := pg .orr + 0x800 + 16 * i
    (∀ i, reqPick s = some i → i < 64 → ∃ t, exec .plannerRun s = .next t ∧ rbit t (pg .orr + 0x160) 63 = true ∧
      rfld t (pg .orr + 0x160) 37 32 = i ∧ rfld t (pg .orr + 0x160) 55 48 = (rfld s (pg .orr + 0x160) 55 48 + 1) % 256 ∧
      rfld t (pg .orr + 0x160) 31 16 = rfld s (req i) 47 32 ∧ rbit t (req i) 62 = true ∧ intRaw t .orr 0 2 = true ∧
      intRaw t .mgmt 0 4 = true ∧ t.mem = s.mem) ∧
    (reqPick s = none → exec .plannerRun s = .next s) ∧
    (∀ i, reqPick s = some i → i < 64 ∧ reqEligible s i = true ∧
      ∀ j, j < 64 → reqEligible s j = true → reqScore s j < reqScore s i ∨ (reqScore s j = reqScore s i ∧ i ≤ j)) ∧
    ((∃ j, j < 64 ∧ reqEligible s j = true) → reqPick s ≠ none)) ∧
  (∀ (s : State) (v : Word) (ic : InitClass), pageOn s .orr 0 = true →
    let dec := pg .orr + 0x160
    let req := pg .orr + 0x800 + 16 * rfld s dec 37 32
    (rbit s dec 63 = true → fld v 7 0 = rfld s dec 55 48 → ∃ t, exec (.dack v ic) s = .next t ∧ rbit t dec 63 = false ∧
      rbit t req 62 = false ∧ rbit t req 59 = !v.getLsbD 8 ∧ t.mem = s.mem ∧
      (v.getLsbD 8 = true → rbit t req 63 = false ∧ intRaw t .orr 0 3 = true) ∧
      (v.getLsbD 8 = false → rbit t req 63 = rbit s req 63 ∧ intRaw t .orr 0 4 = true)) ∧
    (rbit s dec 63 = false ∨ fld v 7 0 ≠ rfld s dec 55 48 → ∃ t, exec (.dack v ic) s = .next t ∧
      rbit t (pg .orr + 0x158) 63 = true ∧ rget t dec = rget s dec ∧ t.mem = s.mem)) ∧
  (∀ (s : State) (i : BitVec 6) (v : Word) (ic : InitClass), pageOn s .orr 0 = true →
    let req := pg .orr + 0x800 + 16 * i.toNat
    (rbit s req 62 = false → exec (.reqAWrite i v ic) s = .next (rset s req (v &&& 0xB3FFFFFFFFFFFFFF))) ∧
    (rbit s req 62 = true → ∃ t, exec (.reqAWrite i v ic) s = .next t ∧ rget t req = rget s req ∧
      rbit t (pg .orr + 0x158) 63 = true ∧ t.mem = s.mem))

/-- R431 to R438: watchdogs, loss of lock, the persistent log, and injection. -/
def Obligations.RasResults : Prop :=
  (∀ (s : State) (w : Bool) (v : Word) (ic : InitClass), pageOn s .ras 0 = true →
    let i := b2n w
    let off := pg .ras + 0x140 + 8 * i
    (ic = 3 ∨ (w = false ∧ ic = 1) →
      (∃ t, exec (.swdWrite w v ic) s = .next t ∧ rbit t off 63 = v.getLsbD 63 ∧ rfld t off 47 0 = fld v 47 0 ∧
        rbit t off 62 = rbit s off 62 ∧ t.mem = s.mem ∧
        (v.getLsbD 63 = true → rbit s off 63 = false → smFind t.swdLeft i = some (Nat.max 1000 (fld v 47 0))) ∧
        (v.getLsbD 63 = true → rbit s off 63 = true → t.swdLeft = s.swdLeft)) ∧
      (v.getLsbD i = true → rbit s off 63 = true →
        ∃ t, exec (.swdkick v ic) s = .next t ∧ rbit t off 62 = false ∧
          smFind t.swdLeft i = some (Nat.max 1000 (rfld s off 47 0)) ∧ t.mem = s.mem) ∧
      (v.getLsbD i = true → rbit s off 63 = false →
        ∃ t, exec (.swdkick v ic) s = .next t ∧ rbit t off 62 = false ∧ smFind t.swdLeft i = smFind s.swdLeft i ∧ t.mem = s.mem)) ∧
    (ic ≠ 3 → (w = true ∨ ic ≠ 1) → exec (.swdWrite w v ic) s = .next s)) ∧
  (∀ (s : State) (w : Bool), s.power.nadir = false → s.power.halted = false →
    let off := pg .ras + 0x140 + 8 * b2n w
    rbit s off 63 = true → smFind s.swdLeft (b2n w) = some 0 →
    (rbit s off 62 = false → ∃ t, exec (.watchdogExpiry w) s = .next t ∧ rbit t off 62 = true ∧ intRaw t .ras 0 (1 + b2n w) = true ∧
      smFind t.swdLeft (b2n w) = some (Nat.max 1000 (rfld s off 47 0)) ∧ t.mem = s.mem) ∧
    (rbit s off 62 = true → exec (.watchdogExpiry w) s = .next (fatalReset s 4 (b2n w) (pg .ras) .device))) ∧
  (∀ s : State, rbit s (pg .clk + 0x100) 0 = true → s.power.nadir = false →
    exec .lossOfLock s =
      .next (fatalReset (intSet (rsetB s (pg .clk + 0x100) 0 false) .clk 0 0) 5 0 (pg .clk) .device)) ∧
  (∀ (s : State) (e : LogEnt) (q : List LogEnt), s.plogQ = e :: q →
    let at' := keepBase + 0x20000 + 64 * rfld s (pg .ras + 0x160) 11 0
    ∃ t, exec .logRecordWrite s = .next t ∧ t.plogQ = q ∧ t.plogSeq = s.plogSeq + 1 ∧
      rfld t (pg .ras + 0x160) 11 0 = (rfld s (pg .ras + 0x160) 11 0 + 1) % 4096 ∧
      rfld t (pg .ras + 0x160) 63 32 = (s.plogSeq + 1).toNat % 2 ^ 32 ∧
      memBytes t.mem at' 64 = logBytes e s.plogSeq ∧
      (∀ a, a < at' ∨ at' + 64 ≤ a → memByte t.mem a = memByte s.mem a)) ∧
  (∀ (s : State) (cls typ code page : Nat), cls < 4 →
    rfld (rasEvent s cls typ code page) (pg .ras + 0x100) (16 * cls + 15) (16 * cls) =
      Nat.min (rfld s (pg .ras + 0x100) (16 * cls + 15) (16 * cls) + 1) 0xFFFF ∧
    (2 ≤ cls → s.plogQ.length < 15 → ∃ e, (rasEvent s cls typ code page).plogQ = s.plogQ ++ [e] ∧
      e.cls = cls ∧ e.typ = typ ∧ e.code = code ∧ e.page = page ∧ e.tb = s.tb) ∧
    (cls = 0 → (rasEvent s cls typ code page).plogQ = s.plogQ) ∧ (rasEvent s cls typ code page).mem = s.mem) ∧
  (∀ (s : State) (off : BitVec 24) (v : Word) (ic : InitClass) (k : PageKind) (i : Nat),
    off.toNat % 0x1000 = 0x040 → pageAt off.toNat = some (k, i) → pageOn s k i = true →
    (fld v 63 48 ≠ 0x494A → exec (.inject off v ic) s = .next s) ∧
    (∀ p, fld v 63 48 = 0x494A → fld v 5 4 = 1 ∨ fld v 5 4 = 2 → p = fld v 15 8 → pointDefined k p = true →
      k ≠ .ras → k ≠ .sup → k ≠ .clk → k ≠ .lct →
      ∃ t, exec (.inject off v ic) s = .next t ∧ injArmed t k i p = true ∧ t.mem = s.mem) ∧
    (fld v 63 48 = 0x494A → fld v 5 4 = 0 → ∃ t, exec (.inject off v ic) s = .next t ∧ (∀ p, injArmed t k i p = false) ∧ t.mem = s.mem) ∧
    (fld v 63 48 = 0x494A → fld v 5 4 ≠ 0 → pointDefined k (fld v 15 8) = false →
      ∃ t, exec (.inject off v ic) s = .next t ∧ (∀ p, injArmed t k i p = false) ∧ t.mem = s.mem))

/-- R4, R120, R194, R230, R244, R423, R424, R441 to R451: accesses to the register pages. A register whose write does more
than its access codes say (`ownWrite`) is stated with the rows that write it. -/
def Obligations.RegisterPageResults : Prop :=
  (∀ (s : State) (off : BitVec 24) (v : Word) (ic : InitClass) (k : PageKind) (i : Nat), off.toNat % 8 = 0 →
    pageAt off.toNat = some (k, i) → pageOn s k i = true →
    let o := off.toNat % 0x1000
    let mask (p : FieldDef → Bool) : Word := maskOf (fieldsAt off.toNat) p
    (o = 0x008 ∨ o = 0x020 ∨ o = 0x028 → ∃ t, exec (.registerWrite off v ic) s = .next t ∧ t.mem = s.mem ∧
      rget t off.toNat = (rget s off.toNat &&& ~~~ mask (fun f => decide (f.acc = .rw))) |||
        (v &&& mask fun f => decide (f.acc = .rw)) ||| (v &&& mask fun f => decide (f.acc = .w1s))) ∧
    (o = 0x018 → ∃ t, exec (.registerWrite off v ic) s = .next t ∧ t.mem = s.mem ∧
      rget t off.toNat = rget s off.toNat &&& ~~~ v ∧ t.bells = s.bells ∧ rget t (pg k i + 0x010) = rget s (pg k i + 0x010)) ∧
    (0x100 ≤ o → ownWrite k o = false →
      let lock := rbit s (pg k i + 8) 0
      let bank := (o - 0x120) / 8
      let powers := ic = 2 ∨ ic = 3 ∨ ¬(v.getLsbD 14 = true ∨ rbit s off.toNat 14 = true)
      let takes (a : Acc) : Bool := match a with
        | .rw => true
        | .rwl => !lock
        | .rwa => !lock && decide (rfld s (pg k i + 0x108) 3 1 ≠ 1) && decide (activeSet s i ≠ (o - 0x200) / 0x100)
        | .rwi => decide powers && !(decide (bank = chBank s i) && [2, 3, 4].contains (chState s i)) &&
            !(decide (bank ≠ chBank s i) && rbit s (pg .movch i + 0x108) 7)
        | .rwr => decide powers && decide (rfld s (pg k i + 0x980 + (o - 0x880)) 1 0 = 0)
        | _ => false
      let set := mask fun f => takes f.acc
      ∃ t, exec (.registerWrite off v ic) s = .next t ∧ t.mem = s.mem ∧ t.bells = s.bells ∧
        rget t off.toNat = ((rget s off.toNat &&& ~~~ set) ||| (v &&& set) ||| (v &&& mask fun f => decide (f.acc = .w1s))) &&&
          ~~~ (v &&& mask fun f => decide (f.acc = .w1c)) ∧
        ∀ q, q ≠ off.toNat → q ≠ pg k i + 0x050 → rget t q = rget s q) ∧
    (o = 0x008 ∨ o = 0x020 ∨ o = 0x028 ∨ (0x100 ≤ o ∧ ownWrite k o = false) → ∀ t, exec (.registerWrite off v ic) s = .next t →
      let c := mask fun f => decide (f.cls = .c)
      let count := pg k i + 0x050
      let term (s : State) : Word := if c = 0 then 0 else mix64 (wd off.toNat) ^^^ mix64 (rget s off.toNat &&& c)
      (rget t off.toNat &&& c = rget s off.toNat &&& c → rget t count = rget s count) ∧
      (rget t off.toNat &&& c ≠ rget s off.toNat &&& c →
        rget t count = wd (ic.toNat * 2 ^ 36 + (rfld s count 31 0 + 1) % 2 ^ 32)) ∧
      digestNow t k i = digestNow s k i - term s + term t) ∧
    (o = 0x048 → (regRead s off.toNat).1 = some (((regsOf k).map fun r =>
      let a := pg k i + r.off
      let c := maskOf (fieldsAt a) fun f => decide (f.cls = .c)
      if c = 0 then 0 else mix64 (wd a) ^^^ mix64 (rget s a &&& c)).foldl (· + ·) 0)) ∧
    (let raw := rget s (pg k i + 0x018)
     let en := rget s (pg k i + 0x020)
     let bell := rget s (pg k i + 0x028)
     let rings (b : Nat) : Prop := ∃ t, exec (.registerWrite off v ic) s = .next t ∧
       rfld t (pg k i + 0x010) 63 32 = (rfld s (pg k i + 0x010) 63 32 + 1) % 2 ^ 32 ∧ (smGet [] s.bellQ b = [] → b ∈ t.bells)
     (o = 0x020 → ∀ b, (mask fun f => decide (f.acc = .rw)).getLsbD b = true → raw.getLsbD b = true →
       en.getLsbD b = false → v.getLsbD b = true → bell.getLsbD 12 = true → rings (fld bell 8 0)) ∧
     (o = 0x028 → raw &&& en ≠ 0 → v.getLsbD 12 = true → bell.getLsbD 12 = false ∨ fld bell 8 0 ≠ fld v 8 0 →
       rings (fld v 8 0))) ∧
    (o = 0x000 ∨ o = 0x048 → ∃ t, exec (.registerWrite off v ic) s = .next t ∧ t.mem = s.mem ∧ rget t off.toNat = rget s off.toNat) ∧
    (∃ t, exec (.registerReadClear off ic) s = .next t ∧ t.mem = s.mem ∧ t.ctxs = s.ctxs ∧
      (¬(k = .mgmt ∧ (o = 0x110 ∨ o = 0x130)) →
        rget t off.toNat = rget s off.toNat &&& ~~~ mask fun f => decide (f.acc = .rc)))) ∧
  (∀ (s : State) (off : BitVec 24) (v : Word) (ic : InitClass),
    (off.toNat % 8 ≠ 0 ∨ pageAt off.toNat = none ∨ (∃ k i, pageAt off.toNat = some (k, i) ∧ pageOn s k i = false)) →
    exec (.registerWrite off v ic) s = .next s ∧ exec (.registerReadClear off ic) s = .next s) ∧
  (∀ (s : State) (k : PageKind) (i b : Nat), b < 64 →
    let raw := pg k i + 0x018
    rbit (intSet s k i b) raw b = true ∧ (∀ n, n ≠ b → n < 64 → rbit (intSet s k i b) raw n = rbit s raw n) ∧
    (k ≠ .mgmt → rbit s (pg k i + 0x020) b = false → intSet s k i b = rsetB s raw b true) ∧
    (rbit s (pg k i + 0x020) b = true → rbit s (pg k i + 0x028) 12 = true → smGet [] s.bellQ (rfld s (pg k i + 0x028) 8 0) = [] →
      rfld s (pg k i + 0x028) 8 0 ∈ (intSet s k i b).bells)) ∧
  (∀ (s : State) (n : BitVec 6) (v : Word) (ic : InitClass), pageOn s .car 0 = true →
    (∀ b, b / 64 = n.toNat → smGet [] s.bellQ b = []) →
    ∃ t, exec (.pend n v ic) s = .next t ∧ t.mem = s.mem ∧ t.ctxs = s.ctxs ∧
      ∀ b, b ∈ t.bells ↔ b ∈ s.bells ∨ (b / 64 = n.toNat ∧ v.getLsbD (b % 64) = true)) ∧
  (∀ (s : State) (v : Word) (ic : InitClass), pageOn s .sys 0 = true →
    let ph := pg .sys + 0x108
    let p := fld v 1 0
    (ic = 3 → (p = 1 ∨ p = 2) → rfld s ph 1 0 ≠ p → ∃ t, exec (.phase v ic) s = .next t ∧ rget t ph = wd (0x100 + p) ∧
      intRaw t .sys 0 0 = true ∧ t.mem = s.mem ∧ (p = 2 → rfld t (pg .pwr + 0x128) 7 0 = 11)) ∧
    (ic ≠ 3 ∨ p = 0 ∨ p = 3 → exec (.phase v ic) s = .next s))

/-- R71, R74 to R80: an integer row changes the registers it names, the flags when its S is 1, its PCC and its place in the
scheduler, and the core's count of instructions; nothing else of the context, of another context, of the core or of the
device; it gives up a REPU's hold on its core as that ends, and then parks if it was to (R64, R108). R62, R69, R71: g0 reads
as the null capability and discards what is written; any other register holds what is written to it and no other register
changes; the upper registers of a frame are the a-registers of the frame above. -/
def Obligations.IntegerFrame : Prop :=
  (∀ (s : State) (i : Instr) (r : IntRow), intRow i = some r → canIssue s r.cx r.ins = true →
    ∃ t, exec i s = .next (releaseHold r.cx t) ∧
      { t with regs := s.regs, ctxs := s.ctxs, cores := s.cores } = s ∧
      (∀ off, off ≠ corePg (coreOf r.cx) 0x130 → rget t off = rget s off) ∧
      rget t (corePg (coreOf r.cx) 0x130) = rget s (corePg (coreOf r.cx) 0x130) + 1 ∧
      (∀ k, k ≠ coreOf r.cx → coreAt t k = coreAt s k) ∧
      (let c := coreAt s (coreOf r.cx)
       { coreAt t (coreOf r.cx) with lastSel := c.lastSel, sel := c.sel, slot := c.slot, issued := c.issued } = c) ∧
      (∀ x, x ≠ r.cx → { ctxAt t x with age := (ctxAt s x).age, yielded := (ctxAt s x).yielded } = ctxAt s x) ∧
      (let c := cpu s r.cx
       let d := ctxAt t r.cx
       { d with run := c.run, why := c.why, bank := c.bank, badPar := c.badPar, div := c.div, flags := c.flags, pcc := c.pcc
                queue := c.queue, fetch := c.fetch, walk := c.walk, shadow := c.shadow, repAct := c.repAct
                repCnt := c.repCnt, repU := c.repU, age := c.age } = c ∧
       (∀ k, k ∉ regKeys c r.ins.writes → smGet Cap.null d.bank k = smGet Cap.null c.bank k ∧ (k ∈ d.badPar ↔ k ∈ c.badPar)) ∧
       (r.sf = false → d.flags = c.flags) ∧ d.age = 0 ∧ (d.queue = c.queue ∨ d.queue = c.queue.tail ∨ d.queue = []) ∧
       (c.repAct = false → d.pcc = pccAt c (pcOf c + 4) ∧ d.run = if d.queue = [] then .stalled else .ready))) ∧
  (∀ (s : State) (cx : CtxId), let c := ctxAt s cx
    (c.repU = true → releaseHold cx s = s) ∧
    (c.repU = false → c.parkDue = false → releaseHold cx s = dropHold s cx) ∧
    (c.repU = false → c.parkDue = true → c.run ≠ .empty →
      (ctxAt (releaseHold cx s) cx).run = .parked ∧ (ctxAt (releaseHold cx s) cx).parkDue = false ∧
      (ctxAt (releaseHold cx s) cx).bank = c.bank ∧ (ctxAt (releaseHold cx s) cx).pcc = c.pcc ∧ (releaseHold cx s).mem = s.mem)) ∧
  (∀ (c : Ctx) (v : Cap), readReg c 0 = Cap.null ∧ writeReg c 0 v = c) ∧
  (∀ (c : Ctx) (q r : Reg) (v : Cap), r ≠ 0 →
    readReg (writeReg c r v) q = (if q = r then v else readReg c q) ∧ (writeReg c r v).cwp = c.cwp) ∧
  (∀ f r, f < 8 → 8 ≤ r → r < 16 → regKey ((f + 1) % 8) r = regKey f (r + 16))

/-- R45, R70, R72, R76, R80, R107, R143, R432: an integer row that is issued and not executed. An encoding that its rule
calls illegal, or that a repeat does not admit, faults ILLEGAL; operands that are not available leave the context STALLED;
a register with bad parity faults POISON, with the parity recorded. None of them changes memory or the bank. -/
def Obligations.IntegerRowsNotExecuted : Prop :=
  ∀ (s : State) (i : Instr) (r : IntRow), intRow i = some r → atIssue s r.cx r.ins.word = true →
    let c := ctxAt s r.cx
    let admitted := !c.repAct || decide ((if c.repU then 2 else 1) ≤ r.ins.rep)
    ((r.ins.bad = true ∨ admitted = false) →
      exec i s = .next (trapped r.cx (begun s r.cx) { kind := 0x0C } r.ins.word)) ∧
    (r.ins.bad = false → admitted = true →
      (∀ w, operandWait (cpu s r.cx) r.ins = some w → exec i s = .next (stalled r.cx (begun s r.cx) w)) ∧
      (∀ q inj, operandWait (cpu s r.cx) r.ins = none → badRead (begun s r.cx) r.cx (cpu s r.cx) r.ins.reads = some (q, inj) →
        ∃ u, u.mem = s.mem ∧ ((∀ b, ∀ w ∈ smGet [] s.bellQ b, BitVec.ofNat 11 w ≠ r.cx) → (ctxAt u r.cx).bank = c.bank) ∧
          intRaw u .core (coreOf r.cx).toNat 1 = true ∧
          exec i s = .next (trapped r.cx u { kind := 0x0A } r.ins.word)))

/-- R98, R143, R144, R146, R147: taking a fault. The context parks at its instruction; its record joins the fault queue of its
world's effective fault context and that world's fault bell rings; without one, or from that context itself, an operator
fault goes to the Custodian's with ESC, and any other is recorded in LOST. Memory and the context's bank do not change. -/
def Obligations.FaultDelivery : Prop :=
  ∀ (s : State) (cx : CtxId) (f : FaultInfo) (w : Word),
    let c := ctxAt s cx
    let k := coreOf cx
    let t := deliver s cx f w
    let home := svcEff s k c.cust true
    let lost := corePg k 0x120
    let queued (world esc : Bool) : Prop :=
      (∃ r, Records s cx f w esc r ∧ faultQ (coreAt t k) world = faultQ (coreAt s k) world ++ [r]) ∧
        faultQ (coreAt t k) (!world) = faultQ (coreAt s k) (!world) ∧ t.regs = s.regs ∧
        (smGet [] s.bellQ (faultBell k world) = [] → faultBell k world ∈ t.bells)
    c.run ≠ .empty →
    t.mem = s.mem ∧ (smGet [] s.bellQ (faultBell k c.cust) = [] → smGet [] s.bellQ (faultBell k true) = [] →
      rbit s (corePg k 0x028) 12 = false →
      (ctxAt t cx).run = .parked ∧ (ctxAt t cx).bank = c.bank ∧ (ctxAt t cx).flags = c.flags ∧ (ctxAt t cx).pcc = c.pcc ∧
        ∀ x, x ≠ cx → ctxAt t x = ctxAt s x) ∧
    (∀ x, home = some x → x ≠ cxLow cx → queued c.cust false) ∧
    (home = none ∨ home = some (cxLow cx) →
      (c.cust = false → (svcEff s k true true).isSome = true → queued true true) ∧
      (c.cust = true ∨ svcEff s k true true = none →
        (∀ q, faultQ (coreAt t k) q = faultQ (coreAt s k) q) ∧ intRaw t .core k.toNat 0 = true ∧
        (intRaw s .core k.toNat 0 = false → f.kind < 256 →
          rfld t lost 7 0 = f.kind ∧ rfld t lost 11 8 = (cxLow cx).toNat ∧ rbit t lost 12 = c.cust) ∧
        (intRaw s .core k.toNat 0 = true → rbit t lost 30 = true)))

/-- Whatever command is performed, a step keeps memory in the canonical form in which equal memories are equal data
(assumption log 7): every list strictly rising, and nothing listed that an unlisted address reads as. -/
def Obligations.StepKeepsMemory : Prop :=
  ∀ s t : State, Memory.wf s.mem = true → step s = .next t → Memory.wf t.mem = true

/-- A step performs the command at the front of the queue on the state with the rest of the queue. On an empty queue one unit
of TB passes, which is the model's choice (assumption log 2): TB counts, and where no port has anything to send or to take
up, nothing but the clocks, the ages of the contexts, the watchdogs and the Mover's credits changes. In NADIR TB alone
counts, four at a time (R397), and not while REFCLK has stopped (R466). -/
def Obligations.StepRunsFrontCommand : Prop :=
  (∀ (s : State) (c : Instr) (q : List Instr), step { s with pending := c :: q } = exec c { s with pending := q }) ∧
  (∀ s : State, s.pending = [] → s.power.nadir = true → ∃ t, step s = .next t ∧ { t with tb := s.tb, tbFrac := s.tbFrac } = s ∧
    (s.power.refStop = false → s.tbFrac < 256 → t.tb = s.tb + 4 ∧ t.tbFrac = s.tbFrac) ∧
    (s.power.refStop = true → t.tb = s.tb ∧ t.tbFrac = s.tbFrac)) ∧
  (∀ s : State, s.pending = [] → s.power.nadir = false → smSorted 0 s.cores = true →
    (∀ m, m < 4 → (medAt s m).inq = []) →
    (∀ p, p < 2 → linkState s p < 2 ∧ (peerAt s p).inq = [] ∧ (peerAt s p).txq = []) →
    ∃ t, step s = .next t ∧
    { t with tb := s.tb, tbFrac := s.tbFrac, slew := s.slew, slewAcc := s.slewAcc, tbHalf := s.tbHalf, cclk := s.cclk
             swdLeft := s.swdLeft, movs := s.movs, ctxs := s.ctxs, cores := s.cores, peers := s.peers } = s ∧
    (∀ p, peerAt t p = peerAt s p) ∧
    (∀ k, { coreAt t k with issued := (coreAt s k).issued, slot := (coreAt s k).slot } = coreAt s k ∧
      (coreAt t k).issued = 0 ∧
      (coreAt t k).slot = (coreAt s k).slot + BitVec.ofNat 4 ((coreAt s k).issued - (t.cclk / 27720 - s.cclk / 27720))) ∧
    (∀ x, { ctxAt t x with age := (ctxAt s x).age } = ctxAt s x ∧ (decoded (ctxAt s x) = false → ctxAt t x = ctxAt s x)) ∧
    t.cclk = s.cclk + 48 * 27720 / Nat.max 3 (rfld s (pg .clk + 0x100) 11 8) ∧
    (s.slew = 0 → s.tbFrac = 0 → t.tb = s.tb + 1 ∧ t.tbFrac = 0) ∧
    (s.power.halted = false → ∀ w, smFind t.swdLeft w = (smFind s.swdLeft w).map (· - (t.tb - s.tb).toNat)))

/-- R35, R46, R109, R440: the device right after reset. Context 0 of core 0 is READY with its PCC and its four roots; every
other context is EMPTY; no bell is pending; every register of a page has the value of its Reset column. Memory reads as zero
and the queue is empty, which are the model's choices (assumption log 7); its memory has the canonical form of
StepKeepsMemory. -/
def Obligations.ResetState : Prop :=
  let s := State.reset
  let c := ctxAt s 0
  (∀ x, x ≠ 0 → (ctxAt s x).run = .empty ∧ ∀ r, readReg (ctxAt s x) r = Cap.null) ∧
  c.run = .ready ∧ c.super = true ∧ c.cust = true ∧ c.mode.xlat = false ∧ c.em = true ∧ c.cwp = 0 ∧ c.depth = 0 ∧
  c.pcc = { bits := BitVec.ofNat 128 (29 * 2 ^ 122 + 0x80000 * 2 ^ 82 + 0x04D * 2 ^ 72 + 0xC200000000), tag := true } ∧
  readReg c 1 = { bits := BitVec.ofNat 128 (29 * 2 ^ 122 + 0x80000 * 2 ^ 82 + 0x07B * 2 ^ 72), tag := true } ∧
  readReg c 2 = c.pcc ∧
  readReg c 3 = { bits := BitVec.ofNat 128 (0x10 * 2 ^ 82 + 0x1C0 * 2 ^ 72), tag := true } ∧
  readReg c 4 = { bits := BitVec.ofNat 128 (0x10000 * 2 ^ 82 + 0x240 * 2 ^ 72), tag := true } ∧
  (∀ r : Reg, r = 0 ∨ 4 < r.toNat → readReg c r = Cap.null) ∧
  (∀ b, bellPending s b = false) ∧ (∀ off, rget s off = regReset off) ∧ (∀ k, coreAt s k = Core.idle) ∧
  (∀ a, memByte s.mem a = 0 ∧ memMeta s.mem a = false) ∧ s.tb = 0 ∧ s.pending = [] ∧
  Memory.wf s.mem = true
end

