-- ==== Sys2Proof/Laws/Issue.lean ====
section
/-! SUPPORT. What the issue of an instruction comes to, said once: an instruction that can issue leaves the state of its
body's result (`issue_done`, `issue_branch`, `issue_jump`, `issue_hold`, `issue_fault`, `issue_stall`), and a context that has
nothing to issue,
or that its core does not select, changes nothing (`issue_idle`). -/

namespace Sys2Proof.Laws
open Sys2Proof Sys2Proof.Machine

/-- The state after an instruction with this result. -/
def resultState (cx : CtxId) (i : Ins) : Res → State
  | .done s => ran cx s
  | .branch s x => ranBr cx s x
  | .jump s p => ranTo cx s p
  | .hold s => rested cx s
  | .fault s f => trapped cx s f i.word
  | .stall s w => stalled cx s w

theorem resultState_eq (cx : CtxId) (i : Ins) (r : Res) : releaseHold cx (finish cx i r) = resultState cx i r := by
  cases r <;> rfl

/-- An instruction at issue comes to what `attempt` says. -/
theorem issue_at {cx : CtxId} {i : Ins} {s : State} (body : Ctx → State → Res) (h : atIssue s cx i.word = true) :
    issue cx i body s = .next (resultState cx i (attempt cx i body (cpu s cx) (begun s cx))) := by
  unfold atIssue at h
  simp only [Bool.and_eq_true, Bool.not_eq_true'] at h
  obtain ⟨⟨⟨hm, hh⟩, hs⟩, hw⟩ := h
  unfold issue
  rw [if_neg (by simp [issues, hm, hh, hs])]
  cases hw' : headWord (ctxAt s cx) i.word with
  | error f => rw [hw'] at hw; simp at hw
  | ok b =>
    rw [hw'] at hw
    simp only at hw
    subst hw
    rw [← resultState_eq]
    rfl

/-- An instruction that can issue executes its body. -/
theorem issue_can {cx : CtxId} {i : Ins} {s : State} (body : Ctx → State → Res) (h : canIssue s cx i = true) :
    issue cx i body s = .next (resultState cx i (body (cpu s cx) (begun s cx))) := by
  unfold canIssue at h
  simp only [Bool.and_eq_true, Option.isNone_iff_eq_none] at h
  obtain ⟨⟨⟨ha, he⟩, ho⟩, hp⟩ := h
  rw [issue_at body ha]
  congr 2
  unfold attempt
  rw [if_neg]
  · simp only [ho, hp]
  · have hc : repBad (cpu s cx) i = repBad (ctxAt s cx) i := rfl
    rw [hc]
    unfold repBad
    cases hf : i.fp <;> cases hb : i.bad <;> cases hr : (ctxAt s cx).repAct <;> simp_all

theorem issue_done {cx : CtxId} {i : Ins} {s s1 : State} {body : Ctx → State → Res} (h : canIssue s cx i = true)
    (hb : body (cpu s cx) (begun s cx) = .done s1) : issue cx i body s = .next (ran cx s1) := by
  rw [issue_can body h, hb]; rfl

theorem issue_jump {cx : CtxId} {i : Ins} {s s1 : State} {p : Cap} {body : Ctx → State → Res}
    (h : canIssue s cx i = true) (hb : body (cpu s cx) (begun s cx) = .jump s1 p) :
    issue cx i body s = .next (ranTo cx s1 p) := by
  rw [issue_can body h, hb]; rfl

theorem issue_branch {cx : CtxId} {i : Ins} {s s1 : State} {x : Nat} {body : Ctx → State → Res}
    (h : canIssue s cx i = true) (hb : body (cpu s cx) (begun s cx) = .branch s1 x) :
    issue cx i body s = .next (ranBr cx s1 x) := by
  rw [issue_can body h, hb]; rfl

theorem issue_hold {cx : CtxId} {i : Ins} {s s1 : State} {body : Ctx → State → Res} (h : canIssue s cx i = true)
    (hb : body (cpu s cx) (begun s cx) = .hold s1) : issue cx i body s = .next (rested cx s1) := by
  rw [issue_can body h, hb]; rfl

theorem issue_fault {cx : CtxId} {i : Ins} {s s1 : State} {f : FaultInfo} {body : Ctx → State → Res}
    (h : canIssue s cx i = true) (hb : body (cpu s cx) (begun s cx) = .fault s1 f) :
    issue cx i body s = .next (trapped cx s1 f i.word) := by
  rw [issue_can body h, hb]; rfl

theorem issue_stall {cx : CtxId} {i : Ins} {s s1 : State} {w : Why} {body : Ctx → State → Res}
    (h : canIssue s cx i = true) (hb : body (cpu s cx) (begun s cx) = .stall s1 w) :
    issue cx i body s = .next (stalled cx s1 w) := by
  rw [issue_can body h, hb]; rfl

/-- A context that has nothing to issue, that an orderly stop holds, or that its core does not select issues nothing. -/
theorem issue_idle {cx : CtxId} {i : Ins} {s : State} (body : Ctx → State → Res)
    (h : mayIssue (ctxAt s cx) = false ∨ s.power.halted = true ∨ selectable s cx = false) : issue cx i body s = .next s := by
  unfold issue
  rw [if_pos]
  unfold issues
  rcases h with h | h | h <;> simp [h]

end Sys2Proof.Laws
end

