-- ==== Sys2Proof/Laws/Maps.lean ====
section
/-! SUPPORT. The sparse maps and the rising lists: reading after writing, and the canonical form that every operation
keeps. -/

namespace Sys2Proof.Laws
open Sys2Proof Sys2Proof.Machine

variable {α : Type}

/-! ### Reading after writing -/

theorem smFind_erase_same (k : Nat) (m : SMap α) : smFind (smErase k m) k = none := by
  induction m with
  | nil => rfl
  | cons p t ih =>
    obtain ⟨k', v⟩ := p
    by_cases h : k = k'
    · simp [smErase, h ▸ ih, h]
    · simp [smErase, smFind, h, ih]

theorem smFind_erase_other {k j : Nat} (h : j ≠ k) (m : SMap α) : smFind (smErase k m) j = smFind m j := by
  induction m with
  | nil => rfl
  | cons p t ih =>
    obtain ⟨k', v⟩ := p
    by_cases hk : k = k'
    · subst hk; simp [smErase, smFind, h, ih]
    · by_cases hj : j = k' <;> simp [smErase, smFind, hk, hj, ih]

theorem smFind_put_same (k : Nat) (v : α) (m : SMap α) : smFind (smPut k v m) k = some v := by
  induction m with
  | nil => simp [smPut, smFind]
  | cons p t ih =>
    obtain ⟨k', v'⟩ := p
    by_cases hk : k = k'
    · simp [smPut, smFind, hk]
    · by_cases hl : k < k' <;> simp [smPut, smFind, hk, hl, ih]

theorem smFind_put_other {k j : Nat} (h : j ≠ k) (v : α) (m : SMap α) : smFind (smPut k v m) j = smFind m j := by
  induction m with
  | nil => simp [smPut, smFind, h]
  | cons p t ih =>
    obtain ⟨k', v'⟩ := p
    by_cases hk : k = k'
    · subst hk; simp [smPut, smFind, h]
    · by_cases hl : k < k'
      · simp [smPut, smFind, hk, hl, h]
      · by_cases hj : j = k' <;> simp [smPut, smFind, hk, hl, hj, ih]

theorem smGet_eq_find (d : α) (m : SMap α) (k : Nat) : smGet d m k = (smFind m k).getD d := by
  induction m with
  | nil => rfl
  | cons p t ih =>
    obtain ⟨k', v⟩ := p
    by_cases h : k = k' <;> simp [smGet, smFind, h, ih]

/-- A map whose values are all changed reads as the changed value. -/
theorem smGet_map {β : Type} (f : α → β) (d : α) (m : SMap α) (k : Nat) :
    smGet (f d) (m.map fun x => (x.1, f x.2)) k = f (smGet d m k) := by
  induction m with
  | nil => rfl
  | cons p t ih =>
    obtain ⟨k', v⟩ := p
    by_cases h : k = k' <;> simp [smGet, h, ih]

@[simp] theorem smGet_set_same [DecidableEq α] (d : α) (m : SMap α) (k : Nat) (v : α) :
    smGet d (smSet d m k v) k = v := by
  by_cases h : v = d <;> simp [smSet, h, smGet_eq_find, smFind_erase_same, smFind_put_same]

theorem smGet_set_other [DecidableEq α] {k j : Nat} (h : j ≠ k) (d e : α) (m : SMap α) (v : α) :
    smGet d (smSet e m k v) j = smGet d m j := by
  by_cases hv : v = e <;> simp [smSet, hv, smGet_eq_find, smFind_erase_other h, smFind_put_other h]

theorem smFind_set_other [DecidableEq α] {k j : Nat} (h : j ≠ k) (e : α) (m : SMap α) (v : α) :
    smFind (smSet e m k v) j = smFind m j := by
  by_cases hv : v = e <;> simp [smSet, hv, smFind_erase_other h, smFind_put_other h]

theorem mem_setIns {a k : Nat} {l : List Nat} : a ∈ setIns k l ↔ a = k ∨ a ∈ l := by
  induction l with
  | nil => simp [setIns]
  | cons b t ih =>
    by_cases h : k = b
    · simp [setIns, h]
    · by_cases hl : k < b <;> simp [setIns, h, hl, ih]
      tauto

theorem mem_setDel {a k : Nat} {l : List Nat} : a ∈ setDel k l ↔ a ≠ k ∧ a ∈ l := by
  induction l with
  | nil => simp [setDel]
  | cons b t ih =>
    by_cases h : k = b
    · subst h; simp [setDel, ih]; tauto
    · by_cases hb : a = b
      · simp [setDel, h, hb, Ne.symm h]
      · simp [setDel, h, ih, hb]

/-! ### The canonical form -/

theorem smSorted_mono {lo lo' : Nat} (h : lo' ≤ lo) : ∀ {m : SMap α}, smSorted lo m = true → smSorted lo' m = true
  | [], _ => rfl
  | (k, _) :: t, hm => by
    simp only [smSorted, Bool.and_eq_true, decide_eq_true_eq] at hm ⊢
    exact ⟨by omega, hm.2⟩

theorem smSorted_erase (k : Nat) : ∀ {lo : Nat} {m : SMap α}, smSorted lo m = true → smSorted lo (smErase k m) = true
  | _, [], _ => rfl
  | lo, (k', v) :: t, h => by
    simp only [smSorted, Bool.and_eq_true, decide_eq_true_eq] at h
    have ih := smSorted_erase k h.2
    by_cases hk : k = k'
    · simp only [smErase, hk, if_true]
      exact smSorted_mono (by omega) (hk ▸ ih)
    · simp only [smErase, hk, if_false, smSorted, Bool.and_eq_true, decide_eq_true_eq]
      exact ⟨h.1, ih⟩

theorem smSorted_put (k : Nat) (v : α) :
    ∀ {lo : Nat} {m : SMap α}, lo ≤ k → smSorted lo m = true → smSorted lo (smPut k v m) = true
  | _, [], hlo, _ => by simp [smPut, smSorted, hlo]
  | lo, (k', v') :: t, hlo, h => by
    simp only [smSorted, Bool.and_eq_true, decide_eq_true_eq] at h
    by_cases hk : k = k'
    · simp only [smPut, hk, if_true, smSorted, Bool.and_eq_true, decide_eq_true_eq]; exact h
    · by_cases hl : k < k'
      · simp only [smPut, hk, hl, if_true, if_false, smSorted, Bool.and_eq_true, decide_eq_true_eq]
        exact ⟨hlo, by omega, h.2⟩
      · simp only [smPut, hk, hl, if_false, smSorted, Bool.and_eq_true, decide_eq_true_eq]
        exact ⟨h.1, smSorted_put k v (by omega) h.2⟩

theorem smSorted_filter (p : Nat × α → Bool) :
    ∀ {lo : Nat} {m : SMap α}, smSorted lo m = true → smSorted lo (m.filter p) = true
  | _, [], _ => rfl
  | lo, (k, v) :: t, h => by
    simp only [smSorted, Bool.and_eq_true, decide_eq_true_eq] at h
    have ih := smSorted_filter p h.2
    by_cases hp : p (k, v) = true
    · simp only [List.filter_cons, hp, if_true, smSorted, Bool.and_eq_true, decide_eq_true_eq]
      exact ⟨h.1, ih⟩
    · simp only [List.filter_cons, hp]
      exact smSorted_mono (by omega) ih

theorem mem_of_mem_erase {k : Nat} {q : Nat × α} {m : SMap α} (h : q ∈ smErase k m) : q ∈ m := by
  induction m with
  | nil => simp [smErase] at h
  | cons p t ih =>
    obtain ⟨k', v⟩ := p
    by_cases hk : k = k'
    · simp only [smErase, hk, if_true] at h ih; exact List.mem_cons_of_mem _ (ih h)
    · simp only [smErase, hk, if_false, List.mem_cons] at h ⊢
      exact h.imp_right ih

theorem mem_of_mem_put {k : Nat} {v : α} {q : Nat × α} {m : SMap α} (h : q ∈ smPut k v m) : q = (k, v) ∨ q ∈ m := by
  induction m with
  | nil => simpa [smPut] using h
  | cons p t ih =>
    obtain ⟨k', v'⟩ := p
    by_cases hk : k = k'
    · simp only [smPut, hk, if_true, List.mem_cons] at h ⊢; tauto
    · by_cases hl : k < k'
      · simpa only [smPut, hk, hl, if_true, if_false, List.mem_cons] using h
      · simp only [smPut, hk, hl, if_false, List.mem_cons] at h ⊢; tauto

theorem smWf_iff [DecidableEq α] {d : Nat → α} {m : SMap α} :
    smWf d m = true ↔ smSorted 0 m = true ∧ ∀ q ∈ m, q.2 ≠ d q.1 := by
  simp [smWf]

/-- Erasing a key keeps the canonical form. -/
theorem smWf_erase [DecidableEq α] {d : Nat → α} (k : Nat) {m : SMap α} (h : smWf d m = true) :
    smWf d (smErase k m) = true := by
  rw [smWf_iff] at h ⊢
  exact ⟨smSorted_erase k h.1, fun q hq => h.2 q (mem_of_mem_erase hq)⟩

/-- Setting a key to a value, against the key's own default, keeps the canonical form. -/
theorem smWf_set [DecidableEq α] {d : Nat → α} (k : Nat) (v : α) {m : SMap α} (h : smWf d m = true) :
    smWf d (smSet (d k) m k v) = true := by
  by_cases hv : v = d k
  · simp only [smSet, hv, if_true]; exact smWf_erase k h
  · rw [smWf_iff] at h ⊢
    simp only [smSet, hv, if_false]
    refine ⟨smSorted_put k v (Nat.zero_le k) h.1, fun q hq => ?_⟩
    rcases mem_of_mem_put hq with rfl | hq
    · exact hv
    · exact h.2 q hq

/-- Dropping entries keeps the canonical form. -/
theorem smWf_filter [DecidableEq α] {d : Nat → α} (p : Nat × α → Bool) {m : SMap α} (h : smWf d m = true) :
    smWf d (m.filter p) = true := by
  rw [smWf_iff] at h ⊢
  exact ⟨smSorted_filter p h.1, fun q hq => h.2 q (List.mem_filter.1 hq).1⟩

end Sys2Proof.Laws
end

