-- ==== Sys2Proof/Laws/Memory.lean ====
section
/-! SUPPORT. The arrays: reading a byte after a write, and the canonical form that every operation on them keeps
(assumption log 7). -/

namespace Sys2Proof.Laws
open Sys2Proof Sys2Proof.Machine

/-! ### Rising lists -/

theorem rising_mono {lo lo' : Nat} (h : lo' ≤ lo) : ∀ {l : List Nat}, rising lo l = true → rising lo' l = true
  | [], _ => rfl
  | a :: t, hl => by
    simp only [rising, Bool.and_eq_true, decide_eq_true_eq] at hl ⊢
    exact ⟨by omega, hl.2⟩

theorem rising_ins (k : Nat) : ∀ {lo : Nat} {l : List Nat}, lo ≤ k → rising lo l = true → rising lo (setIns k l) = true
  | _, [], hlo, _ => by simp [setIns, rising, hlo]
  | lo, a :: t, hlo, h => by
    simp only [rising, Bool.and_eq_true, decide_eq_true_eq] at h
    by_cases hk : k = a
    · simp only [setIns, hk, if_true, rising, Bool.and_eq_true, decide_eq_true_eq]; exact h
    · by_cases hl : k < a
      · simp only [setIns, hk, hl, if_true, if_false, rising, Bool.and_eq_true, decide_eq_true_eq]
        exact ⟨hlo, by omega, h.2⟩
      · simp only [setIns, hk, hl, if_false, rising, Bool.and_eq_true, decide_eq_true_eq]
        exact ⟨h.1, rising_ins k (by omega) h.2⟩

theorem rising_del (k : Nat) : ∀ {lo : Nat} {l : List Nat}, rising lo l = true → rising lo (setDel k l) = true
  | _, [], _ => rfl
  | lo, a :: t, h => by
    simp only [rising, Bool.and_eq_true, decide_eq_true_eq] at h
    have ih := rising_del k h.2
    by_cases hk : k = a
    · simp only [setDel, hk, if_true]
      exact rising_mono (by omega) (hk ▸ ih)
    · simp only [setDel, hk, if_false, rising, Bool.and_eq_true, decide_eq_true_eq]
      exact ⟨h.1, ih⟩

theorem rising_put (k : Nat) (b : Bool) {l : List Nat} (h : rising 0 l = true) : rising 0 (setPut k b l) = true := by
  cases b
  · exact rising_del k h
  · exact rising_ins k (Nat.zero_le k) h

theorem rising_filter (p : Nat → Bool) : ∀ {lo : Nat} {l : List Nat}, rising lo l = true → rising lo (l.filter p) = true
  | _, [], _ => rfl
  | lo, a :: t, h => by
    simp only [rising, Bool.and_eq_true, decide_eq_true_eq] at h
    have ih := rising_filter p h.2
    by_cases hp : p a = true
    · simp only [List.filter_cons, hp, if_true, rising, Bool.and_eq_true, decide_eq_true_eq]
      exact ⟨h.1, ih⟩
    · simp only [List.filter_cons, hp]
      exact rising_mono (by omega) ih

/-! ### Reading after writing -/

theorem memByte_put : ∀ (bs : List Byte) (m : Mem) (a x : Nat),
    memByte (memPut m a bs) x = if a ≤ x ∧ x < a + bs.length then bs.getD (x - a) 0 else memByte m x
  | [], m, a, x => by simp [memPut]
  | b :: bs, m, a, x => by
    rw [memPut, memByte_put bs]
    by_cases h1 : a + 1 ≤ x ∧ x < a + 1 + bs.length
    · rw [if_pos h1, if_pos (by simp; omega)]
      obtain ⟨n, rfl⟩ : ∃ n, x = a + 1 + n := ⟨x - (a + 1), by omega⟩
      simp [show a + 1 + n - (a + 1) = n by omega, show a + 1 + n - a = n + 1 by omega]
    · rw [if_neg h1]
      by_cases hx : x = a
      · subst hx
        simp [memByte]
      · rw [if_neg (by simp; omega)]
        exact smGet_set_other hx 0 0 m.bytes b

@[simp] theorem memByte_setMeta (m : Mem) (w a : Nat) (b : Bool) : memByte (memSetMeta m w b) a = memByte m a := rfl

@[simp] theorem memByte_poison (m : Mem) (g a : Nat) : memByte (memPoison m g) a = memByte m a := rfl

theorem memByte_marks (m : Mem) (a n : Nat) (tags poison : List Bool) (x : Nat) :
    memByte (memMarks m a n tags poison) x = memByte m x := by
  unfold memMarks
  generalize (grans a n).zipIdx = l
  induction l generalizing m with
  | nil => rfl
  | cons p t ih => rw [List.foldl_cons, ih]; rfl

/-- A write changes the bytes it covers and no other. -/
theorem memByte_write (m : Mem) (a : Nat) (bs : List Byte) (tags poison : List Bool) (x : Nat) :
    memByte (memWrite m a bs tags poison) x = if a ≤ x ∧ x < a + bs.length then bs.getD (x - a) 0 else memByte m x := by
  rw [memWrite, memByte_marks, memByte_put]

/-- Memories that agree on every byte of a range read the same there. -/
theorem memBytes_congr {m m' : Mem} : ∀ (n a : Nat), (∀ x, a ≤ x → x < a + n → memByte m x = memByte m' x) →
    memBytes m a n = memBytes m' a n
  | 0, _, _ => rfl
  | n + 1, a, h => by
    rw [memBytes, memBytes, h a (by omega) (by omega)]
    rw [memBytes_congr n (a + 1) fun x h1 h2 => h x (by omega) (by omega)]

/-- Bytes written read back. -/
theorem memBytes_put : ∀ (bs : List Byte) (m : Mem) (a : Nat), memBytes (memPut m a bs) a bs.length = bs
  | [], _, _ => rfl
  | b :: bs, m, a => by
    have h : memByte (memPut m a (b :: bs)) a = b := by
      rw [memByte_put, if_pos (by simp)]
      simp
    rw [List.length_cons, memBytes, h, memPut, memBytes_put bs]

/-! ### The canonical form -/

theorem wf_iff {m : Mem} : Memory.wf m = true ↔
    smWf (fun _ => 0) m.bytes = true ∧ rising 0 m.metas = true ∧ smWf (fun _ => 0) m.err = true := by
  simp [Memory.wf, and_assoc]

theorem wf_put : ∀ (bs : List Byte) {m : Mem} (a : Nat), Memory.wf m = true → Memory.wf (memPut m a bs) = true
  | [], _, _, h => h
  | b :: bs, m, a, h => by
    refine wf_put bs (a + 1) ?_
    rw [wf_iff] at h ⊢
    exact ⟨smWf_set (d := fun _ => 0) a b h.1, h.2⟩

theorem wf_setMeta {m : Mem} (w : Nat) (b : Bool) (h : Memory.wf m = true) : Memory.wf (memSetMeta m w b) = true := by
  rw [wf_iff] at h ⊢
  exact ⟨h.1, rising_put w b h.2.1, h.2.2⟩

theorem wf_poison {m : Mem} (g : Nat) (h : Memory.wf m = true) : Memory.wf (memPoison m g) = true :=
  wf_setMeta _ _ (wf_setMeta _ _ h)

/-- The error patterns may be replaced by others in canonical form. -/
theorem wf_err {m : Mem} {e : SMap (BitVec 80)} (h : Memory.wf m = true) (he : smWf (fun _ => 0) e = true) :
    Memory.wf { m with err := e } = true := by
  rw [wf_iff] at h ⊢
  exact ⟨h.1, h.2.1, he⟩

theorem wf_setWord {m : Mem} (w : Nat) (d : Word) (b : Bool) (h : Memory.wf m = true) :
    Memory.wf (memSetWord m w d b) = true :=
  wf_setMeta _ _ (wf_err (wf_put _ _ h) (smWf_erase _ (wf_iff.1 h).2.2))

theorem wf_marks {m : Mem} (a n : Nat) (tags poison : List Bool) (h : Memory.wf m = true) :
    Memory.wf (memMarks m a n tags poison) = true := by
  unfold memMarks
  generalize (grans a n).zipIdx = l
  induction l generalizing m with
  | nil => exact h
  | cons p t ih => exact ih (wf_setMeta _ _ (wf_setMeta _ _ h))

theorem wf_write {m : Mem} (a : Nat) (bs : List Byte) (tags poison : List Bool) (h : Memory.wf m = true) :
    Memory.wf (memWrite m a bs tags poison) = true := wf_marks _ _ _ _ (wf_put _ _ h)

theorem wf_erase {m : Mem} (lo hi : Nat) (h : Memory.wf m = true) : Memory.wf (memErase m lo hi) = true := by
  rw [wf_iff] at h ⊢
  exact ⟨smWf_filter _ h.1, rising_filter _ h.2.1, smWf_filter _ h.2.2⟩

theorem wf_after {m : Mem} (dram secure : Bool) (h : Memory.wf m = true) : Memory.wf (memAfter m dram secure) = true := by
  unfold memAfter
  cases dram
  · exact wf_erase _ _ (wf_erase _ _ h)
  · exact wf_erase _ _ h

theorem wf_reset : Memory.wf State.reset.mem = true := rfl

end Sys2Proof.Laws
end

