-- ==== Sys2Proof/Laws/State.lean ====
section
/-! SUPPORT. The updates of State, field by field: what each writer of a register, a context, a core or a cluster leaves
unchanged, and what a read after it gives. -/

namespace Sys2Proof.Laws
open Sys2Proof Sys2Proof.Machine

/-! ### rset -/

@[simp] theorem rset_mem (s : State) (off : Nat) (v : Word) : (rset s off v).mem = s.mem := (rfl)
@[simp] theorem rset_ctxs (s : State) (off : Nat) (v : Word) : (rset s off v).ctxs = s.ctxs := (rfl)
@[simp] theorem rset_cores (s : State) (off : Nat) (v : Word) : (rset s off v).cores = s.cores := (rfl)
@[simp] theorem rset_clusters (s : State) (off : Nat) (v : Word) : (rset s off v).clusters = s.clusters := (rfl)
@[simp] theorem rset_bells (s : State) (off : Nat) (v : Word) : (rset s off v).bells = s.bells := (rfl)
@[simp] theorem rset_bellQ (s : State) (off : Nat) (v : Word) : (rset s off v).bellQ = s.bellQ := (rfl)
@[simp] theorem rset_tlbs (s : State) (off : Nat) (v : Word) : (rset s off v).tlbs = s.tlbs := (rfl)
@[simp] theorem rset_invals (s : State) (off : Nat) (v : Word) : (rset s off v).invals = s.invals := (rfl)
@[simp] theorem rset_tlbDone (s : State) (off : Nat) (v : Word) : (rset s off v).tlbDone = s.tlbDone := (rfl)
@[simp] theorem rset_tb (s : State) (off : Nat) (v : Word) : (rset s off v).tb = s.tb := (rfl)
@[simp] theorem rset_free (s : State) (off : Nat) (v : Word) : (rset s off v).free = s.free := (rfl)
@[simp] theorem rset_plogQ (s : State) (off : Nat) (v : Word) : (rset s off v).plogQ = s.plogQ := (rfl)
@[simp] theorem rset_plogSeq (s : State) (off : Nat) (v : Word) : (rset s off v).plogSeq = s.plogSeq := (rfl)
@[simp] theorem rset_plogMs (s : State) (off : Nat) (v : Word) : (rset s off v).plogMs = s.plogMs := (rfl)
@[simp] theorem rset_lastRead (s : State) (off : Nat) (v : Word) : (rset s off v).lastRead = s.lastRead := (rfl)
@[simp] theorem rset_ports (s : State) (off : Nat) (v : Word) : (rset s off v).ports = s.ports := (rfl)
@[simp] theorem rset_islQ (s : State) (off : Nat) (v : Word) : (rset s off v).islQ = s.islQ := (rfl)
@[simp] theorem rset_ibiEn (s : State) (off : Nat) (v : Word) : (rset s off v).ibiEn = s.ibiEn := (rfl)
@[simp] theorem rset_ibiOut (s : State) (off : Nat) (v : Word) : (rset s off v).ibiOut = s.ibiOut := (rfl)
@[simp] theorem rset_movs (s : State) (off : Nat) (v : Word) : (rset s off v).movs = s.movs := (rfl)
@[simp] theorem rset_movUnits (s : State) (off : Nat) (v : Word) : (rset s off v).movUnits = s.movUnits := (rfl)
@[simp] theorem rset_movErr (s : State) (off : Nat) (v : Word) : (rset s off v).movErr = s.movErr := (rfl)
@[simp] theorem rset_rings (s : State) (off : Nat) (v : Word) : (rset s off v).rings = s.rings := (rfl)
@[simp] theorem rset_hosts (s : State) (off : Nat) (v : Word) : (rset s off v).hosts = s.hosts := (rfl)
@[simp] theorem rset_meds (s : State) (off : Nat) (v : Word) : (rset s off v).meds = s.meds := (rfl)
@[simp] theorem rset_peers (s : State) (off : Nat) (v : Word) : (rset s off v).peers = s.peers := (rfl)
@[simp] theorem rset_gossip (s : State) (off : Nat) (v : Word) : (rset s off v).gossip = s.gossip := (rfl)
@[simp] theorem rset_gosNext (s : State) (off : Nat) (v : Word) : (rset s off v).gosNext = s.gosNext := (rfl)
@[simp] theorem rset_mgmt (s : State) (off : Nat) (v : Word) : (rset s off v).mgmt = s.mgmt := (rfl)
@[simp] theorem rset_power (s : State) (off : Nat) (v : Word) : (rset s off v).power = s.power := (rfl)
@[simp] theorem rset_orrery (s : State) (off : Nat) (v : Word) : (rset s off v).orrery = s.orrery := (rfl)
@[simp] theorem rset_life (s : State) (off : Nat) (v : Word) : (rset s off v).life = s.life := (rfl)
@[simp] theorem rset_island (s : State) (off : Nat) (v : Word) : (rset s off v).island = s.island := (rfl)
@[simp] theorem rset_swdLeft (s : State) (off : Nat) (v : Word) : (rset s off v).swdLeft = s.swdLeft := (rfl)
@[simp] theorem rset_tbFrac (s : State) (off : Nat) (v : Word) : (rset s off v).tbFrac = s.tbFrac := (rfl)
@[simp] theorem rset_slew (s : State) (off : Nat) (v : Word) : (rset s off v).slew = s.slew := (rfl)
@[simp] theorem rset_slewAcc (s : State) (off : Nat) (v : Word) : (rset s off v).slewAcc = s.slewAcc := (rfl)
@[simp] theorem rset_tbHalf (s : State) (off : Nat) (v : Word) : (rset s off v).tbHalf = s.tbHalf := (rfl)
@[simp] theorem rset_cclk (s : State) (off : Nat) (v : Word) : (rset s off v).cclk = s.cclk := (rfl)
@[simp] theorem rset_cclkAt (s : State) (off : Nat) (v : Word) : (rset s off v).cclkAt = s.cclkAt := (rfl)
@[simp] theorem rset_batch (s : State) (off : Nat) (v : Word) : (rset s off v).batch = s.batch := (rfl)
@[simp] theorem rset_progBad (s : State) (off : Nat) (v : Word) : (rset s off v).progBad = s.progBad := (rfl)
@[simp] theorem rset_laneBad (s : State) (off : Nat) (v : Word) : (rset s off v).laneBad = s.laneBad := (rfl)
@[simp] theorem rset_codRegs (s : State) (off : Nat) (v : Word) : (rset s off v).codRegs = s.codRegs := (rfl)
@[simp] theorem rset_engLast (s : State) (off : Nat) (v : Word) : (rset s off v).engLast = s.engLast := (rfl)
@[simp] theorem rset_scrubHalf (s : State) (off : Nat) (v : Word) : (rset s off v).scrubHalf = s.scrubHalf := (rfl)
@[simp] theorem rset_dicts (s : State) (off : Nat) (v : Word) : (rset s off v).dicts = s.dicts := (rfl)
@[simp] theorem rset_prog (s : State) (off : Nat) (v : Word) : (rset s off v).prog = s.prog := (rfl)
@[simp] theorem rset_accepts (s : State) (off : Nat) (v : Word) : (rset s off v).accepts = s.accepts := (rfl)
@[simp] theorem rset_pending (s : State) (off : Nat) (v : Word) : (rset s off v).pending = s.pending := (rfl)

/-! ### setCtx -/

@[simp] theorem setCtx_regs (s : State) (cx : CtxId) (c : Ctx) : (setCtx s cx c).regs = s.regs := (rfl)
@[simp] theorem setCtx_mem (s : State) (cx : CtxId) (c : Ctx) : (setCtx s cx c).mem = s.mem := (rfl)
@[simp] theorem setCtx_cores (s : State) (cx : CtxId) (c : Ctx) : (setCtx s cx c).cores = s.cores := (rfl)
@[simp] theorem setCtx_clusters (s : State) (cx : CtxId) (c : Ctx) : (setCtx s cx c).clusters = s.clusters := (rfl)
@[simp] theorem setCtx_bells (s : State) (cx : CtxId) (c : Ctx) : (setCtx s cx c).bells = s.bells := (rfl)
@[simp] theorem setCtx_bellQ (s : State) (cx : CtxId) (c : Ctx) : (setCtx s cx c).bellQ = s.bellQ := (rfl)
@[simp] theorem setCtx_tlbs (s : State) (cx : CtxId) (c : Ctx) : (setCtx s cx c).tlbs = s.tlbs := (rfl)
@[simp] theorem setCtx_invals (s : State) (cx : CtxId) (c : Ctx) : (setCtx s cx c).invals = s.invals := (rfl)
@[simp] theorem setCtx_tlbDone (s : State) (cx : CtxId) (c : Ctx) : (setCtx s cx c).tlbDone = s.tlbDone := (rfl)
@[simp] theorem setCtx_tb (s : State) (cx : CtxId) (c : Ctx) : (setCtx s cx c).tb = s.tb := (rfl)
@[simp] theorem setCtx_free (s : State) (cx : CtxId) (c : Ctx) : (setCtx s cx c).free = s.free := (rfl)
@[simp] theorem setCtx_plogQ (s : State) (cx : CtxId) (c : Ctx) : (setCtx s cx c).plogQ = s.plogQ := (rfl)
@[simp] theorem setCtx_plogSeq (s : State) (cx : CtxId) (c : Ctx) : (setCtx s cx c).plogSeq = s.plogSeq := (rfl)
@[simp] theorem setCtx_plogMs (s : State) (cx : CtxId) (c : Ctx) : (setCtx s cx c).plogMs = s.plogMs := (rfl)
@[simp] theorem setCtx_lastRead (s : State) (cx : CtxId) (c : Ctx) : (setCtx s cx c).lastRead = s.lastRead := (rfl)
@[simp] theorem setCtx_ports (s : State) (cx : CtxId) (c : Ctx) : (setCtx s cx c).ports = s.ports := (rfl)
@[simp] theorem setCtx_islQ (s : State) (cx : CtxId) (c : Ctx) : (setCtx s cx c).islQ = s.islQ := (rfl)
@[simp] theorem setCtx_ibiEn (s : State) (cx : CtxId) (c : Ctx) : (setCtx s cx c).ibiEn = s.ibiEn := (rfl)
@[simp] theorem setCtx_ibiOut (s : State) (cx : CtxId) (c : Ctx) : (setCtx s cx c).ibiOut = s.ibiOut := (rfl)
@[simp] theorem setCtx_movs (s : State) (cx : CtxId) (c : Ctx) : (setCtx s cx c).movs = s.movs := (rfl)
@[simp] theorem setCtx_movUnits (s : State) (cx : CtxId) (c : Ctx) : (setCtx s cx c).movUnits = s.movUnits := (rfl)
@[simp] theorem setCtx_movErr (s : State) (cx : CtxId) (c : Ctx) : (setCtx s cx c).movErr = s.movErr := (rfl)
@[simp] theorem setCtx_rings (s : State) (cx : CtxId) (c : Ctx) : (setCtx s cx c).rings = s.rings := (rfl)
@[simp] theorem setCtx_hosts (s : State) (cx : CtxId) (c : Ctx) : (setCtx s cx c).hosts = s.hosts := (rfl)
@[simp] theorem setCtx_meds (s : State) (cx : CtxId) (c : Ctx) : (setCtx s cx c).meds = s.meds := (rfl)
@[simp] theorem setCtx_peers (s : State) (cx : CtxId) (c : Ctx) : (setCtx s cx c).peers = s.peers := (rfl)
@[simp] theorem setCtx_gossip (s : State) (cx : CtxId) (c : Ctx) : (setCtx s cx c).gossip = s.gossip := (rfl)
@[simp] theorem setCtx_gosNext (s : State) (cx : CtxId) (c : Ctx) : (setCtx s cx c).gosNext = s.gosNext := (rfl)
@[simp] theorem setCtx_mgmt (s : State) (cx : CtxId) (c : Ctx) : (setCtx s cx c).mgmt = s.mgmt := (rfl)
@[simp] theorem setCtx_power (s : State) (cx : CtxId) (c : Ctx) : (setCtx s cx c).power = s.power := (rfl)
@[simp] theorem setCtx_orrery (s : State) (cx : CtxId) (c : Ctx) : (setCtx s cx c).orrery = s.orrery := (rfl)
@[simp] theorem setCtx_life (s : State) (cx : CtxId) (c : Ctx) : (setCtx s cx c).life = s.life := (rfl)
@[simp] theorem setCtx_island (s : State) (cx : CtxId) (c : Ctx) : (setCtx s cx c).island = s.island := (rfl)
@[simp] theorem setCtx_swdLeft (s : State) (cx : CtxId) (c : Ctx) : (setCtx s cx c).swdLeft = s.swdLeft := (rfl)
@[simp] theorem setCtx_tbFrac (s : State) (cx : CtxId) (c : Ctx) : (setCtx s cx c).tbFrac = s.tbFrac := (rfl)
@[simp] theorem setCtx_slew (s : State) (cx : CtxId) (c : Ctx) : (setCtx s cx c).slew = s.slew := (rfl)
@[simp] theorem setCtx_slewAcc (s : State) (cx : CtxId) (c : Ctx) : (setCtx s cx c).slewAcc = s.slewAcc := (rfl)
@[simp] theorem setCtx_tbHalf (s : State) (cx : CtxId) (c : Ctx) : (setCtx s cx c).tbHalf = s.tbHalf := (rfl)
@[simp] theorem setCtx_cclk (s : State) (cx : CtxId) (c : Ctx) : (setCtx s cx c).cclk = s.cclk := (rfl)
@[simp] theorem setCtx_cclkAt (s : State) (cx : CtxId) (c : Ctx) : (setCtx s cx c).cclkAt = s.cclkAt := (rfl)
@[simp] theorem setCtx_batch (s : State) (cx : CtxId) (c : Ctx) : (setCtx s cx c).batch = s.batch := (rfl)
@[simp] theorem setCtx_progBad (s : State) (cx : CtxId) (c : Ctx) : (setCtx s cx c).progBad = s.progBad := (rfl)
@[simp] theorem setCtx_laneBad (s : State) (cx : CtxId) (c : Ctx) : (setCtx s cx c).laneBad = s.laneBad := (rfl)
@[simp] theorem setCtx_codRegs (s : State) (cx : CtxId) (c : Ctx) : (setCtx s cx c).codRegs = s.codRegs := (rfl)
@[simp] theorem setCtx_engLast (s : State) (cx : CtxId) (c : Ctx) : (setCtx s cx c).engLast = s.engLast := (rfl)
@[simp] theorem setCtx_scrubHalf (s : State) (cx : CtxId) (c : Ctx) : (setCtx s cx c).scrubHalf = s.scrubHalf := (rfl)
@[simp] theorem setCtx_dicts (s : State) (cx : CtxId) (c : Ctx) : (setCtx s cx c).dicts = s.dicts := (rfl)
@[simp] theorem setCtx_prog (s : State) (cx : CtxId) (c : Ctx) : (setCtx s cx c).prog = s.prog := (rfl)
@[simp] theorem setCtx_accepts (s : State) (cx : CtxId) (c : Ctx) : (setCtx s cx c).accepts = s.accepts := (rfl)
@[simp] theorem setCtx_pending (s : State) (cx : CtxId) (c : Ctx) : (setCtx s cx c).pending = s.pending := (rfl)

/-! ### setCore -/

@[simp] theorem setCore_regs (s : State) (k : CoreId) (c : Core) : (setCore s k c).regs = s.regs := (rfl)
@[simp] theorem setCore_mem (s : State) (k : CoreId) (c : Core) : (setCore s k c).mem = s.mem := (rfl)
@[simp] theorem setCore_ctxs (s : State) (k : CoreId) (c : Core) : (setCore s k c).ctxs = s.ctxs := (rfl)
@[simp] theorem setCore_clusters (s : State) (k : CoreId) (c : Core) : (setCore s k c).clusters = s.clusters := (rfl)
@[simp] theorem setCore_bells (s : State) (k : CoreId) (c : Core) : (setCore s k c).bells = s.bells := (rfl)
@[simp] theorem setCore_bellQ (s : State) (k : CoreId) (c : Core) : (setCore s k c).bellQ = s.bellQ := (rfl)
@[simp] theorem setCore_tlbs (s : State) (k : CoreId) (c : Core) : (setCore s k c).tlbs = s.tlbs := (rfl)
@[simp] theorem setCore_invals (s : State) (k : CoreId) (c : Core) : (setCore s k c).invals = s.invals := (rfl)
@[simp] theorem setCore_tlbDone (s : State) (k : CoreId) (c : Core) : (setCore s k c).tlbDone = s.tlbDone := (rfl)
@[simp] theorem setCore_tb (s : State) (k : CoreId) (c : Core) : (setCore s k c).tb = s.tb := (rfl)
@[simp] theorem setCore_free (s : State) (k : CoreId) (c : Core) : (setCore s k c).free = s.free := (rfl)
@[simp] theorem setCore_plogQ (s : State) (k : CoreId) (c : Core) : (setCore s k c).plogQ = s.plogQ := (rfl)
@[simp] theorem setCore_plogSeq (s : State) (k : CoreId) (c : Core) : (setCore s k c).plogSeq = s.plogSeq := (rfl)
@[simp] theorem setCore_plogMs (s : State) (k : CoreId) (c : Core) : (setCore s k c).plogMs = s.plogMs := (rfl)
@[simp] theorem setCore_lastRead (s : State) (k : CoreId) (c : Core) : (setCore s k c).lastRead = s.lastRead := (rfl)
@[simp] theorem setCore_ports (s : State) (k : CoreId) (c : Core) : (setCore s k c).ports = s.ports := (rfl)
@[simp] theorem setCore_islQ (s : State) (k : CoreId) (c : Core) : (setCore s k c).islQ = s.islQ := (rfl)
@[simp] theorem setCore_ibiEn (s : State) (k : CoreId) (c : Core) : (setCore s k c).ibiEn = s.ibiEn := (rfl)
@[simp] theorem setCore_ibiOut (s : State) (k : CoreId) (c : Core) : (setCore s k c).ibiOut = s.ibiOut := (rfl)
@[simp] theorem setCore_movs (s : State) (k : CoreId) (c : Core) : (setCore s k c).movs = s.movs := (rfl)
@[simp] theorem setCore_movUnits (s : State) (k : CoreId) (c : Core) : (setCore s k c).movUnits = s.movUnits := (rfl)
@[simp] theorem setCore_movErr (s : State) (k : CoreId) (c : Core) : (setCore s k c).movErr = s.movErr := (rfl)
@[simp] theorem setCore_rings (s : State) (k : CoreId) (c : Core) : (setCore s k c).rings = s.rings := (rfl)
@[simp] theorem setCore_hosts (s : State) (k : CoreId) (c : Core) : (setCore s k c).hosts = s.hosts := (rfl)
@[simp] theorem setCore_meds (s : State) (k : CoreId) (c : Core) : (setCore s k c).meds = s.meds := (rfl)
@[simp] theorem setCore_peers (s : State) (k : CoreId) (c : Core) : (setCore s k c).peers = s.peers := (rfl)
@[simp] theorem setCore_gossip (s : State) (k : CoreId) (c : Core) : (setCore s k c).gossip = s.gossip := (rfl)
@[simp] theorem setCore_gosNext (s : State) (k : CoreId) (c : Core) : (setCore s k c).gosNext = s.gosNext := (rfl)
@[simp] theorem setCore_mgmt (s : State) (k : CoreId) (c : Core) : (setCore s k c).mgmt = s.mgmt := (rfl)
@[simp] theorem setCore_power (s : State) (k : CoreId) (c : Core) : (setCore s k c).power = s.power := (rfl)
@[simp] theorem setCore_orrery (s : State) (k : CoreId) (c : Core) : (setCore s k c).orrery = s.orrery := (rfl)
@[simp] theorem setCore_life (s : State) (k : CoreId) (c : Core) : (setCore s k c).life = s.life := (rfl)
@[simp] theorem setCore_island (s : State) (k : CoreId) (c : Core) : (setCore s k c).island = s.island := (rfl)
@[simp] theorem setCore_swdLeft (s : State) (k : CoreId) (c : Core) : (setCore s k c).swdLeft = s.swdLeft := (rfl)
@[simp] theorem setCore_tbFrac (s : State) (k : CoreId) (c : Core) : (setCore s k c).tbFrac = s.tbFrac := (rfl)
@[simp] theorem setCore_slew (s : State) (k : CoreId) (c : Core) : (setCore s k c).slew = s.slew := (rfl)
@[simp] theorem setCore_slewAcc (s : State) (k : CoreId) (c : Core) : (setCore s k c).slewAcc = s.slewAcc := (rfl)
@[simp] theorem setCore_tbHalf (s : State) (k : CoreId) (c : Core) : (setCore s k c).tbHalf = s.tbHalf := (rfl)
@[simp] theorem setCore_cclk (s : State) (k : CoreId) (c : Core) : (setCore s k c).cclk = s.cclk := (rfl)
@[simp] theorem setCore_cclkAt (s : State) (k : CoreId) (c : Core) : (setCore s k c).cclkAt = s.cclkAt := (rfl)
@[simp] theorem setCore_batch (s : State) (k : CoreId) (c : Core) : (setCore s k c).batch = s.batch := (rfl)
@[simp] theorem setCore_progBad (s : State) (k : CoreId) (c : Core) : (setCore s k c).progBad = s.progBad := (rfl)
@[simp] theorem setCore_laneBad (s : State) (k : CoreId) (c : Core) : (setCore s k c).laneBad = s.laneBad := (rfl)
@[simp] theorem setCore_codRegs (s : State) (k : CoreId) (c : Core) : (setCore s k c).codRegs = s.codRegs := (rfl)
@[simp] theorem setCore_engLast (s : State) (k : CoreId) (c : Core) : (setCore s k c).engLast = s.engLast := (rfl)
@[simp] theorem setCore_scrubHalf (s : State) (k : CoreId) (c : Core) : (setCore s k c).scrubHalf = s.scrubHalf := (rfl)
@[simp] theorem setCore_dicts (s : State) (k : CoreId) (c : Core) : (setCore s k c).dicts = s.dicts := (rfl)
@[simp] theorem setCore_prog (s : State) (k : CoreId) (c : Core) : (setCore s k c).prog = s.prog := (rfl)
@[simp] theorem setCore_accepts (s : State) (k : CoreId) (c : Core) : (setCore s k c).accepts = s.accepts := (rfl)
@[simp] theorem setCore_pending (s : State) (k : CoreId) (c : Core) : (setCore s k c).pending = s.pending := (rfl)

/-! ### setCluster -/

@[simp] theorem setCluster_regs (s : State) (k : Nat) (c : Cluster) : (setCluster s k c).regs = s.regs := (rfl)
@[simp] theorem setCluster_mem (s : State) (k : Nat) (c : Cluster) : (setCluster s k c).mem = s.mem := (rfl)
@[simp] theorem setCluster_ctxs (s : State) (k : Nat) (c : Cluster) : (setCluster s k c).ctxs = s.ctxs := (rfl)
@[simp] theorem setCluster_cores (s : State) (k : Nat) (c : Cluster) : (setCluster s k c).cores = s.cores := (rfl)
@[simp] theorem setCluster_bells (s : State) (k : Nat) (c : Cluster) : (setCluster s k c).bells = s.bells := (rfl)
@[simp] theorem setCluster_bellQ (s : State) (k : Nat) (c : Cluster) : (setCluster s k c).bellQ = s.bellQ := (rfl)
@[simp] theorem setCluster_tlbs (s : State) (k : Nat) (c : Cluster) : (setCluster s k c).tlbs = s.tlbs := (rfl)
@[simp] theorem setCluster_invals (s : State) (k : Nat) (c : Cluster) : (setCluster s k c).invals = s.invals := (rfl)
@[simp] theorem setCluster_tlbDone (s : State) (k : Nat) (c : Cluster) : (setCluster s k c).tlbDone = s.tlbDone := (rfl)
@[simp] theorem setCluster_tb (s : State) (k : Nat) (c : Cluster) : (setCluster s k c).tb = s.tb := (rfl)
@[simp] theorem setCluster_free (s : State) (k : Nat) (c : Cluster) : (setCluster s k c).free = s.free := (rfl)
@[simp] theorem setCluster_plogQ (s : State) (k : Nat) (c : Cluster) : (setCluster s k c).plogQ = s.plogQ := (rfl)
@[simp] theorem setCluster_plogSeq (s : State) (k : Nat) (c : Cluster) : (setCluster s k c).plogSeq = s.plogSeq := (rfl)
@[simp] theorem setCluster_plogMs (s : State) (k : Nat) (c : Cluster) : (setCluster s k c).plogMs = s.plogMs := (rfl)
@[simp] theorem setCluster_lastRead (s : State) (k : Nat) (c : Cluster) : (setCluster s k c).lastRead = s.lastRead := (rfl)
@[simp] theorem setCluster_ports (s : State) (k : Nat) (c : Cluster) : (setCluster s k c).ports = s.ports := (rfl)
@[simp] theorem setCluster_islQ (s : State) (k : Nat) (c : Cluster) : (setCluster s k c).islQ = s.islQ := (rfl)
@[simp] theorem setCluster_ibiEn (s : State) (k : Nat) (c : Cluster) : (setCluster s k c).ibiEn = s.ibiEn := (rfl)
@[simp] theorem setCluster_ibiOut (s : State) (k : Nat) (c : Cluster) : (setCluster s k c).ibiOut = s.ibiOut := (rfl)
@[simp] theorem setCluster_movs (s : State) (k : Nat) (c : Cluster) : (setCluster s k c).movs = s.movs := (rfl)
@[simp] theorem setCluster_movUnits (s : State) (k : Nat) (c : Cluster) : (setCluster s k c).movUnits = s.movUnits := (rfl)
@[simp] theorem setCluster_movErr (s : State) (k : Nat) (c : Cluster) : (setCluster s k c).movErr = s.movErr := (rfl)
@[simp] theorem setCluster_rings (s : State) (k : Nat) (c : Cluster) : (setCluster s k c).rings = s.rings := (rfl)
@[simp] theorem setCluster_hosts (s : State) (k : Nat) (c : Cluster) : (setCluster s k c).hosts = s.hosts := (rfl)
@[simp] theorem setCluster_meds (s : State) (k : Nat) (c : Cluster) : (setCluster s k c).meds = s.meds := (rfl)
@[simp] theorem setCluster_peers (s : State) (k : Nat) (c : Cluster) : (setCluster s k c).peers = s.peers := (rfl)
@[simp] theorem setCluster_gossip (s : State) (k : Nat) (c : Cluster) : (setCluster s k c).gossip = s.gossip := (rfl)
@[simp] theorem setCluster_gosNext (s : State) (k : Nat) (c : Cluster) : (setCluster s k c).gosNext = s.gosNext := (rfl)
@[simp] theorem setCluster_mgmt (s : State) (k : Nat) (c : Cluster) : (setCluster s k c).mgmt = s.mgmt := (rfl)
@[simp] theorem setCluster_power (s : State) (k : Nat) (c : Cluster) : (setCluster s k c).power = s.power := (rfl)
@[simp] theorem setCluster_orrery (s : State) (k : Nat) (c : Cluster) : (setCluster s k c).orrery = s.orrery := (rfl)
@[simp] theorem setCluster_life (s : State) (k : Nat) (c : Cluster) : (setCluster s k c).life = s.life := (rfl)
@[simp] theorem setCluster_island (s : State) (k : Nat) (c : Cluster) : (setCluster s k c).island = s.island := (rfl)
@[simp] theorem setCluster_swdLeft (s : State) (k : Nat) (c : Cluster) : (setCluster s k c).swdLeft = s.swdLeft := (rfl)
@[simp] theorem setCluster_tbFrac (s : State) (k : Nat) (c : Cluster) : (setCluster s k c).tbFrac = s.tbFrac := (rfl)
@[simp] theorem setCluster_slew (s : State) (k : Nat) (c : Cluster) : (setCluster s k c).slew = s.slew := (rfl)
@[simp] theorem setCluster_slewAcc (s : State) (k : Nat) (c : Cluster) : (setCluster s k c).slewAcc = s.slewAcc := (rfl)
@[simp] theorem setCluster_tbHalf (s : State) (k : Nat) (c : Cluster) : (setCluster s k c).tbHalf = s.tbHalf := (rfl)
@[simp] theorem setCluster_cclk (s : State) (k : Nat) (c : Cluster) : (setCluster s k c).cclk = s.cclk := (rfl)
@[simp] theorem setCluster_cclkAt (s : State) (k : Nat) (c : Cluster) : (setCluster s k c).cclkAt = s.cclkAt := (rfl)
@[simp] theorem setCluster_batch (s : State) (k : Nat) (c : Cluster) : (setCluster s k c).batch = s.batch := (rfl)
@[simp] theorem setCluster_progBad (s : State) (k : Nat) (c : Cluster) : (setCluster s k c).progBad = s.progBad := (rfl)
@[simp] theorem setCluster_laneBad (s : State) (k : Nat) (c : Cluster) : (setCluster s k c).laneBad = s.laneBad := (rfl)
@[simp] theorem setCluster_codRegs (s : State) (k : Nat) (c : Cluster) : (setCluster s k c).codRegs = s.codRegs := (rfl)
@[simp] theorem setCluster_engLast (s : State) (k : Nat) (c : Cluster) : (setCluster s k c).engLast = s.engLast := (rfl)
@[simp] theorem setCluster_scrubHalf (s : State) (k : Nat) (c : Cluster) : (setCluster s k c).scrubHalf = s.scrubHalf := (rfl)
@[simp] theorem setCluster_dicts (s : State) (k : Nat) (c : Cluster) : (setCluster s k c).dicts = s.dicts := (rfl)
@[simp] theorem setCluster_prog (s : State) (k : Nat) (c : Cluster) : (setCluster s k c).prog = s.prog := (rfl)
@[simp] theorem setCluster_accepts (s : State) (k : Nat) (c : Cluster) : (setCluster s k c).accepts = s.accepts := (rfl)
@[simp] theorem setCluster_pending (s : State) (k : Nat) (c : Cluster) : (setCluster s k c).pending = s.pending := (rfl)

/-! ### Reading after writing -/

@[simp] theorem rget_rset_same (s : State) (off : Nat) (v : Word) : rget (rset s off v) off = v := by
  have h := smGet_set_same (regReset off) s.regs off v
  rw [smGet_eq_find] at h
  unfold rget rset
  cases hf : smFind (smSet (regReset off) s.regs off v) off with
  | none => simpa [hf] using h
  | some x => simpa [hf] using h

theorem rget_rset_other {off o : Nat} (h : o ≠ off) (s : State) (v : Word) : rget (rset s off v) o = rget s o := by
  simp only [rget, rset, smFind_set_other h]

@[simp] theorem ctxAt_setCtx_same (s : State) (cx : CtxId) (c : Ctx) : ctxAt (setCtx s cx c) cx = c := by
  simp [ctxAt, setCtx]

theorem ctxAt_setCtx_other {cx x : CtxId} (h : x ≠ cx) (s : State) (c : Ctx) : ctxAt (setCtx s cx c) x = ctxAt s x := by
  have h' : x.toNat ≠ cx.toNat := fun e => h (BitVec.eq_of_toNat_eq e)
  simp [ctxAt, setCtx, smGet_set_other h']

@[simp] theorem coreAt_setCore_same (s : State) (k : CoreId) (c : Core) : coreAt (setCore s k c) k = c := by
  simp [coreAt, setCore]

theorem coreAt_setCore_other {k x : CoreId} (h : x ≠ k) (s : State) (c : Core) : coreAt (setCore s k c) x = coreAt s x := by
  have h' : x.toNat ≠ k.toNat := fun e => h (BitVec.eq_of_toNat_eq e)
  simp [coreAt, setCore, smGet_set_other h']

@[simp] theorem clusterAt_setCluster_same (s : State) (k : Nat) (c : Cluster) : clusterAt (setCluster s k c) k = c := by
  simp [clusterAt, setCluster]

theorem clusterAt_setCluster_other {k x : Nat} (h : x ≠ k) (s : State) (c : Cluster) :
    clusterAt (setCluster s k c) x = clusterAt s x := by
  simp [clusterAt, setCluster, smGet_set_other h]

@[simp] theorem rget_setCtx (s : State) (cx : CtxId) (c : Ctx) (o : Nat) : rget (setCtx s cx c) o = rget s o := (rfl)
@[simp] theorem rget_setCore (s : State) (k : CoreId) (c : Core) (o : Nat) : rget (setCore s k c) o = rget s o := (rfl)
@[simp] theorem ctxAt_rset (s : State) (off : Nat) (v : Word) (x : CtxId) : ctxAt (rset s off v) x = ctxAt s x := (rfl)
@[simp] theorem coreAt_rset (s : State) (off : Nat) (v : Word) (k : CoreId) : coreAt (rset s off v) k = coreAt s k := (rfl)
@[simp] theorem ctxAt_setCore (s : State) (k : CoreId) (c : Core) (x : CtxId) : ctxAt (setCore s k c) x = ctxAt s x := (rfl)
@[simp] theorem coreAt_setCtx (s : State) (x : CtxId) (c : Ctx) (k : CoreId) : coreAt (setCtx s x c) k = coreAt s k := (rfl)

/-! ### softWrite -/

@[simp] theorem softWrite_ctxs (s : State) (pa n : Nat) : (softWrite s pa n).ctxs = s.ctxs := (rfl)
@[simp] theorem softWrite_regs (s : State) (pa n : Nat) : (softWrite s pa n).regs = s.regs := (rfl)
@[simp] theorem softWrite_mem (s : State) (pa n : Nat) : (softWrite s pa n).mem = s.mem := (rfl)
@[simp] theorem softWrite_cores (s : State) (pa n : Nat) : (softWrite s pa n).cores = s.cores := (rfl)
@[simp] theorem softWrite_clusters (s : State) (pa n : Nat) : (softWrite s pa n).clusters = s.clusters := (rfl)
@[simp] theorem softWrite_bells (s : State) (pa n : Nat) : (softWrite s pa n).bells = s.bells := (rfl)
@[simp] theorem softWrite_bellQ (s : State) (pa n : Nat) : (softWrite s pa n).bellQ = s.bellQ := (rfl)
@[simp] theorem softWrite_tlbs (s : State) (pa n : Nat) : (softWrite s pa n).tlbs = s.tlbs := (rfl)
@[simp] theorem softWrite_invals (s : State) (pa n : Nat) : (softWrite s pa n).invals = s.invals := (rfl)
@[simp] theorem softWrite_tlbDone (s : State) (pa n : Nat) : (softWrite s pa n).tlbDone = s.tlbDone := (rfl)
@[simp] theorem softWrite_tb (s : State) (pa n : Nat) : (softWrite s pa n).tb = s.tb := (rfl)
@[simp] theorem softWrite_free (s : State) (pa n : Nat) : (softWrite s pa n).free = s.free := (rfl)
@[simp] theorem softWrite_plogQ (s : State) (pa n : Nat) : (softWrite s pa n).plogQ = s.plogQ := (rfl)
@[simp] theorem softWrite_plogSeq (s : State) (pa n : Nat) : (softWrite s pa n).plogSeq = s.plogSeq := (rfl)
@[simp] theorem softWrite_plogMs (s : State) (pa n : Nat) : (softWrite s pa n).plogMs = s.plogMs := (rfl)
@[simp] theorem softWrite_lastRead (s : State) (pa n : Nat) : (softWrite s pa n).lastRead = s.lastRead := (rfl)
@[simp] theorem softWrite_ports (s : State) (pa n : Nat) : (softWrite s pa n).ports = s.ports := (rfl)
@[simp] theorem softWrite_islQ (s : State) (pa n : Nat) : (softWrite s pa n).islQ = s.islQ := (rfl)
@[simp] theorem softWrite_ibiEn (s : State) (pa n : Nat) : (softWrite s pa n).ibiEn = s.ibiEn := (rfl)
@[simp] theorem softWrite_ibiOut (s : State) (pa n : Nat) : (softWrite s pa n).ibiOut = s.ibiOut := (rfl)
@[simp] theorem softWrite_movs (s : State) (pa n : Nat) : (softWrite s pa n).movs = s.movs := (rfl)
@[simp] theorem softWrite_movUnits (s : State) (pa n : Nat) : (softWrite s pa n).movUnits = s.movUnits := (rfl)
@[simp] theorem softWrite_movErr (s : State) (pa n : Nat) : (softWrite s pa n).movErr = s.movErr := (rfl)
@[simp] theorem softWrite_hosts (s : State) (pa n : Nat) : (softWrite s pa n).hosts = s.hosts := (rfl)
@[simp] theorem softWrite_meds (s : State) (pa n : Nat) : (softWrite s pa n).meds = s.meds := (rfl)
@[simp] theorem softWrite_peers (s : State) (pa n : Nat) : (softWrite s pa n).peers = s.peers := (rfl)
@[simp] theorem softWrite_gossip (s : State) (pa n : Nat) : (softWrite s pa n).gossip = s.gossip := (rfl)
@[simp] theorem softWrite_gosNext (s : State) (pa n : Nat) : (softWrite s pa n).gosNext = s.gosNext := (rfl)
@[simp] theorem softWrite_mgmt (s : State) (pa n : Nat) : (softWrite s pa n).mgmt = s.mgmt := (rfl)
@[simp] theorem softWrite_power (s : State) (pa n : Nat) : (softWrite s pa n).power = s.power := (rfl)
@[simp] theorem softWrite_orrery (s : State) (pa n : Nat) : (softWrite s pa n).orrery = s.orrery := (rfl)
@[simp] theorem softWrite_life (s : State) (pa n : Nat) : (softWrite s pa n).life = s.life := (rfl)
@[simp] theorem softWrite_island (s : State) (pa n : Nat) : (softWrite s pa n).island = s.island := (rfl)
@[simp] theorem softWrite_swdLeft (s : State) (pa n : Nat) : (softWrite s pa n).swdLeft = s.swdLeft := (rfl)
@[simp] theorem softWrite_tbFrac (s : State) (pa n : Nat) : (softWrite s pa n).tbFrac = s.tbFrac := (rfl)
@[simp] theorem softWrite_slew (s : State) (pa n : Nat) : (softWrite s pa n).slew = s.slew := (rfl)
@[simp] theorem softWrite_slewAcc (s : State) (pa n : Nat) : (softWrite s pa n).slewAcc = s.slewAcc := (rfl)
@[simp] theorem softWrite_tbHalf (s : State) (pa n : Nat) : (softWrite s pa n).tbHalf = s.tbHalf := (rfl)
@[simp] theorem softWrite_cclk (s : State) (pa n : Nat) : (softWrite s pa n).cclk = s.cclk := (rfl)
@[simp] theorem softWrite_cclkAt (s : State) (pa n : Nat) : (softWrite s pa n).cclkAt = s.cclkAt := (rfl)
@[simp] theorem softWrite_progBad (s : State) (pa n : Nat) : (softWrite s pa n).progBad = s.progBad := (rfl)
@[simp] theorem softWrite_laneBad (s : State) (pa n : Nat) : (softWrite s pa n).laneBad = s.laneBad := (rfl)
@[simp] theorem softWrite_codRegs (s : State) (pa n : Nat) : (softWrite s pa n).codRegs = s.codRegs := (rfl)
@[simp] theorem softWrite_engLast (s : State) (pa n : Nat) : (softWrite s pa n).engLast = s.engLast := (rfl)
@[simp] theorem softWrite_scrubHalf (s : State) (pa n : Nat) : (softWrite s pa n).scrubHalf = s.scrubHalf := (rfl)
@[simp] theorem softWrite_prog (s : State) (pa n : Nat) : (softWrite s pa n).prog = s.prog := (rfl)
@[simp] theorem softWrite_accepts (s : State) (pa n : Nat) : (softWrite s pa n).accepts = s.accepts := (rfl)
@[simp] theorem softWrite_pending (s : State) (pa n : Nat) : (softWrite s pa n).pending = s.pending := (rfl)
@[simp] theorem ctxAt_softWrite (s : State) (pa n : Nat) (x : CtxId) : ctxAt (softWrite s pa n) x = ctxAt s x := (rfl)
@[simp] theorem coreAt_softWrite (s : State) (pa n : Nat) (k : CoreId) : coreAt (softWrite s pa n) k = coreAt s k := (rfl)
@[simp] theorem clusterAt_softWrite (s : State) (pa n k : Nat) : clusterAt (softWrite s pa n) k = clusterAt s k := (rfl)
@[simp] theorem rget_softWrite (s : State) (pa n o : Nat) : rget (softWrite s pa n) o = rget s o := (rfl)

end Sys2Proof.Laws
end

