-- ==== Sys2Proof/Laws/Frames.lean ====
section
/-! SUPPORT. What the shared operations leave alone: memory, for all that work on registers, contexts, bells and records;
and the canonical form of memory, for the memory targets and the log. -/

namespace Sys2Proof.Laws
open Sys2Proof Sys2Proof.Machine

/-- A write of software changes the rings in nothing but the marks of the descriptors whose bytes it meets (R246). -/
theorem ringAt_softWrite (s : State) (pa n : Nat) (e : Eng) (r : Nat) :
    ringAt (softWrite s pa n) e r = tornRing pa n (ringAt s e r) :=
  smGet_map (tornRing pa n) EngRing.idle s.rings (engNum e * 16 + r)

/-- A fold of steps that keep memory keeps memory. -/
theorem foldl_mem {β : Type} {f : State → β → State} (h : ∀ s x, (f s x).mem = s.mem) (l : List β) (s : State) :
    (l.foldl f s).mem = s.mem := by
  induction l generalizing s with
  | nil => rfl
  | cons a t ih => rw [List.foldl_cons, ih, h]

/-- A fold of steps that keep the canonical form keeps it. -/
theorem foldl_wf {β : Type} {f : State → β → State}
    (h : ∀ s x, Memory.wf s.mem = true → Memory.wf (f s x).mem = true) (l : List β) {s : State}
    (hs : Memory.wf s.mem = true) : Memory.wf (l.foldl f s).mem = true := by
  induction l generalizing s with
  | nil => exact hs
  | cons a t ih => exact ih (h s a hs)

/-! ### Registers, bells, interrupts and RAS -/

@[simp] theorem rsetF_mem (s : State) (off hi lo x : Nat) : (rsetF s off hi lo x).mem = s.mem := (rfl)
@[simp] theorem rsetB_mem (s : State) (off i : Nat) (b : Bool) : (rsetB s off i b).mem = s.mem := (rfl)
@[simp] theorem rsatF_mem (s : State) (off hi lo n : Nat) : (rsatF s off hi lo n).mem = s.mem := (rfl)
@[simp] theorem rincF_mem (s : State) (off hi lo : Nat) : (rincF s off hi lo).mem = s.mem := (rfl)
@[simp] theorem finishWait_mem (s : State) (cx : CtxId) (r : Word) : (finishWait s cx r).mem = s.mem := (rfl)

@[simp] theorem ringBell_mem (s : State) (b : Nat) : (ringBell s b).mem = s.mem := by
  unfold ringBell; split <;> rfl

@[simp] theorem pageRing_mem (s : State) (k : PageKind) (i : Nat) : (pageRing s k i).mem = s.mem := by
  simp only [pageRing]; split_ifs <;> simp

@[simp] theorem ibiIfFell_mem (a b : State) : (ibiIfFell a b).mem = b.mem := by
  unfold ibiIfFell; split <;> rfl

@[simp] theorem intSet_mem (s : State) (k : PageKind) (i b : Nat) : (intSet s k i b).mem = s.mem := by
  simp only [intSet]; split_ifs <;> simp

@[simp] theorem rasCount_mem (s : State) (cls page : Nat) : (rasCount s cls page).mem = s.mem := by
  have h : ∀ (u : State) (off : Nat) (v : Word) (c : Prop) [Decidable c],
      (if c then { rset u off v with lastRead := false } else u).mem = u.mem := by
    intros; split <;> rfl
  exact (h _ _ _ _).trans (rsatF_mem _ _ _ _ _)

@[simp] theorem logPush_mem (s : State) (cls typ code page : Nat) : (logPush s cls typ code page).mem = s.mem := by
  simp only [logPush]; split_ifs <;> simp

@[simp] theorem rasEvent_mem (s : State) (cls typ code page : Nat) : (rasEvent s cls typ code page).mem = s.mem := by
  simp only [rasEvent]; split_ifs <;> simp

@[simp] theorem injFire_mem (s : State) (k : PageKind) (i : Nat) : (injFire s k i).mem = s.mem := (rfl)

/-! ### Contexts -/

@[simp] theorem leaveBells_mem (s : State) (cx : CtxId) : (leaveBells s cx).mem = s.mem := (rfl)

@[simp] theorem abandon_mem (s : State) (mine : Nat → Bool) : (abandon mine s).mem = s.mem := (rfl)

@[simp] theorem dropHold_mem (s : State) (cx : CtxId) : (dropHold s cx).mem = s.mem := by
  simp only [dropHold]; split_ifs <;> simp

@[simp] theorem recordLost_mem (s : State) (cx : CtxId) (c : Ctx) (k : Nat) : (recordLost s cx c k).mem = s.mem := by
  simp only [recordLost]; split_ifs <;> simp

/-- Taking a fault writes no memory (R143). -/
@[simp] theorem deliver_mem (s : State) (cx : CtxId) (f : FaultInfo) (w : Word) : (deliver s cx f w).mem = s.mem := by
  unfold deliver
  simp only [deliver.esc]
  split <;> split_ifs <;> simp

@[simp] theorem countIssue_mem (s : State) (cx : CtxId) : (countIssue s cx).mem = s.mem := by
  unfold countIssue
  simp only [rset_mem, setCtx_mem, setCore_mem]
  exact foldl_mem (fun s x => by split_ifs <;> simp) _ s

@[simp] theorem parityFault_mem (s : State) (cx : CtxId) (r : Nat) (fp inj : Bool) :
    (parityFault s cx r fp inj).mem = s.mem := by
  simp only [parityFault]; split_ifs <;> simp

@[simp] theorem injBank_mem (s : State) (cx : CtxId) (r : Reg) (inj : Bool) : (injBank s cx r inj).mem = s.mem := by
  unfold injBank; split <;> rfl

@[simp] theorem wake_mem (s : State) (cx : CtxId) : (wake s cx).mem = s.mem := by
  simp only [wake]; split_ifs <;> simp

@[simp] theorem wakeIf_mem (s : State) (cx : CtxId) (w : Why) : (wakeIf s cx w).mem = s.mem := by
  simp only [wakeIf]; split_ifs <;> simp

@[simp] theorem parkOp_mem (s : State) (cx : CtxId) : (parkOp s cx).mem = s.mem := by
  simp only [parkOp]; split_ifs <;> simp

@[simp] theorem wakeSettle_mem (s : State) (core : CoreId) : (wakeSettle s core).mem = s.mem :=
  foldl_mem (fun _ _ => wakeIf_mem _ _ _) _ s

@[simp] theorem releaseHold_mem (s : State) (cx : CtxId) : (releaseHold cx s).mem = s.mem := by
  simp only [releaseHold]; split_ifs <;> simp

@[simp] theorem leaveQueues_mem (s : State) (cx : CtxId) : (leaveQueues s cx).mem = s.mem := by
  simp only [leaveQueues]
  rw [foldl_mem]
  · simp
  · intro s x
    split
    · split_ifs <;> simp
    · rfl

@[simp] theorem clearPorts_mem (s : State) (cx : CtxId) : (clearPorts s cx).mem = s.mem := (rfl)

@[simp] theorem begun_mem (s : State) (cx : CtxId) : (begun s cx).mem = s.mem := (rfl)
@[simp] theorem ran_mem (s : State) (cx : CtxId) : (ran cx s).mem = s.mem := by simp [ran]
@[simp] theorem ranTo_mem (s : State) (cx : CtxId) (p : Cap) : (ranTo cx s p).mem = s.mem := by simp [ranTo]
@[simp] theorem ranBr_mem (s : State) (cx : CtxId) (x : Nat) : (ranBr cx s x).mem = s.mem := by simp [ranBr]
@[simp] theorem rested_mem (s : State) (cx : CtxId) : (rested cx s).mem = s.mem := by simp [rested]
@[simp] theorem stalled_mem (s : State) (cx : CtxId) (w : Why) : (stalled cx s w).mem = s.mem := by simp [stalled]
@[simp] theorem trapped_mem (s : State) (cx : CtxId) (f : FaultInfo) (w : BitVec 32) :
    (trapped cx s f w).mem = s.mem := by simp [trapped]

/-- The state in a result. -/
def resState : Res → State
  | .done s => s
  | .branch s _ => s
  | .jump s _ => s
  | .hold s => s
  | .fault s _ => s
  | .stall s _ => s

/-- The end of an instruction leaves memory as its body left it. -/
@[simp] theorem finish_mem (cx : CtxId) (i : Ins) (r : Res) : (finish cx i r).mem = (resState r).mem := by
  cases r <;> simp [finish, resState]

/-- Whatever an instruction comes to, memory is what its body made of it, or unchanged. -/
theorem attempt_mem {P : Mem → Prop} {cx : CtxId} {i : Ins} {body : Ctx → State → Res} {c : Ctx} {s : State} (h0 : P s.mem)
    (hb : P (resState (body c s)).mem) : P (resState (attempt cx i body c s)).mem := by
  unfold attempt
  split
  · exact h0
  · split
    · exact h0
    · split
      · simpa [resState] using h0
      · exact hb

theorem issue_mem {P : Mem → Prop} {cx : CtxId} {i : Ins} {body : Ctx → State → Res} {s t : State} (h0 : P s.mem)
    (hb : ∀ c u, u.mem = s.mem → P (resState (body c u)).mem) (h : issue cx i body s = .next t) : P t.mem := by
  unfold issue at h
  split at h
  · injection h with h; subst h; exact h0
  · split at h
    · injection h with h; subst h; simpa [freeNat] using h0
    · injection h with h; subst h; exact h0
    · injection h with h; subst h
      simp only [releaseHold_mem, finish_mem]
      exact attempt_mem (by simpa using h0) (hb _ _ rfl)

/-! ### The memory targets and the log -/

@[simp] theorem eccRecord_mem (s : State) (k : PageKind) (i r b pa x : Nat) : (eccRecord s k i r b pa x).mem = s.mem := by
  simp only [eccRecord]; split_ifs <;> simp

@[simp] theorem eccEvent_mem (s : State) (t : Target) (w src : Nat) (d : Decoded) : (eccEvent s t w src d).mem = s.mem := by
  unfold eccEvent; split
  · rfl
  · simp only []; split_ifs <;> simp

@[simp] theorem bankOff_mem (s : State) (a : Nat) : (bankOff s a).mem = s.mem := by
  unfold bankOff ringBits; split <;> simp

theorem wf_injectWrite (t : Target) (w : Nat) {s : State} (h : Memory.wf s.mem = true) :
    Memory.wf (injectWrite s t w).mem = true := by
  unfold injectWrite; split
  · exact h
  · rename_i k i _
    generalize (if injArmed s k i 1 then 1 else if injArmed s k i 2 then 2 else if injArmed s k i 3 then 3 else 0) = p
    dsimp only; split
    · exact h
    · simp only [injFire_mem]
      exact wf_err h (smWf_set (d := fun _ => 0) _ _ (wf_iff.1 h).2.2)

@[simp] theorem ringBits_mem (s : State) (k : PageKind) (i : Nat) (bs : List Nat) : (ringBits s k i bs).mem = s.mem := by
  unfold ringBits; split <;> simp

@[simp] theorem eccRing_mem (t : Target) (x : State × List Nat) : (eccRing t x).mem = x.1.mem := by
  unfold eccRing; split <;> simp

theorem wf_eccFix (t : Target) (w src : Nat) {s : State} (h : Memory.wf s.mem = true) :
    Memory.wf (eccFix s t w src).1.mem = true := by
  unfold eccFix
  split
  · exact h
  · generalize decodeWord (storedWord s.mem w) = d
    by_cases hd : d.out = 3
    · simp only [hd, if_true]
      have hm : ∀ o d', Memory.wf (memPoison (memSetWord (memSetWord s.mem w d.data false) o d' false) (w / 2)) = true :=
        fun _ _ => wf_poison _ (wf_setWord _ _ _ (wf_setWord _ _ _ h))
      split
      · exact wf_injectWrite _ _ (by simpa using hm _ _)
      · simpa using hm _ _
    · simp only [hd, if_false]
      exact wf_injectWrite _ _ (by simpa using wf_setWord _ _ _ h)

theorem foldl_pair_wf {α β : Type} {f : State × β → α → State × β}
    (hf : ∀ x a, Memory.wf x.1.mem = true → Memory.wf (f x a).1.mem = true) (l : List α) {x : State × β}
    (h : Memory.wf x.1.mem = true) : Memory.wf (l.foldl f x).1.mem = true := by
  induction l generalizing x with
  | nil => exact h
  | cons a t ih => exact ih (hf x a h)

theorem wf_eccScan (t : Target) (src : Nat) (ws : List Nat) {s : State} (h : Memory.wf s.mem = true) :
    Memory.wf (eccScan s t src ws).1.mem = true := by
  unfold eccScan; split
  · exact h
  · refine foldl_pair_wf (x := (s, [])) (fun x w hx => ?_) ws h
    exact wf_eccFix t w src hx

theorem wf_arrRead (t : Target) (a n src : Nat) {s : State} (h : Memory.wf s.mem = true) :
    Memory.wf (arrRead s t a n src).2.mem = true := by simpa [arrRead] using wf_eccScan t src (granWords a n) h

theorem wf_eraseAll (ws : List Nat) {e : SMap (BitVec 80)} (h : smWf (fun _ => 0) e = true) :
    smWf (fun _ => 0) (ws.foldl (fun e w => smErase w e) e) = true := by
  induction ws generalizing e with
  | nil => exact h
  | cons a t ih => exact ih (smWf_erase a h)

theorem wf_arrWrite (t : Target) (a : Nat) (bs : List Byte) (tags poison : List Bool) {s : State}
    (h : Memory.wf s.mem = true) : Memory.wf (arrWrite s t a bs tags poison).mem = true := by
  unfold arrWrite; split
  · exact h
  · have h2 := wf_write a bs tags poison (wf_eccScan t 2 (mergeWords a bs.length) (wf_eccScan t 5 (pairOf t a) h))
    dsimp only
    rw [eccRing_mem]
    have h3 : ∀ (ws : List Nat) (u : State) (m : Mem), Memory.wf m = true → Memory.wf (injectWrite
        { u with mem := { m with err := if m.err = [] then [] else ws.foldl (fun e w => smErase w e) m.err } } t (a / 8)).mem
          = true := by
      intro ws u m hm
      apply wf_injectWrite
      refine wf_err hm ?_
      split_ifs
      · rfl
      · exact wf_eraseAll _ (wf_iff.1 hm).2.2
    split
    · exact h3 _ _ _ h2
    · exact wf_injectWrite _ _ (h3 _ _ _ h2)

/-- A memory target keeps the canonical form, whatever it is asked. -/
theorem wf_memTarget (t : Target) (a n : Nat) (op : TxnOp) (src : Nat) {s : State} (h : Memory.wf s.mem = true) :
    Memory.wf (memTarget s t a n op src).2.mem = true := by
  unfold memTarget
  split
  · split
    · exact h
    · split
      · exact wf_arrWrite _ _ _ _ _ h
      · exact wf_arrRead _ _ _ _ h
      · exact wf_arrRead _ _ _ _ h
      · exact h
  · split
    · rw [bankOff_mem]; exact h
    · split
      · exact wf_arrWrite _ _ _ _ _ h
      · exact wf_arrRead _ _ _ _ h
      · exact wf_arrRead _ _ _ _ h
      · dsimp only; split
        · exact wf_arrRead _ _ _ _ h
        · exact wf_arrWrite _ _ _ _ _ (wf_arrRead _ _ _ _ h)
  · split
    · exact wf_arrWrite _ _ _ _ _ h
    · exact h
    · exact h
    · exact h
  · split <;> exact h
  · exact h

theorem wf_logWriteOne {s : State} (h : Memory.wf s.mem = true) : Memory.wf (logWriteOne s).mem = true := by
  unfold logWriteOne; split
  · exact h
  · exact wf_put _ _ h

theorem wf_logFlush {s : State} (h : Memory.wf s.mem = true) : Memory.wf (logFlush s).mem = true :=
  foldl_wf (fun _ _ => wf_logWriteOne) _ h

end Sys2Proof.Laws
end

