-- ==== Sys2Proof/WellFormed.lean ====
section
/-! DEFINITION. Well-formed commands: the operands that the part can present. A constructor that is not named takes every
value of its operand types. The meanings do not rest on it: `exec` answers every command. -/

namespace Sys2Proof

/-- R11, R87, R192: at least one byte, within one 64-byte line below 2^48, with data of the length given; an atomic acts on
8 or 16 bytes at a multiple of its length. -/
def Txn.wf (t : Txn) : Bool :=
  decide (1 ≤ t.n) && decide (t.pa % 64 + t.n ≤ 64) && decide (t.pa < 2 ^ 48) &&
    (match t.op with
      | .write d _ _ => decide (d.length = t.n)
      | .atomicAdd _ | .atomicSwap _ => decide (t.n = 8) && decide (t.pa % 8 = 0)
      | .atomicCap _ => decide (t.n = 16) && decide (t.pa % 16 = 0)
      | _ => true)

/-- R361, R372: at least one byte, and data of that length for a write. -/
def PortReq.wf (q : PortReq) : Bool :=
  decide (1 ≤ q.n) && (if q.write then decide (q.data.length = q.n) else decide (q.data = []))

/-- R376, R401: the row's own CMD, or one that the port does not know; CMD 0x10 of a wrong length is such a one. -/
def I3cReq.wf (own : Byte) (q : I3cReq) : Bool :=
  decide (q.cmd = own) || !([1, 2, 3, 4, 0x10] : List Byte).contains q.cmd || (decide (q.cmd = 0x10) && decide (q.n ≠ 1))

/-- R383: a payload of 128 bytes. -/
def Stroke.wf (k : Stroke) : Bool := decide (k.payload.length = 128)

/-- R358, R372, R387: a port that is a PCIe port, and one that has an anchor for requests from outside. -/
def Port.pcie : Port → Bool
  | .peer _ => false
  | _ => true
def Port.anchored : Port → Bool
  | .host _ => false
  | _ => true

/-- R407: a training gives one temperature for each of the five stacks. -/
def MemInit.wf : MemInit → Bool
  | .trained ts => decide (ts.length = 5)
  | _ => true

/-- The operands of a command are ones that the part can present. -/
def Instr.wf : Instr → Bool
  | .fabricTransaction t | .outboundWindowRequest t | .mediaConfigRequest t | .peerWindowRequest t => t.wf
  | .bar0Request _ q | .bar4Request _ q | .mediaInboundRequest _ q => q.wf
  | .doorbellWrite _ _ d _ => decide (d ≠ [])
  | .doorbellRead _ q => q.wf && !q.write
  | .i3cReadRegister q => q.wf 1
  | .i3cWriteRegister q _ => q.wf 2
  | .i3cReadKeep q => q.wf 3
  | .i3cWriteKeep q _ => q.wf 4
  | .idleStroke _ k | .nak _ k | .initStroke _ k | .mwr _ k | .mrd _ k | .mcpl _ k | .bellStroke _ k
  | .tsync _ k _ | .gossip _ k => k.wf
  | .alignStroke _ k => k.1.wf
  | .loadReturn _ n => decide (n < 4)
  | .pcieLinkUp p _ _ _ | .pcieLinkDown p => p.pcie
  | .badTlp q => q.port.pcie
  | .pcieCompletion p _ _ _ | .completionTimeout p _ => p.pcie
  | .memoryFieldInit q => q.wf
  | .ianchorEnable p _ | .ianchorDisable p _ => p.anchored
  | _ => true

end Sys2Proof
end

