-- ==== Sys2Proof/Tests/Slice0.lean ====
section
/-! SUPPORT. Tests: ill-formed commands that WellFormed refuses, worked examples of the spec, and for every statement of
Certificates/Slice0/Obligations.lean a state and operands that meet its hypotheses (witness_<statement>). -/

namespace Sys2Proof.Tests

set_option Elab.async false
open Sys2Proof Sys2Proof.Machine

/-! ### Ill-formed commands -/

def okTxn : Txn := { pa := 0x8000000000, n := 16, op := .read, cls := 3, colour := 0, src := 0 }

theorem test_wf_txn_empty : Instr.wf (.fabricTransaction { okTxn with n := 0 }) = false := by decide
theorem test_wf_txn_two_lines : Instr.wf (.fabricTransaction { okTxn with pa := 56 }) = false := by decide
theorem test_wf_txn_address : Instr.wf (.outboundWindowRequest { okTxn with pa := 2 ^ 48 }) = false := by decide
theorem test_wf_txn_data : Instr.wf (.peerWindowRequest { okTxn with op := .write [1] [] [] }) = false := by decide
theorem test_wf_txn_atomic : Instr.wf (.fabricTransaction { okTxn with pa := 4, n := 8, op := .atomicAdd 1 }) = false := by decide
theorem test_wf_txn_cap : Instr.wf (.fabricTransaction { okTxn with n := 8, op := .atomicCap Cap.null }) = false := by decide
theorem test_wf_request_empty :
    Instr.wf (.bar4Request 0 { write := false, addr := 0, n := 0, data := [], ep := false, reqid := 0 }) = false := by decide
theorem test_wf_request_data :
    Instr.wf (.bar0Request 0 { write := true, addr := 0, n := 8, data := [], ep := false, reqid := 0 }) = false := by decide
theorem test_wf_stroke :
    Instr.wf (.mwr 0 { Stroke.blank with payload := [] }) = false := by decide
theorem test_wf_load : Instr.wf (.loadReturn 0 4) = false := by decide
theorem test_wf_pcie : Instr.wf (.pcieLinkDown (.peer 0)) = false := by decide
theorem test_wf_anchor : Instr.wf (.ianchorEnable (.host 0) 3) = false := by decide
theorem test_wf_ok : Instr.wf (.fabricTransaction okTxn) = true := by decide

/-! ### Worked examples of the spec -/

/-- spec/00, reading SYS.IDENT. -/
theorem test_ident : (regRead State.reset (pg .sys + 0x100)).1 = some 0x1D7E7200B1081005 := by decide +kernel
/-- spec/02, setting bounds with rounding: the granule and its bounds, and AFIT's refusal. -/
theorem test_bounds_rounding :
    let src := mkCap 29 0 0x80000 0x043 5 0 0x1234567804
    (match capNarrow src 6000001 false with
      | .ok c => decide (c = { bits := 0x0EB3C01902C443500000001234567804, tag := true }) &&
          decide (capBase c = 0x1234567800) && decide (capTop c = 0x1234B20588)
      | .error _ => false) = true ∧ (capNarrow src 6000001 true).isOk = false := by decide +kernel
/-- spec/04 and spec/05: ADDS a2, l3, l12; LDD l1, 8(a3); CALLM a5, 0x0303; AINFO l3, a2, 2. -/
theorem test_words : (intRow (.add 0 true 10 19 28)).map (·.ins.word) = some 0x0553E400 ∧
    ldWord 3 17 11 (.imm 1) = 0x422B1801 ∧ wWide 0x22 13 0x0303 = 0x89A00303 ∧ wReg 0x18 19 10 0 (2 * 2 ^ 11 + 8) = 0x626A1008 := by
  decide +kernel
/-- spec/09, the syndrome of one flipped data bit. -/
theorem test_syndrome : ([0, 0x123456789ABCDEF0].all fun d =>
    decide (decodeWord (encodeWord d true ^^^ 1) = { data := d, m := true, out := 1, s1 := 0x05, s3 := 0x55, p := 1 })) = true := by
  decide +kernel
/-- spec/09, where a line lives, and the bank of a scratchpad address. -/
theorem test_home : targetOf 0x1234567804 = .dram 1 ∧ targetOf 0x8003E41040 = .spad 249 := by decide +kernel
/-- spec/16, coefficients, one byte, one repair. -/
theorem test_field : cfInv 0 2 = 0x8E ∧ cfMul 1 0x8000 2 = 0x100B ∧ [3, 2, 1, 4, 5, 6].map (cfInv 0) = [0xF4, 0x8E, 1, 0x47, 0xA7, 0x7A] ∧
    cfMul 0 0xF4 0x10 ^^^ cfMul 0 0x8E 0x20 ^^^ 0x30 = 0xDB := by decide +kernel
/-- spec/15, a single byte 41 as a Deep frame, and back. -/
theorem test_deep : dfEncode [0x41] =
      [0x5A, 0x44, 0x46, 0x31, 1, 1, 0, 0, 1, 0, 0, 0, 1, 0, 0, 0, 0xBD, 0xEE, 0xCD, 0x6D, 0xE1] ∧
    (match dfFrame (dfEncode [0x41]) 1 with
      | .ok b => decide (b = [0x41])
      | .error _ => false) = true := by decide +kernel
/-- spec/20, one exchange. -/
theorem test_exchange : tsTheta 25600000 25601088 25603648 25605120 0 = -192 := by decide +kernel
/-- spec/22, one planning run: of the requests 3, 7 and 9, 7 is posted. -/
def request (s : State) (i shelf cls watts lost due age : Nat) : State :=
  rset (rset s (pg .orr + 0x800 + 16 * i) (wd (2 ^ 63 + cls * 2 ^ 60 + watts * 2 ^ 48 + shelf * 2 ^ 32 + lost * 2 ^ 16 + due)))
    (pg .orr + 0x808 + 16 * i) (wd ((1000 - age) * 100000000))
def planning : State :=
  let s := rset (rset (rset { State.reset with tb := 100000000000 } (pg .orr + 0x150) (wd (2000 * 2 ^ 16 + 1650)))
    (pg .orr + 0x158) (wd (2 ^ 16 + 100))) (pg .orr + 0x160) (wd (0x2D * 2 ^ 48))
  request (request (request s 3 0x0412 1 300 0 40 600) 7 0x0A03 2 320 12 8 90) 9 0x0B11 3 420 40 0 5
theorem test_planning : reqScore planning 3 = 56982 ∧ reqScore planning 7 = 422062 ∧ reqEligible planning 9 = false ∧
    (match exec .plannerRun planning with
      | .next t => decide (rget t (pg .orr + 0x160) = 0x802E00070A030140)
      | _ => false) = true := by decide +kernel
/-- FIPS 180-4: SHA-256 of "abc". -/
theorem test_sha256 : beNat (sha256 [0x61, 0x62, 0x63]) =
    0xBA7816BF8F01CFEA414140DE5DAE2223B00361A396177A9CB410FF61F20015AD := by decide +kernel

/-! ### Witnesses -/

/-- The reset state with context 0 changed. -/
def atCtx (f : Ctx → Ctx) : State := setCtx State.reset 0 (f bootCtx)

/-- Context 0 with value `v` in register `r`. -/
def atReg (r : Reg) (v : Cap) : State := atCtx fun c => writeReg c r v

/-- From the reset state, context 0 can issue every instruction whose encoding is assigned: the premise of every row that
has no other one. -/
theorem witness_canIssue (i : Ins) (h : i.bad = false) : canIssue State.reset 0 i = true := by
  have h1 : headWord (ctxAt State.reset 0) i.word = .ok true := rfl
  have h2 : selectable State.reset 0 = true := by decide +kernel
  have h3 : ∀ rs, badRead (begun State.reset 0) 0 (cpu State.reset 0) rs = none := by
    intro rs
    have hi : injArmed (begun State.reset 0) .core (coreOf 0).toNat 2 = false := by decide +kernel
    unfold badRead
    dsimp only
    split
    · rfl
    · rw [if_neg (by rw [hi]; simp)]
      simp [cpu, ctxAt, State.reset, smGet, bootCtx, Ctx.empty, setHas]
  have h4 : (operandWait (cpu State.reset 0) i) = none := by
    simp [operandWait, cpu, ctxAt, State.reset, smGet, bootCtx, Ctx.empty, flagsDue, pendingKeys]
  have h0 : mayIssue (ctxAt State.reset 0) = true := by decide +kernel
  have h5 : (ctxAt State.reset 0).repAct = false := rfl
  have h6 : State.reset.power.halted = false := rfl
  unfold canIssue atIssue
  simp only [h0, h1, h2, h3, h4, h5, h6, h]
  cases i.fp <;> rfl

theorem witness_AluImmediateResults :
    canIssue State.reset 0 (aluInsI 0 false 1 2 3 5 true).ins = true := by decide +kernel

def divBusy : State := atCtx fun c => { c with div := some (9, 5) }
theorem witness_MultiplyDivideResults : (ctxAt divBusy 0).div = some (9, 5) ∧
    canIssue divBusy 0 { word := wReg 0x05 1 2 3 4, rep := 1, reads := [2, 3], writes := [1] } = true := by decide +kernel

/-- A branch from the reset PCC stays in it; a jump to a capability without EXEC faults. -/
theorem witness_BranchResults : branchBad (cpu State.reset 0) (branchTarget (cpu State.reset 0) (5 : BitVec 26)) = none ∧
    (branchBad { cpu State.reset 0 with pcc := mkCap 0 0 16 0x04D 0 0 0 } 16).isSome = true ∧
    (targetCheck (readReg (cpu State.reset 0) 3)).isSome = true := by decide +kernel

def inFrame1 : State := atCtx fun c => writeReg { c with cwp := 1, depth := 1 } 23 c.pcc
theorem witness_WindowCallResults :
    canIssue inFrame1 0 { word := wReg 0x21 0 0 0 2, reads := [22, 23] } = true ∧ (cpu inFrame1 0).depth ≠ 0 ∧
      targetCheck (readReg (cpu inFrame1 0) 23) = none ∧ (readInt (cpu inFrame1 0) 22).extractLsb' 4 27 = 0 ∧
      ((readInt (cpu inFrame1 0) 22).getLsbD 31 = true ↔ (readInt (cpu inFrame1 0) 22).extractLsb' 32 32 ≠ 0) := by
  decide +kernel

theorem witness_RepeatResults :
    (readInt (cpu (atReg 5 (intCap 65)) 0) 5).toNat = 65 ∧
    canIssue (atReg 5 (intCap 65)) 0 { word := wImm 0x24 0 5 1 0, reads := [5] } = true := by decide +kernel

def dataLoad (n : Nat) : Load := { dest := n, val := intCap 7, cached := false, xl := none, gates := [], old := [] }
def fourLoads : State := atCtx fun c => { c with loads := [dataLoad 20, dataLoad 21, dataLoad 22, dataLoad 23] }
theorem witness_LoadResults :
    canIssue fourLoads 0 { word := ldWord 3 5 1 (.imm 0), rep := 1, reads := [1], writes := [5] } = true ∧
    4 ≤ (cpu fourLoads 0).loads.length ∧ (ctxAt fourLoads 0).loads[1]? = some (dataLoad 21) ∧
    injArmed State.reset .core (coreOf 0).toNat 1 = false ∧ (cpu State.reset 0).loads.length < 4 ∧
    capCheck (readReg (cpu State.reset 0) 1) [rLoad] true true (accessAt (cpu State.reset 0) 16 1 (.imm 2)).toNat 16 = none ∧
    (loadVa (access State.reset 0 1 (ldWord 7 5 1 (.imm 2))) 32 16 (begun State.reset 0)).isOk = true ∧
    (capCheck (readReg (cpu State.reset 0) 3) [rLoad] true false 0 8).isSome = true := by decide +kernel

def oneStore : StoreEnt := { pa := 0x40, data := [1, 2], tag := false, cls := 3, colour := 0, cached := false, xl := none, old := false }
def spadStore : StoreEnt := { oneStore with pa := 0x8000000040 }
def buffered (e : StoreEnt) : State := atCtx fun c => { c with stores := [e] }
theorem witness_StoreAndAtomicResults :
    ((ctxAt (buffered oneStore) 0).stores = [oneStore] ∧ isDram oneStore.pa = true ∧ memOn (buffered oneStore) = true) ∧
    ((ctxAt (buffered spadStore) 0).stores = [spadStore] ∧ targetOf spadStore.pa = .spad 0 ∧
      bankOn (buffered spadStore) 0 = true) ∧
    (capCheck (readReg (cpu State.reset 0) 1) [rStore] true false 0x48 8 = none ∧
      (match storeVa (access State.reset 0 1 (stWord 3 2 1 (.imm 9))) 0x48 (leBytes 8 5) false (begun State.reset 0) with
        | .done _ => true
        | _ => false) = true) := by decide +kernel

/-- g1 moved to the scratchpad. -/
def spadCap (off : Nat) : Cap := mkCap 29 0 0x80000 0x07B 0 0 (spadBase + off)
def atomicWitness (s : State) (off n : Nat) (op : TxnOp) : Bool :=
  match xlateAcc (access s 0 5 0) (needR + needW) (spadBase + off) n (begun s 0) with
  | .ok ([p], s1) => isSpad p.pa && (match fabricTxn s1 p.pa n op 3 0 0x3000 3 with
    | (.ok d, _) => !d.poison.any id
    | _ => false)
  | _ => false
theorem witness_StoreAndAtomicResults_atomic :
    capCheck (readReg (cpu (atReg 5 (spadCap 16)) 0) 5) [rLoad, rStore] true true (spadBase + 16) 16 = none ∧
    atomicWitness (atReg 5 (spadCap 16)) 16 16 (.atomicCap Cap.null) = true ∧
    atomicWitness (atReg 5 (spadCap 16)) 16 8 (.atomicAdd 1) = true ∧ (cpu (atReg 5 (spadCap 16)) 0).stores = [] ∧
    (cpu (buffered oneStore) 0).stores ≠ [] ∧
    canIssue (buffered oneStore) 0 { word := wReg 0x14 2 5 6 0, reads := [5, 6], writes := [2] } = true := by decide +kernel

def invalPending : State := { State.reset with invals := [{ op := 2, world := true, asid := 0, addr := 0, issuer := 0 }] }
theorem witness_FenceAndMaintenanceResults :
    (capCheck (readReg (cpu State.reset 0) 1) [] true false 0x80 1 = none ∧
      (match xlateAcc (access State.reset 0 1 0) needR 0x80 1 (begun State.reset 0) with
        | .ok ([_], _) => true
        | _ => false) = true) ∧
    synced State.reset 0 = true ∧ invalPending.invals[smGet 0 invalPending.tlbDone (tlbNum (.l1d 0))]?.isSome = true ∧
    invalPending.ctxs.all (fun p => !tlbUser (tlbNum (.l1d 0)) p.1 || p.2.loads.isEmpty) = true := by decide +kernel

/-- Bounds of 4,096 bytes of the data root. -/
theorem witness_BoundsOnlyNarrow :
    let c := mkCap 29 0 0x80000 0x07B 0 0 0x1000
    capE c ≤ 44 ∧ 0 ≤ capBase c ∧ capBase c ≤ (capCursor c : Int) ∧ (capCursor c : Int) ≤ capTop c ∧ capTop c ≤ 2 ^ 64 ∧
      (capNarrow c (0x1000 : Word).toNat true).isOk = true := by decide +kernel

theorem witness_SystemRegisterResults :
    canIssue State.reset 0 { word := wImm 0x1C 5 0 0 4, bad := decide (4 < (4 : BitVec 11).toNat), writes := [5] } = true ∧
    (cpu State.reset 0).super = true := by decide +kernel

def asUser (s : State) : State := setCtx s 0 { ctxAt s 0 with super := false, cust := false }
def bellHeld : State := { State.reset with bells := [5] }
def bellWaited : State := { setCtx State.reset 16 { Ctx.empty with run := .waiting, wait := some (.bell 5) } with bellQ := [(5, [16])] }
theorem witness_BellResults :
    (bellAllowed (asUser State.reset) (cpu (asUser State.reset) 0) 5 = false ∧
      canIssue (asUser State.reset) 0 { word := wImm 0x25 0 0 0 5, reads := [0] } = true) ∧
    (bellAllowed State.reset (cpu State.reset 0) 5 = true ∧ smGet [] State.reset.bellQ 5 = []) ∧
    (smGet [] bellWaited.bellQ 5 = [16] ∧ canIssue bellWaited 0 { word := wImm 0x25 0 0 0 5, reads := [0] } = true) ∧
    (5 ∈ bellHeld.bells ∧ canIssue bellHeld 0 { word := wImm 0x25 0 0 1 5, reads := [0] } = true) ∧
    (ctxAt (atCtx fun c => { c with run := .waiting, wait := some (.time 0) }) 0).wait = some (.time 0) ∧
    (ctxAt (atCtx fun c => { c with run := .waiting, wait := some (.bellTime 5 0 8) }) 0).wait = some (.bellTime 5 0 8) := by
  decide +kernel

def alerted : State := { atCtx (fun c => { c with em := false, alh := resetPcc, alm := 1 }) with bells := [0] }
theorem witness_AlertResults :
    canIssue State.reset 0 { word := wImm 0x25 0 2 4 63, bad := decide (63 < (63 : BitVec 11).toNat), reads := [2] } = true ∧
    targetCheck (readReg (cpu State.reset 0) 2) = none ∧ (targetCheck (readReg (cpu State.reset 0) 3)).isSome = true ∧
    (∀ j, j < 64 → bellAllowed State.reset (cpu State.reset 0) ((cpu State.reset 0).alb.toNat * 64 + j) = true) ∧
    (ctxAt alerted 0).em = false ∧ (ctxAt alerted 0).depth ≤ 6 ∧ (ctxAt alerted 0).run = .ready ∧
    (ctxAt alerted 0).alm.getLsbD 0 = true ∧ (ctxAt alerted 0).alb.toNat * 64 + 0 ∈ alerted.bells ∧
    (coreAt alerted (coreOf 0)).hold = none := by decide +kernel

/-- A custody capability with CURSOR at a port of unit 0. -/
def portCap (p : Nat) : Cap := mkCap 0 0 0x10000 0x240 0 0 p
theorem witness_PortMoveResults :
    (movpCheck State.reset (cpu State.reset 0) (portCap 0) (fun x => decide (x ≠ .result))).toOption = some (0, 0) ∧
    (movpCheck State.reset (cpu State.reset 0) (portCap 0x10) (fun x => decide (x ≠ .result))).toOption = some (0, 0x10) ∧
    (movpCheck State.reset (cpu State.reset 0) (portCap 0) (fun x => decide (x ≠ .trigger))).toOption = some (0, 0) ∧
    (cpu (asUser State.reset) 0).cust = false ∧
    canIssue (asUser State.reset) 0 { word := wReg 0x26 0 4 5 0, reads := [4, 5] } = true := by decide +kernel

def aged : State := atCtx fun c => { c with queue := [{ va := 0xC200000000, next := 0xC200000004, word := 0, bad := none }], age := 256 }
def fetched : State := atCtx fun c => { c with fetch := some { va := 0xC200000000, pa := 0xC200000000, words := [{ va := 0xC200000000, next := 0xC200000004, word := 1, bad := none }], xl := none, old := false } }
def noExec : State := atCtx fun c => { c with pcc := mkCap 0 0 16 0x1C0 0 0 0 }
def detAsked : State := rset State.reset (corePg 0 0x100) 1
def walkOf (f : Bool) : WalkReq := { va := 0x1000, mode := { asid := 0, xlat := false }, need := needR, fetch := f, info := { kind := 8 }, word := 0 }
def walking (f : Bool) : State := atCtx fun c => { c with run := .stalled, why := some .walk, walk := some (walkOf f) }
theorem witness_SchedulerAndFetchResults :
    ((ctxAt aged 0).run = .ready ∧ (ctxAt aged 0).queue ≠ [] ∧ 256 ≤ (ctxAt aged 0).age) ∧
    (fetchPick State.reset 0 = some 0 ∧ capCheck (ctxAt State.reset 0).pcc [rExec] true false (pcOf (ctxAt State.reset 0)) 4 = none ∧
      (match xlateTry State.reset (coreX 0 (ctxAt State.reset 0) true) (pcOf (ctxAt State.reset 0)) needX with
        | (.ok _ _ _, _) => true
        | _ => false) = true) ∧
    (fetchPick noExec 0 = some 0 ∧ (capCheck (ctxAt noExec 0).pcc [rExec] true false 0 4).isSome = true) ∧
    ((ctxAt fetched 0).fetch.any (fun r => decide (r.va = fetchAddr (ctxAt fetched 0)) && decide (r.words ≠ [])) = true ∧
      (ctxAt (setCtx fetched 0 { ctxAt fetched 0 with pcc := Cap.null }) 0).fetch.any (fun r => decide (r.va ≠ 0)) = true) ∧
    (rbit detAsked (corePg 0 0x100) 0 ≠ rbit detAsked (corePg 0 0x100) 1 ∧ (coreAt detAsked 0).hold = none ∧
      (∀ i, i < 16 → (ctxAt detAsked (cxOn 0 (BitVec.ofNat 4 i))).loads = [] ∧ (ctxAt detAsked (cxOn 0 (BitVec.ofNat 4 i))).stores = [])) ∧
    (wordOk 0 = false ∧ atIssue State.reset 0 0 = true) ∧
    (∀ f : Bool, (ctxAt (walking f) 0).walk = some (walkOf f) ∧ (ctxAt (walking f) 0).why = some .walk ∧
      (match walkRun (walking f) { coreX 0 (ctxAt (walking f) 0) f with asid := 0, xlat := false } 0x1000 needR with
        | (.ok _ _ _, _) => true
        | _ => false) = true) := by decide +kernel

/-- Context 1 parked beside context 0, which holds 1 in g5; the image key is ready. -/
def two (f : Ctx → Ctx) : State :=
  rset (setCtx (setCtx State.reset 0 (f (writeReg bootCtx 5 (intCap 1)))) 1 { Ctx.empty with run := .parked }) (pg .seal + 0x100) 1
def evictWitness (s : State) (a b : Reg) : Bool :=
  match imageArea 0 (wReg 0x1A 0 a b 0) a b evictable rStore needW (cpu s 0) (begun s 0) with
  | .ok (x, acc, ps, s1) =>
    let t := settleCtx (parkOp s1 x) x
    let img := sealImage t (ctxAt t x).cust (packBody (ctxAt t x) (fpOf t x))
    (writeImage acc ps img.1 img.2).isOk
  | .error _ => false
def loadWitness (s : State) (a b : Reg) : Bool :=
  match imageArea 0 (wReg 0x1A 6 a b 1) a b (fun s x => decide ((ctxAt s x).run = .empty)) rLoad needR (cpu s 0) (begun s 0) with
  | .ok (_, acc, ps, s1) => ps.all (fun p => isDram p.pa || isSpad p.pa) && (readImage acc ps s1).isOk
  | .error _ => false
/-- g6 names the image's area, in the scratchpad. -/
def imageTwo (x : Word) (f : Ctx → Ctx) : State := two fun c => f (writeReg (writeReg c 5 (intCap x)) 6 (mkCap 29 0 0x80000 0x07B 0 0 0x8000010000))
theorem witness_ContextImageResults : evictWitness (imageTwo 1 id) 5 6 = true ∧
    canIssue (imageTwo 1 id) 0 { word := wReg 0x1A 0 5 6 0, reads := [5, 6] } = true ∧
    loadWitness (imageTwo 2 id) 5 6 = true ∧
    canIssue (imageTwo 2 id) 0 { word := wReg 0x1A 7 5 6 1, reads := [5, 6], writes := [7] } = true := by
  decide +kernel

theorem witness_SealedImageRestores : (List.replicate 0x9E0 (0 : Byte)).length = 0x9E0 ∧ bootCtx.cwp < 8 ∧ bootCtx.depth < 8 := by
  decide +kernel

/-- Context 0 holds the FP bank. -/
def fpHeld (f : Ctx → Ctx) : State := setCore (atCtx f) 0 { Core.idle with holder := some 0 }
theorem witness_FpIssueResults :
    canFp (fpHeld id) 0 (wReg 0x30 3 1 2 0x400) { freads := [1, 2], fwrites := [3] } = true ∧
    canFp (fpHeld id) 0 (wReg 0x31 3 1 2 (4 * 0x40)) { freads := [1, 2, 4], fwrites := [3] } = true ∧
    canFp (fpHeld id) 0 (wReg 0x32 9 1 0 (2 * 1)) { freads := [1], writes := [9] } = true ∧
    canFp (fpHeld id) 0 (wReg 0x32 3 9 0 4) { reads := [9], fwrites := [3] } = true := by decide +kernel

def fpAdd : FpOp := { kind := .add, dbl := true, rm := 0, a := 0x3FF0000000000000, b := 0x4000000000000000, c := 0, dest := 3
                      idst := false, addr := 0, ftz := false, seq := 0 }
def fpWanted : State := setCore State.reset 0 { Core.idle with want := [1] }
theorem witness_FpMoveAndCompletionResults :
    canFp (fpHeld id) 0 (wReg 0x32 9 1 0 16) { freads := [1], writes := [9] } = true ∧
    canFp (fpHeld id) 0 (wReg 0x32 3 9 0 17) { reads := [9], fwrites := [3] } = true ∧
    canFp (fpHeld id) 0 (wReg 0x32 9 0 0 24) { writes := [9] } = true ∧
    canFp (fpHeld id) 0 (wReg 0x32 0 9 0 25) { reads := [9] } = true ∧ canFp (fpHeld id) 0 (wReg 0x32 0 0 0 31) {} = true ∧
    (canFp (fpHeld id) 0 (wImm 0x33 3 1 1 2) { fwrites := [3], reads := [1] } = true ∧
      capCheck (readReg (cpu (fpHeld id) 0) 1) [rLoad] true false 16 8 = none ∧
      (loadVa (access (fpHeld id) 0 1 (wImm 0x33 3 1 1 2)) 16 8 (begun (fpHeld id) 0)).isOk = true) ∧
    (canFp (fpHeld id) 0 (wImm 0x33 3 1 3 2) { freads := [3], reads := [1] } = true ∧
      capCheck (readReg (cpu (fpHeld id) 0) 1) [rStore] true false 16 8 = none ∧
      (match storeVa (access (fpHeld id) 0 1 (wImm 0x33 3 1 3 2)) 16 (leBytes 8 0) false (begun (fpHeld id) 0) with
        | .done _ => true
        | _ => false) = true) ∧
    (coreAt fpWanted 0).want = [1] ∧ (coreAt fpWanted 0).holder = none ∧
    (ctxAt (fpHeld fun c => { c with fp := [fpAdd] }) 0).fp[0]? = some fpAdd := by decide +kernel

/-- SVCCX of core 0 holds `v`, and context 1 is a Custodian supervisor. -/
def served (v : Nat) (f : Ctx → Ctx) (k : Core) : State :=
  setCore (rset (setCtx (atCtx f) 1 { Ctx.empty with run := .parked, super := true, cust := true }) (corePg 0 0x118) (wd v)) 0 k
def callOf1 : CallEnt := { cx := 1, ent := [intCap 7] }
def recOf1 : FaultRec := { cx := 1, fe0 := 1, fe1 := 0, fe2 := Cap.null, fe3 := 0, fe4 := 0, fe5 := 0, fe6 := 0, fe7 := 0 }
theorem witness_ServiceCallResults :
    (svcEff (begun (served 0x11000000 id Core.idle) 0) 0 true false = some 1 ∧
      canIssue (served 0x11000000 id Core.idle) 0 { word := wWide 0x28 0 0x8000, reads := [8, 9, 10, 11, 12, 13] } = true) ∧
    (svcEff (begun (served 0x10000000 id Core.idle) 0) 0 true false = some 0 ∧
      canIssue (served 0x10000000 id Core.idle) 0 { word := wReg 0x29 0 0 0 1 } = true ∧
      callQ (coreAt (served 0x10000000 id { Core.idle with callC := [callOf1] }) 0) true = [callOf1] ∧
      canIssue (served 0x10000000 id { Core.idle with callC := [callOf1] }) 0 { word := wReg 0x29 0 0 0 1 } = true) ∧
    (canIssue (served 0 (fun c => { c with held := some (some callOf1) }) Core.idle) 0
        { word := wReg 0x29 0 0 0 (4 * 256), reads := [24, 25, 26, 27].take 4 } = true ∧
      canIssue (served 0 (fun c => { c with held := some none }) Core.idle) 0 { word := wReg 0x29 0 0 0 0 } = true) ∧
    (svcEff (begun (served 0x100000 id Core.idle) 0) 0 true true = some 0 ∧
      canIssue (served 0x100000 id Core.idle) 0 { word := wReg 0x29 0 0 0 2 } = true ∧
      faultQ (coreAt (served 0x100000 id { Core.idle with faultC := [recOf1] }) 0) true = [recOf1] ∧
      canIssue (served 0x100000 id { Core.idle with faultC := [recOf1] }) 0 { word := wReg 0x29 0 0 0 2 } = true) := by
  decide +kernel

theorem witness_targets : Targets (two id) 0 5 1 := by unfold Targets; decide +kernel
theorem witness_ContextControlResults :
    canIssue (two id) 0 { word := wReg 0x2A 0 5 0 0, reads := [5, 0] } = true ∧ (ctxAt (two id) 1).run = .parked ∧
    (ctxAt (two id) 1).bySysc = false ∧ targetCheck (readReg (cpu (two id) 0) 2) = none ∧
    (ctxAt (setCtx (two id) 1 { Ctx.empty with run := .ready }) 1).run = .ready ∧
    canIssue (setCtx (two id) 1 { Ctx.empty with run := .ready }) 0 { word := wReg 0x2A 0 5 0 3, reads := [5, 0] } = true ∧
    (ctxAt State.reset (cxOn 0 2)).run = .empty ∧ (cpu (asUser (two id)) 0).super = false ∧
    canIssue (asUser (two id)) 0 { word := wReg 0x2A 0 5 0 2, reads := [5, 0] } = true := by decide +kernel

def maintBusy : State := maintStart State.reset 0 1 []
def cluLost : State := setCluster State.reset 0 { clusterAt State.reset 0 with wbErr := [0x40] }
theorem witness_WholeCacheResults :
    pageOn State.reset .clu 0 = true ∧ rbit State.reset (pg .clu 0 + 0x108) 0 = false ∧
    rbit maintBusy (pg .clu 0 + 0x108) 0 = true ∧ (clusterAt maintBusy 0).maint = some (1, []) ∧
    (clusterAt cluLost 0).wbErr[0]? = some 0x40 ∧ intRaw cluLost .clu 0 1 = false ∧ intRaw cluLost .clu 0 2 = false ∧
    intRaw (intSet cluLost .clu 0 2) .clu 0 2 = true := by decide +kernel

def spadTxn (op : TxnOp) (n : Nat) : Txn := { pa := spadBase + 0x40, n := n, op := op, cls := 3, colour := 0, src := 0 }
/-- Region 0 of gate 5 covers the scratchpad's first 4 KiB and allows nothing. -/
def gateShut : State :=
  rset (rset State.reset (rgnOff 5 0 0) (wd (spadBase + 12))) (rgnOff 5 0 0 + 8) 0
theorem witness_FabricTransactionResults :
    targetOf (2 ^ 47 + 2 ^ 46) = .nowhere ∧
    (let x := spadTxn (.write [1, 2] [] []) 2
     targetOf x.pa = .spad 0 ∧ bankOn State.reset 0 = true ∧ State.reset.mem.err = [] ∧ gateDomainOn State.reset 5 = true ∧
      injArmed State.reset .gate 5 1 = false ∧ gateOf (targetOf x.pa) = 5 ∧
      verdict State.reset 5 x.pa x.cls { r := false, w := true, x := false } x.colour = none ∧
      verdict State.reset 5 x.pa x.cls { r := true, w := false, x := false } x.colour = none ∧
      verdict State.reset 5 x.pa x.cls { r := true, w := true, x := false } x.colour = none ∧
      (memRead State.reset.mem x.pa 8).poison.any id = false) ∧
    (targetOf 0x40 = .dram 0 ∧ memOn State.reset = true ∧ gateDomainOn State.reset 0 = true ∧
      injArmed State.reset .gate 0 1 = false ∧ verdict State.reset 0 0x40 3 { r := false, w := true, x := false } 0 = none) ∧
    (let x := spadTxn .read 8
     retried gateShut x.pa x.n x.op (txnKey (opKinds x.op) x.cls x.colour x.src.toNat) = false ∧ writeHeld gateShut (targetOf x.pa) x.op = false ∧ gateDomainOn gateShut 5 = true ∧
      injArmed gateShut .gate 5 1 = false ∧ (verdict gateShut 5 x.pa x.cls (opKinds x.op) x.colour).isSome = true) := by
  decide +kernel

def gateBad : State := rset State.reset (rgnOff 5 1 0) 11
theorem witness_GateSwapResults :
    pageOn State.reset .gate 5 = true ∧ rbit State.reset (pg .gate 5 + 0x008) 0 = false ∧
    rfld State.reset (pg .gate 5 + 0x108) 3 1 ≠ 1 ∧ setMalformed State.reset 5 (1 - activeSet State.reset 5) = false ∧
    setOverlap State.reset 5 (1 - activeSet State.reset 5) = false ∧
    rbit (rsetB State.reset (pg .gate 5 + 0x008) 0 true) (pg .gate 5 + 0x008) 0 = true ∧
    setMalformed gateBad 5 (1 - activeSet gateBad 5) = true ∧ rfld gateBad (pg .gate 5 + 0x108) 3 1 ≠ 1 ∧
    rfld (rsetF State.reset (pg .gate 5 + 0x108) 3 1 1) (pg .gate 5 + 0x108) 3 1 = 1 := by decide +kernel

/-- TRAIN of controller 0 with `v` in it; the memory field is on. -/
def trainAt (v : Nat) : State := rset State.reset (trainOff 0) (wd v)
def scrubOn : State := rset State.reset (pg .mc 0 + 0x100) (wd (2 ^ 32))
def oneErr : State := { State.reset with mem := { State.reset.mem with err := [(spadBase / 8, 1)] } }
def warmer : State := rset State.reset (pg .orr + 0x300 + 8 * 32) 0x140
theorem witness_MemoryFieldResults :
    (memOn warmer = true ∧ tempMoved warmer 0 = true) ∧ pageOn State.reset .mc 0 = true ∧
    (memOn (trainAt 2) = true ∧ inHold (trainAt 2) = false ∧ stopped (trainAt 2) = false ∧ rbit (trainAt 2) (trainOff 0) 1 = true ∧
      training (trainAt 2) = false) ∧
    (rbit (trainAt 1) (trainOff 0) 0 = true ∧ rfld (trainAt 1) (trainOff 0) 23 16 = 0 ∧ rfld (trainAt 1) (trainOff 0) 7 4 < 15) ∧
    (rbit (trainAt 0xF1) (trainOff 0) 0 = true ∧ rfld (trainAt 0xF1) (trainOff 0) 23 16 = 0 ∧
      rfld (trainAt 0xF1) (trainOff 0) 7 4 = 15) ∧
    (rbit (trainAt 0x20001) (trainOff 0) 0 = true ∧ rfld (trainAt 0x20001) (trainOff 0) 23 16 = 2 ∧
      rfld (trainAt 0x20001) (trainOff 0) 7 4 < 15) ∧
    (memOn scrubOn = true ∧ rbit scrubOn (pg .mc 0 + 0x100) 32 = true ∧ inHold scrubOn = false ∧ training scrubOn = false ∧
      stopped scrubOn = false ∧ scrubOn.mem.err = [] ∧ setHas 0 scrubOn.scrubHalf = false ∧
      setHas 0 { scrubOn with scrubHalf := [0] }.scrubHalf = true) ∧
    (domOn oneErr 1 = true ∧ bankOn oneErr 0 = true ∧ inHold oneErr = false ∧ training oneErr = false ∧ stopped oneErr = false ∧
      bankBase 0 ≤ 8 * (spadBase / 8) ∧ 8 * (spadBase / 8) < bankBase 1 ∧ injArmed oneErr .spad 0 1 = false ∧
      injArmed oneErr .spad 0 2 = false ∧ injArmed oneErr .spad 0 3 = false ∧
      (decodeWord (storedWord oneErr.mem (spadBase / 8))).out ≠ 3) ∧
    pageOn State.reset .spad 0 = true ∧ bankState (rsetF State.reset (pg .spad + 0x140) 15 14 2) 7 = 2 := by decide +kernel

/-- Channel 0 with `v` in STAT. -/
def chAt (v : Nat) : State := rset State.reset (chStatOff 0) (wd v)
theorem witness_MoverCommandResults :
    (512 + 7 ∈ { chAt 3 with bells := [519] }.bells ∧ movHalted (chAt 3) = false ∧ chState (chAt 3) 0 = 3 ∧ chState (chAt 2) 0 = 2) ∧
    (pageOn (chAt 1) .movch 0 = true ∧ chState (chAt 1) 0 = 1 ∧ rbit (chAt 1) (chStatOff 0) 7 = false ∧ chState (chAt 0) 0 = 0) ∧
    (pageOn (chAt 4) .mov 0 = true ∧ ∃ n, n < 64 ∧ chState (chAt 4) n = 4) := by decide +kernel

/-- Little-endian data of `n` bytes: `w` bytes of value `v` at each offset listed. -/
def desc128 (ws : List (Nat × Nat × Nat)) : List Byte :=
  ws.foldl (fun b w => b.take w.1 ++ leBytes w.2.1 w.2.2 ++ b.drop (w.1 + w.2.1)) (List.replicate 128 0)
def dataCap (a : Nat) : Cap := mkCap 29 0 0x80000 0x07B 0 0 a
/-- Data of a descriptor with these words; the granules of `caps` hold capabilities of all memory at those addresses. -/
def descOf (ws : List (Nat × Nat × Nat)) (caps : List (Nat × Nat)) : RData :=
  { bytes := desc128 (ws ++ caps.map fun c => (16 * c.1, 16, (dataCap c.2).bits.toNat))
    tags := (List.range 8).map fun g => caps.any fun c => decide (c.1 = g), poison := List.replicate 8 false }
/-- Memory with this data in the scratchpad at `off`. -/
def inSpad (s : State) (off : Nat) (bytes : List Byte) (tags : List Bool) : State :=
  { s with mem := memWrite s.mem (spadBase + off) bytes tags [] }

def movDesc (op : Nat) : RData :=
  descOf ([(0, 8, 2 ^ 63 + op), (0x50, 8, 64 + 2 ^ 32)] ++ (if op = 1 ∨ op = 3 then [(0x40, 8, 64 + 2 ^ 32)] else []))
    ((if op = 1 ∨ op = 3 then [(1, spadBase + 0x1000)] else []) ++ [(2, spadBase + 0x2000)])
/-- Channel 0 RUNNING, its head at scratchpad offset 0x800, where `d` lies. -/
def movIn (phase : MovPhase) (d : RData) : State :=
  let s := inSpad (inSpad (chAt 2) 0 (capBytes (dataCap (spadBase + 0x800))) [true]) 0x800 d.bytes d.tags
  setUnit (setMov s 0 { MovCh.idle with phase := phase, head := dataCap (spadBase + 0x800), desc := d, credit := 4096 }) 0
    { MovUnit.idle with cur := if phase = .moving then some 0 else none }

theorem witness_MoverWorkResults_fetch :
    (let s := movIn .anchor (movDesc 1)
     movLive s 0 = true ∧ (movAt s 0).phase = .anchor ∧
      (match fabricTxn s (spadBase + rfld s (pg .mov + 0x100) 25 11 * 2048 + (2 * 0 + chBank s 0) * 16) 16 .read 4 0 0 0 with
        | (.ok d, _) => !d.poison.any id && decide (headCheck (granCap d 0) 128 = none)
        | _ => false) = true) ∧
    (∀ own : Bool, let s := movIn .fetch (if own then movDesc 1 else descOf [] [])
     movLive s 0 = true ∧ (movAt s 0).phase = .fetch ∧
      (match descFetch (chReq s 0) 4 0 (movAt s 0).head (capCursor (movAt s 0).head) (rset s (pg .movch 0 + 0x110) (wd (capCursor (movAt s 0).head))) with
        | (.ok (_, d), t) => !d.poison.any id && (bitAt (mdWord d 0) 63 == own) && !rbit t (chStatOff 0) 8
        | _ => false) = true) ∧
    mdReject (movDesc 1) = 0 ∧ mdReject (descOf [(0, 8, 5)] []) = 1 ∧
    (let s := movIn .ready (movDesc 1)
     s.movErr = none ∧ movHalted s = false ∧ stopped s = false ∧ s.power.nadir = false ∧ unitPick s 0 = some 0 ∧
      (unitAt s 0).cur ≠ some 0) := by decide +kernel

def beatWitness (s : State) (op : Nat) : Bool :=
  let d := (movAt s 0).desc
  let m := beatLen d (movAt s 0).done
  movBeat s 0 op && decide (m = 64) &&
  match if mdUsesSrc d then beatPieces s 0 false needR m else (.ok [], s) with
  | (.ok sp, s1) => match beatPieces s1 0 true (mdDstNeed d) m with
    | (.ok dp, s2) => match beatRead s2 0 (sp ++ dp) with
      | (.ok rs, _) => decide (firstPoison rs = none) && (piecesReady 4 0 dp s2).1 &&
          (sweepPieces 0 (mdWord d 0x60).toNat (mdWord d 0x68).toNat dp s2).1.isNone
      | _ => false
    | _ => false
  | _ => false
def cplWitness (s : State) : Bool :=
  match movCplWrite s 0 0x70 6 (leBytes 8 (movAt s 0).stat.toNat ++ leBytes 8 (movAt s 0).result.toNat) with
  | (.ok _, s1) => match movCplWrite s1 0 0 7 (leBytes 8 (mdWord (movAt s 0).desc 0 &&& 0x7FFFFFFFFFFFFFFF).toNat) with
    | (.ok _, _) => movLive s 0 && decide ((movAt s 0).phase = .ending) && (movAt s 0).last.isNone
    | _ => false
  | _ => false
theorem witness_MoverWorkResults_beats :
    beatWitness (movIn .moving (movDesc 1)) 1 = true ∧ beatWitness (movIn .moving (movDesc 2)) 2 = true ∧
    beatWitness (movIn .moving (movDesc 3)) 3 = true ∧ beatWitness (movIn .moving (movDesc 4)) 4 = true ∧
    mdCmpv (movDesc 3) = false ∧ cplWitness (movIn .ending (movDesc 1)) = true := by decide +kernel

def haltNext : State := { chAt 2 with movErr := some { pa := 64, txn := 0, gate := 0, cause := 1, who := some 0, side := 0 } }
theorem witness_MoverWorkResults_halt : haltNext.movErr.isSome = true ∧ intRaw haltNext .mov 0 0 = false ∧ chState haltNext 0 = 2 := by
  decide +kernel

/-- Descriptor `d` accepted on ring 0 of an engine. -/
def accepted0 (d : RData) : EngDesc :=
  { va := 0, pa := spadBase, colour := 0, raw := d, fin := none, last := none, lastXl := none, begun := false
    lane := none, issued := false, wiped := false, aux := [], auxBad := false, next := none, seq := 0, uses := [], torn := false }
def engIn (s : State) (e : Eng) (d : EngDesc) : State := setRing s e 0 { EngRing.idle with descs := [d] }
/-- A descriptor with OWN and this OP, parameters and slots: slot k at scratchpad offset 0x1000 (k + 1). -/
def engDesc (op : Nat) (ws : List (Nat × Nat × Nat)) (slots : List Nat) : RData :=
  descOf ((0, 8, 2 ^ 63 + op) :: ws) (slots.map fun k => (k + 1, spadBase + 0x1000 * (k + 1)))
/-- Its tests pass, and its inputs are read. -/
def opWitness (s : State) (e : Eng) (op : Nat) (form : State → RData → EngForm) (ins : RData → List EngSlot) : Bool :=
  match engPlaced s e 0 0 op false with
  | some (d, s1) => match engPass s1 e 0 0 d.raw (form s1 d.raw) with
    | some t => (engInput t e 0 (ins d.raw)).isSome
    | none => false
  | none => false
/-- It passes its tests and waits; it had waited and is placed. -/
def waitWitness (s : State) (e : Eng) (op : Nat) (form : State → RData → EngForm) : Bool :=
  match engWaits s e 0 op with
  | some d => !d.begun && (engPass s e 0 0 d.raw (form s d.raw)).isSome
  | none => false
def againWitness (s : State) (e : Eng) (op : Nat) : Bool := (engPlaced s e 0 0 op true).isSome

/-- Ring 0 with `v` in RSTAT and a ring of two slots; its anchor in the anchor table, descriptor `d` in its slot. -/
def ringIn (e : Eng) (v : Nat) (phase : RingPhase) (d : RData) : State :=
  let s := inSpad (inSpad (rset (rset State.reset (pg (engPage e) + 0x880) 1) (rstatOff e 0) (wd v)) 0
    (capBytes (dataCap (spadBase + 0x800))) [true]) 0x800 d.bytes d.tags
  setRing s e 0 { EngRing.idle with phase := phase, anchor := dataCap (spadBase + 0x800) }
def engCplWitness (s : State) (e : Eng) : Bool :=
  match descAt s e 0 0 with
  | none => false
  | some d => match engCplWrite s e 0 d 0x70 6 (List.replicate 16 0) with
    | (.ok (), s1) => match engCplWrite s1 e 0 d 0 7 (leBytes 8 1) with
      | (.ok (), _) => engLive s e
      | _ => false
    | _ => false
theorem witness_EngineRingResults :
    (∀ e ∈ [Eng.chk, .idx, .cdn, .cdr, .cph],
      pageOn State.reset (engPage e) 0 = true ∧ ringState (ringIn e 0 .idle (descOf [] [])) e 0 = 0 ∧
      ringLog2n (ringIn e 0 .idle (descOf [] [])) e 0 ≠ 0 ∧ ringState (ringIn e 2 .idle (descOf [] [])) e 0 = 2 ∧
      ringState (ringIn e 1 .idle (descOf [] [])) e 0 = 1 ∧ (ringAt (ringIn e 1 .idle (descOf [] [])) e 0).descs = [] ∧
      (ringAt (engIn (ringIn e 1 .idle (descOf [] [])) e (accepted0 (engDesc 1 [] []))) e 0).descs ≠ []) ∧
    (∀ e ∈ [Eng.chk, .cph], let s := ringIn e 1 .anchor (descOf [] [])
      ringLive s e 0 .anchor = true ∧
      (match fabricTxn s (spadBase + rfld s (pg (engPage e) + 0x800) 25 8 * 256 + 16 * 0) 16 .read 5 0 (fetchSrc e 0) 0 with
        | (.ok d, t) => !d.poison.any id && decide (headCheck (granCap d 0) (128 * 2 ^ ringLog2n t e 0) = none)
        | _ => false) = true) ∧
    (∀ own : Bool, let s := ringIn .chk 1 .fetch (if own then engDesc 1 [] [] else descOf [] [])
      ringFetch s .chk 0 = true ∧ fetchSent s .chk 0 = false ∧ fetchTurn s .chk 0 = true ∧
      (match descFetch (ringReq s .chk 0) 5 (fetchSrc .chk 0) (ringAt s .chk 0).anchor
          (capCursor (ringAt s .chk 0).anchor + 128 * ringHead s .chk 0) (ringChosen s .chk 0 0) with
        | (.ok (_, d), t) => !d.poison.any id && (bitAt (edWord d 0) 63 == own) && !rbit t (rstatOff .chk 0) 8
        | _ => false) = true) ∧
    (∀ torn : Bool, engCplWitness (engIn State.reset .chk { accepted0 (engDesc 1 [] []) with fin := some (0, 0), torn := torn })
      .chk = true) ∧
    (let d := { accepted0 (engDesc 1 [] []) with uses := [(spadBase, 64)] }
     ((descAt (softWrite (engIn State.reset .chk d) (spadBase + 63) 1) .chk 0 0).any (·.torn)) = true ∧
       ((descAt (softWrite (engIn State.reset .chk d) (spadBase + 64) 1) .chk 0 0).any fun x => !x.torn) = true) ∧
    (ringAt (setRing State.reset .chk 0 { EngRing.idle with
      err := some { pa := 64, txn := 0, gate := 0, cause := 1, who := some 0, side := 0 } }) .chk 0).err.isSome = true := by
  decide +kernel

theorem witness_ChunkerResults :
    opWitness (engIn State.reset .chk (accepted0 (engDesc (1 + 3 * 2 ^ 10) [(8, 8, 64)] [0, 2]))) .chk 1 (fun _ => chunkForm)
      (fun d => (chunkForm d).exts.filter fun x => decide (x.side < 2)) = true ∧
    opWitness (engIn State.reset .chk (accepted0 (engDesc 1 [(8, 8, 64)] [0, 1, 2, 3]))) .chk 1 (fun _ => chunkForm)
      (fun d => (chunkForm d).exts.filter fun x => decide (x.side < 2)) = true ∧
    (carryIn (leBytes 2 1 ++ List.replicate 126 0)).isSome = true ∧ (carryIn (List.replicate 128 0)).isNone = true ∧
    opWitness (engIn State.reset .chk (accepted0 (engDesc 2 [(8, 8, 64)] [0, 2]))) .chk 2 (fun _ => fprintForm)
      (fun d => (fprintForm d).exts.filter fun x => decide (x.side < 2)) = true ∧
    opWitness (engIn State.reset .chk (accepted0 (engDesc (2 + 2 ^ 10) [(8, 8, 64)] [0, 1]))) .chk 2 (fun _ => fprintForm)
      (fun d => (fprintForm d).exts.filter fun x => decide (x.side < 2)) = true := by decide +kernel

def aBatch (n : Nat) : Batch :=
  { ring := n, bind := 0, cap := dataCap (spadBase + 0x10000), nb := 2, chg := [], look := 0, news := [], uses := [], torn := false }
def idxIn (b : Option Batch) (d : RData) : State := engIn { State.reset with batch := b } .idx (accepted0 d)
theorem witness_IndexResults :
    opWitness (idxIn none (engDesc 1 [(0x50, 8, 2)] [0])) .idx 1 idxOpenForm (fun _ => []) = true ∧
    waitWitness (idxIn (some (aBatch 1)) (engDesc 1 [(0x50, 8, 2)] [0])) .idx 1 idxOpenForm = true ∧
    againWitness (engIn State.reset .idx { accepted0 (engDesc 1 [(0x50, 8, 2)] [0]) with begun := true }) .idx 1 = true ∧
    opWitness (idxIn (some (aBatch 0)) (engDesc 2 [(8, 8, 1)] [0, 2])) .idx 2
      (fun s d => idxForm s d 1 [0, 2] [0] [inSlot d 0 48, outSlot d 2 16] (idxNBad d)) (fun d => [inSlot d 0 48]) = true ∧
    (∀ op ∈ [3, 4], opWitness (idxIn (some (aBatch 0)) (engDesc op [(8, 8, 1)] [0])) .idx op
      (fun s d => idxForm s d 1 [0] [0] [inSlot d 0 32] (idxNBad d)) (fun d => [inSlot d 0 32]) = true) ∧
    (let s := idxIn (some (aBatch 0)) (engDesc 5 [] [])
     opWitness s .idx 5 (fun s d => idxForm s d 1 [] [0] [] false) (fun _ => []) = true ∧
      (commitPlan s (aBatch 0)).1.bad.isNone = true ∧
      (let p := (commitPlan s (aBatch 0)).1
       !commitHeld (aBatch 0) p.memo (ringReq p.st .idx 0) [] p.st && (commitWrite (aBatch 0) p.memo none p.st).1.isOk) = true) ∧
    opWitness (idxIn (some (aBatch 0)) (engDesc 6 [] [])) .idx 6 (fun s d => idxForm s d 1 [] [] [] false) (fun _ => []) = true ∧
    (pageOn State.reset .idx 0 = true ∧ ringState State.reset .idx 0 = 0) := by decide +kernel

/-- The table of a batch of two empty buckets answers a lookup of fingerprint 0 with NEW. -/
theorem witness_IndexResults_lookup :
    (lookOne false { tab := { st := State.reset, bat := aBatch 0, memo := [], got := [], bad := none }, out := [], ord := 0, news := [], found := 0, new := 0 }
      (List.replicate 48 0)).tab.bad.isNone = true := by decide +kernel

def cdnOne (d : RData) : List EngSlot := [inSlot d 0 (fld (edParam d 0) 31 0)]
def cdnIn (d : RData) : State := engIn State.reset .cdn (accepted0 d)
/-- Lane 0 is a deep lane. -/
def deepIn (d : RData) : State := engIn (rset State.reset (pg .cdn + 0x100) 1) .cdn (accepted0 d)
/-- Ring 0 holds `d`, and ring 1 a PDEC accepted before it. -/
def behindPdec (d : EngDesc) : State :=
  setRing (engIn State.reset .cdn { d with seq := 1 }) .cdn 1 { EngRing.idle with descs := [accepted0 (engDesc 2 [] [])] }
def rawFrame : List Byte := [0x28, 0xB5, 0x2F, 0xFD, 0x20, 0x01, 0x09, 0x00, 0x00, 0xAA]
theorem witness_CondenserResults :
    opWitness (cdnIn (engDesc 1 [(8, 8, 16), (0x50, 8, 3), (0x58, 8, 100)] [0, 2])) .cdn 1 (fun _ => pcompForm) cdnOne = true ∧
    dictWait (cdnIn (engDesc 1 [] [])) (accepted0 (engDesc 1 [] [])) = false ∧
    opWitness (cdnIn (engDesc 2 [(8, 8, 10), (0x58, 8, 100)] [0, 2])) .cdn 2 (fun _ => pdecForm) cdnOne = true ∧
    (match pdecLoop 0 0 rawFrame.toArray 100 none 11 0 0 [] 0 [] State.reset with
      | (.ok (out, none), _) => decide (out = [0xAA])
      | _ => false) = true ∧
    opWitness (deepIn (engDesc 8 [(8, 8, 16), (0x58, 8, 100)] [0, 2])) .cdn 8 (fun _ => dencForm) cdnOne = true ∧
    opWitness (deepIn (engDesc 9 [(8, 8, 16), (0x58, 8, 100)] [0, 2])) .cdn 9 (fun _ => ddecForm) cdnOne = true ∧
    opWitness (cdnIn (engDesc 3 [(8, 8, 16)] [0])) .cdn 3 (fun _ => dloadForm) cdnOne = true ∧
    opWitness (cdnIn (engDesc 4 [] [])) .cdn 4 (fun _ => dfreeForm) (fun _ => []) = true ∧
    waitWitness (behindPdec (accepted0 (engDesc 3 [(8, 8, 16)] [0]))) .cdn 3 (fun _ => dloadForm) = true ∧
    waitWitness (behindPdec (accepted0 (engDesc 4 [] []))) .cdn 4 (fun _ => dfreeForm) = true ∧
    (∀ op ∈ [3, 4], againWitness (engIn State.reset .cdn { accepted0 (engDesc op [(8, 8, 16)] [0]) with begun := true }) .cdn op = true) := by
  decide +kernel

/-- A program that copies one vector from IN0 to OUT0. -/
def copyProg : State :=
  { State.reset with prog := [(1, 0x01000002), (2, 8), (6, 1), (10, 1), (36, 0x20000000), (37, 0x30020000)] }
def runD : RData := engDesc 1 [(0x50, 8, 128), (0x58, 8, 128)] [0, 2]
theorem witness_CoderResults :
    (let s := engIn copyProg .cdr (accepted0 runD)
     opWitness s .cdr 1 (fun _ => runForm) (fun _ => []) = true ∧ progPoison s 0 = false ∧
      (match progLoad s 0 (runVals runD) with
        | some p => decide (codeCheck p 0 0 p.code = none) && decide ((codeCount p [1] p.code).1 ≤ 2 ^ 40) &&
            (let acts := (codTrace p (codeCount p [1] p.code).2 { pc := 0, stack := [], uses := List.replicate 8 0, acts := [] }).acts
             decide (acts.length = 2) && decide (walkRange p (runLens runD) acts = none) &&
               decide ((walkRange p [] acts).isSome = true) && (engInput s .cdr 0
                 (acts.flatMap fun a => if insOp a.ins = 3 then [] else a.acc.map fun x => codSlot runD p x false)).isSome) &&
            (codeCheck p 0 0 [0]).isSome
        | none => false) = true) ∧
    (let d := engDesc 2 [(0x50, 8, 8)] [0]
     let s := engIn State.reset .cdr (accepted0 d)
     opWitness s .cdr 2 (fun _ => ploadForm) (fun d => [inSlot d 0 (fld (edParam d 1) 31 0)]) = true ∧
      waitWitness (setRing (engIn State.reset .cdr { accepted0 d with seq := 1 }) .cdr 1 { EngRing.idle with descs := [accepted0 runD] })
        .cdr 2 (fun _ => ploadForm) = true ∧
      againWitness (engIn State.reset .cdr { accepted0 d with begun := true }) .cdr 2 = true) ∧
    opWitness (engIn State.reset .cdr (accepted0 (engDesc 3 [(0x50, 8, 2 + 2 ^ 32)] [2]))) .cdr 3 (fun _ => cauchyForm) (fun _ => []) = true := by
  decide +kernel

/-- A descriptor of the Cipher with a handle in IN1 and a cipher key in its slot. -/
def cphDesc (op : Nat) (w : Bool) : EngDesc :=
  let d := engDesc op [(8, 8, 16)] [0, 2]
  let h := mkCap 0 0 0x10000 0x240 0 14 5
  { accepted0 { d with bytes := d.bytes.take 32 ++ capBytes h ++ d.bytes.drop 48, tags := [false, true, true, true, false, false, false, false] } with
    aux := slotBytes [] [] 1 0, wiped := w }
theorem witness_CipherResults :
    handleBad (edSlot (cphDesc 1 false).raw 1) (cphDesc 1 false).aux = 0 ∧
    opWitness (engIn State.reset .cph (cphDesc 1 false)) .cph 1
      (fun _ d => cphForm d (cphA d + cphL d) (cphA d + cphL d + 16)) (fun d => [inSlot d 0 (cphA d + cphL d)]) = true ∧
    opWitness (engIn State.reset .cph (cphDesc 2 false)) .cph 2
      (fun _ d => cphForm d (cphA d + cphL d + 16) (cphL d)) (fun d => [inSlot d 0 (cphA d + cphL d + 16)]) = true ∧
    opWitness (engIn State.reset .cph (cphDesc 1 true)) .cph 1
      (fun _ d => cphForm d (cphA d + cphL d) (cphA d + cphL d + 16)) (fun _ => []) = true := by decide +kernel

theorem witness_GcmRoundTrip : (List.replicate 32 (0 : Byte)).length = 32 ∧ (List.replicate 12 (0 : Byte)).length = 12 := by decide

/-- g7 is the top of a stack in the scratchpad, and g2 the execute root; a link lies at the top. -/
def stackIn : State := inSpad (atReg 7 (dataCap (spadBase + 0x1000))) 0x1000 (capBytes resetPcc) [true]
theorem witness_StackCallResults :
    (let stack := readReg (cpu stackIn 0) 7
     let vals := pccAt (cpu stackIn 0) (pcOf (cpu stackIn 0) + 4) :: (maskRegs 3).map (readReg (cpu stackIn 0))
     let n := 16 * vals.length
     canIssue stackIn 0 { word := wWide 0x22 2 3, reads := 2 :: 7 :: maskRegs 3, writes := [7] } = true ∧
      targetCheck (readReg (cpu stackIn 0) 2) = none ∧ callCheck stack n vals = none ∧
      (match xlateAcc (access stackIn 0 7 (wWide 0x22 2 3)) needW (capCursor stack - n) n (begun stackIn 0) with
        | .ok (ps, s1) => (callStores (access stackIn 0 7 (wWide 0x22 2 3)) ((areaPieces ps (capCursor stack - n) vals.length).zip vals) s1).isOk
        | _ => false) = true) ∧
    ((targetCheck (readReg (cpu stackIn 0) 3)).isSome = true ∧ (callCheck (readReg (cpu stackIn 0) 3) 16 []).isSome = true) ∧
    (let stack := readReg (cpu stackIn 0) 7
     let w := wWide 0x23 0 3
     canIssue stackIn 0 { word := w, reads := [7], writes := 7 :: maskRegs 3 } = true ∧
      capCheck stack [rLoad] true false (capCursor stack) 48 = none ∧ capCursor stack % 16 = 0 ∧
      (match xlateAcc (access stackIn 0 7 w) needR (capCursor stack) 48 (begun stackIn 0) with
        | .ok (ps, s1) => match retLoads (access stackIn 0 7 w) (areaPieces ps (capCursor stack) 3) s1 with
          | .ok (link :: _, _) => decide (targetCheck link = none)
          | _ => false
        | _ => false) = true) ∧
    (capCheck (readReg (cpu (atReg 7 (dataCap 8)) 0) 7) [rLoad] true false 8 16 = none ∧ 8 % 16 ≠ 0) := by decide +kernel

/-- Unit `u` with one operation of OP `op` at its head. -/
def opOf (op : Nat) (wiped : Bool) : IslOp := { src := .cx 0, port := 0x10, vals := [(0x10, intCap (wd op))], wiped := wiped, snap := none }
def islIn (u : Nat) (o : IslOp) : State := setIslQueue State.reset u [o]
/-- Every row of unit `u`: an operation with its OP that a wipe met, one with bits that must be zero, and one without. -/
def islWitness (u op : Nat) (zero : IslOp → Bool) (bad : Nat) : Bool :=
  [opOf op true, opOf (op + bad) false, opOf op false].all fun o =>
    decide (islQueue (islIn u o) u = [o]) && decide (opCode o = op) && !islHeld (islIn u o) u &&
      (zero o == decide (o = opOf (op + bad) false))
theorem witness_SealUnitResults :
    (∀ op ∈ [1, 2, 3, 4, 5, 6, 7, 8], islWitness 0 op sealZero (2 ^ 32) = true) ∧
    rbit (rsetB (islIn 0 (opOf 1 false)) (pg .lct + 0x118) 8 true) (pg .lct + 0x118) 8 = true := by decide +kernel

/-- Tenant 5 is VALID with epoch 9 and key slot 3, which holds a writ key. -/
def tenantIn : State :=
  let s := State.reset
  { s with mem := memWrite (memWrite s.mem (entryAddr 5) (leBytes 8 (2 ^ 63 + 3 * 2 ^ 48 + 9)) [] []) (slotAddr 3) (slotBytes [1] [] 2 0) [] [] }
theorem witness_WritMadeIsValid :
    (match entryRead tenantIn 5 with
      | (some e, s1) => e.getLsbD 63 && slotIs (slotRead s1 (fld e 59 48)).1 2 && decide (fld e 47 0 = 9)
      | _ => false) = true ∧
    writImageOk (mkCap 29 0 0x80000 0x07B 0 0 0x1000) = true := by decide +kernel

def unwrapOp : IslOp :=
  { opOf 2 false with vals := [(2, dataCap (spadBase + 0x1000)), (0x10, intCap (wd (2 + 2 ^ 32 + 7 * 2 ^ 20)))] }
def wrapKey (kind : Nat) (u : State) : State := { u with mem := memWrite u.mem (slotAddr 7) (slotBytes [1] [] kind 0) [] [] }
theorem witness_LadderAndDigestResults :
    (∀ op ∈ [1, 3, 4], islWitness 2 op (fun o => ladderZero o) (2 ^ 57) = true) ∧
    (∀ op ∈ [1, 3], islWitness 1 op digestZero (2 ^ 10) = true) ∧
    (∀ k ∈ [2, 3], let s := wrapKey k (islIn 2 unwrapOp)
      islQueue s 2 = [unwrapOp] ∧ opCode unwrapOp = 2 ∧ islHeld s 2 = false ∧ ladderZero unwrapOp = false ∧ kKind unwrapOp = 1 ∧
      slotIs (slotRead s (kWslot unwrapOp)).1 3 = decide (k = 3)) ∧
    (let s := wrapKey 3 (islIn 2 unwrapOp)
     let c := opVal unwrapOp 2
     capCheck c [rLoad] true false (capCursor c) 72 = none ∧
      (blobPending (slotRead s 7).2 (linesOf (capCursor c) 72)).1 = false ∧
      (blobRead (slotRead s 7).2 (linesOf (capCursor c) 72)).1.isSome = true) ∧
    (opCode (opOf 2 false) = 2 ∧ digestZero (opOf 2 false) = false ∧ islQueue (islIn 1 (opOf 2 false)) 1 = [opOf 2 false] ∧
      capWord (opVal (opOf 2 false) 0) ≤ rget State.reset (pg .mer + 0x120) ∧
      rget State.reset (pg .mer + 0x120) < capWord (opVal { opOf 2 false with vals := [(0, intCap 1)] } 0)) ∧
    (List.replicate 48 (0 : Byte)).length = 48 ∧ domOn State.reset 2 = true ∧ rbit State.reset (pg .seal + 0x100) 0 = false := by
  decide +kernel

def lctAsked : State := { rsetB State.reset (pg .lct + 0x100) 8 true with life := { State.reset.life with target := 3 } }
theorem witness_LifeCycleResults :
    (pageOn State.reset .lct 0 = true ∧ rbit State.reset (pg .lct + 0x100) 8 = false ∧ State.reset.life.state < 3) ∧
    (rbit lctAsked (pg .lct + 0x100) 8 = true ∧ rbit lctAsked (pg .lct + 0x118) 8 = false ∧ lctAsked.life.target < 8) ∧
    rbit State.reset (pg .lct + 0x110) 0 = true ∧ rbit (rset State.reset (pg .lct + 0x110) 0) (pg .lct + 0x110) 0 = false ∧
    domOn (rset State.reset (pg .pwr + 0x108) 0) 2 = false ∧
    (rbit (rset State.reset (pg .lct + 0x118) 0x100) (pg .lct + 0x118) 8 = true ∧ rbit State.reset (pg .lct + 0x110) 1 = false) := by
  decide +kernel

def awake : State := rsetB (rsetB State.reset (pg .pwr + 0x120) 1 true) (pg .pwr + 0x120) 2 true
def asleep : State := { awake with power := { awake.power with nadir := true } }
/-- The link of port `i` of a page kind up, and the requester registers open. -/
def linked (k : PageKind) (i : Nat) : State := rsetB State.reset (pg k i + 0x108) 0 true
def ready0 : State := rsetB (linked .host 0) (pg .host 0 + 0x100) 0 true
def perst0 : State := setHost State.reset 0 { hostAt State.reset 0 with perst := true }
def med0 : State := rsetB State.reset (pg .med 0 + 0x100) 0 true
theorem witness_HostPortResults :
    (domOn State.reset 16 = true ∧ rbit (rset State.reset (pg .pwr + 0x120) 0) (pg .pwr + 0x120) 1 = false ∧ rbit asleep (pg .pwr + 0x120) 1 = true ∧
      asleep.power.nadir = true ∧ pageOn State.reset .host 0 = true) ∧
    (linkUp (linked .host 0) .host 0 = true ∧ rbit (linked .host 0) (pg .host 0 + 0x100) 0 = false ∧ linkUp ready0 .host 0 = true ∧
      rbit ready0 (pg .host 0 + 0x100) 0 = true ∧ linkUp (linked .med 0) .med 0 = true) ∧
    (pciePort (.host 0) = some (.host, 0) ∧ domOn perst0 (pageDom .host 0) = true ∧ linkUp perst0 .host 0 = false ∧
      (hostAt perst0 0).perst = true) ∧
    (pciePort (.med 0) = some (.med, 0) ∧ domOn med0 (pageDom .med 0) = true ∧ linkUp med0 .med 0 = false ∧
      rbit med0 (pg .med 0 + 0x100) 0 = true) ∧
    (hostAt (setHost State.reset 0 { hostAt State.reset 0 with perst := false }) 0).perst = false := by decide +kernel

/-- The BARs of host port 0 open; aperture 0 open on the scratchpad. -/
def barIn : State :=
  let s := rsetB ready0 (pg .host 0 + 0x100) 1 true
  setHost s 0 { hostAt s 0 with cfg := [(4, 0x6)] }
def apIn (x : Nat) : State := setAp barIn 0 0 { apAt barIn 0 0 with state := 2, cap := dataCap x }
theorem witness_InboundResults :
    (barsOpen barIn 0 = true ∧ barsOpen State.reset 0 = false ∧ (apAt barIn 0 0).state ≠ 2 ∧ (apAt barIn 0 0).state ≠ 1) ∧
    ((apAt (apIn spadBase) 0 0).state = 2 ∧ barsOpen (apIn spadBase) 0 = true ∧
      capCheck (dataCap spadBase) [rLoad] true false spadBase 8 = none ∧ (capCheck Cap.null [rLoad] true false 0 8).isSome = true) ∧
    (apAt (setAp barIn 0 0 { apAt barIn 0 0 with state := 1 }) 0 0).state = 1 ∧
    (let s := rset (rset barIn (pg .host 0 + 0x400) (wd (2 ^ 32 + 100))) (pg .car + 0x108) 0
     barsOpen s 0 = true ∧ 0 < rfld s (pg .host 0 + 0x400) 43 32 ∧ rfld s (pg .host 0 + 0x400) 11 0 ≤ 4095 ∧
      rbit s (pg .car + 0x100 + 100 / 64 * 8) (100 % 64) = false ∧ intRaw s .host 0 3 = false ∧ intRaw s .host 0 4 = false) ∧
    (linkUp (linked .med 0) .med 0 = true ∧ iwinHit (linked .med 0) 0 0 8 = false) ∧
    (let s := rsetB (linked .med 0) (pg .med 0 + 0x190) 0 true
     rbit s (pg .med 0 + 0x190) 0 = true ∧ windowBell (rset (rset s (pg .car + 0x108) 0) (pg .med 0 + 0x400) (wd (2 ^ 32 + 100))) (pg .med 0 + 0x400) 0 = some 100) ∧
    (∀ k ∈ [PageKind.med, .peer], let s := inSpad State.reset 0 (capBytes (dataCap spadBase)) [true]
      pageOn s k 0 = true ∧ rbit s (pg k 0 + 0x188) 0 = false ∧ rbit (rsetB s (pg k 0 + 0x188) 0 true) (pg k 0 + 0x188) 0 = true ∧
      (let v := rget s (pg k 0 + 0x188)
       match memTxn (plainWrite s k 0 0x188 (v ||| 1) 3) (spadBase + fld v 25 4 * 16) 16 .read
          (BitVec.ofNat 4 (if k = .med then 8 + 0 else 12 + 0)) 0 0 0 with
        | (.ok d, _) => (let c : Cap := { bits := BitVec.ofNat 128 (leNat d.bytes), tag := d.tags.headD false }
          !d.poison.headD false && c.tag && decide (capOtype c = 0) && capHas c rLoad && capHas c rStore)
        | _ => false) = true) := by decide +kernel
/-- The PCIe window of media port 0 is the whole address space from 0 on, with and without its anchor. -/
def winIn (a : Option Cap) : State :=
  let s := rset (linked .med 0) (pg .med 0 + 0x180) 47
  setMed s 0 { medAt s 0 with anchor := a }
theorem witness_InboundResults_window :
    iwinHit (winIn none) 0 0 8 = true ∧ (medAt (winIn none) 0).anchor = none ∧ linkUp (winIn none) .med 0 = true ∧
    (medAt (winIn (some (dataCap spadBase))) 0).anchor = some (dataCap spadBase) ∧
    iwinHit (winIn (some (dataCap spadBase))) 0 0 8 = true := by decide +kernel

/-- MSI-X on, with Function Mask 0 or 1; the place of its capability is an open value. -/
def msixIn (v : BitVec 32) : State := setHost State.reset 0 { hostAt State.reset 0 with cfg := [(Config.msixCap, v)], msix := [(0, 0)] }
theorem witness_InboundResults_entry : ((smGet msixReset (hostAt (msixIn 0) 0).msix 0).getLsbD 96 = false) ∧
    (smGet msixReset (hostAt (msixIn 0) 0).msix 1).getLsbD 96 = true := by decide +kernel
theorem witness_InboundResults_msix : pageOn (msixIn 0x80000000) .host 0 = true ∧ msixOn (msixIn 0x80000000) 0 = true ∧
    msixMasked (msixIn 0x80000000) 0 = false ∧ msixOn (msixIn 0xC0000000) 0 = true ∧ msixMasked (msixIn 0xC0000000) 0 = true := by
  have h : ∀ v, cfgDword (msixIn v) 0 Config.msixCap = v := by
    intro v
    have h1 : (hostAt (msixIn v) 0).cfg = [(Config.msixCap, v)] := rfl
    unfold cfgDword
    rw [h1]
    simp [smFind]
  refine ⟨rfl, ?_, ?_, ?_, ?_⟩ <;> simp only [msixOn, msixMasked, h] <;> decide

/-- A port whose segment 0 is open (and, of a media port, of configuration
type with secondary bus 0). -/
def segIn (k : PageKind) (v : Nat) : State := rset (linked k 0) (pg k 0 + 0x140) (wd v)
def atWindow (pa : Nat) (op : TxnOp) : Txn := { pa := pa, n := 4, op := op, cls := 3, colour := 0, src := 0 }
def outRead (kind : Nat) : OutRead := { tag := 7, kind := kind, addr := 0x1000, dev := 0x1000, src := initKey 3 0 0, pa := 0x10000000000, n := 4, data := [], xl := none, old := false }
def ioReads (k : PageKind) (rs : List OutRead) (ds : List ReadDone) : State :=
  setIo (segIn k 1) k 0 { ioAt (segIn k 1) k 0 with reads := rs, dones := ds }
def aDone : ReadDone := { src := initKey 3 0 0, pa := 0x10000000000, n := 4, data := none }
theorem witness_OutboundResults :
    (targetOf 0x10000000000 = .host 0 0 ∧ (rget (segIn .host 1) (pg .host 0 + 0x140)).getLsbD 0 = true ∧
      linkUp (segIn .host 1) .host 0 = true ∧ (rget (linked .host 0) (pg .host 0 + 0x140)).getLsbD 0 = false ∧
      lets (segIn .host 1) (atWindow 0x10000000000 .read) = true ∧ lets (linked .host 0) (atWindow 0x10000000000 .read) = true ∧
      lets (segIn .host 1) (atWindow 0x10000000000 (.write [1, 2, 3, 4] [] [])) = true ∧
      asked (segIn .host 1) (initKey 3 0 0) 0x10000000000 4 = false ∧ (ioAt (segIn .host 1) .host 0).reads.length < 768 ∧
      (takeDone (ioAt (ioReads .host [] [aDone]) .host 0).dones (initKey 3 0 0) 0x10000000000 4).isSome = true) ∧
    (targetOf 0x20000000000 = .media 0 0 ∧ lets (segIn .med 3) (atWindow 0x20000000000 .read) = true ∧
      lets (segIn .med 3) (atWindow 0x20000000000 (.write [1, 2, 3, 4] [] [])) = true ∧ cfgType (segIn .med 3) 0 0 4 ≠ 0 ∧
      (rget (segIn .med 3) (pg .med 0 + 0x140)).getLsbD 1 = true ∧ linkUp (segIn .med 3) .med 0 = true) ∧
    (∀ kind ∈ [0, 1], (ioAt (ioReads .med [outRead kind] []) .med 0).reads.find? (fun r => decide (r.tag = 7)) = some (outRead kind)) ∧
    ((outRead 1).n = 4 ∧ (outRead 1).dev % 0x1000 = 0 ∧ rbit (ioReads .med [outRead 1] []) (pg .med 0 + 0x100) 1 = false ∧
      rbit (rsetB (ioReads .med [outRead 1] []) (pg .med 0 + 0x100) 1 true) (pg .med 0 + 0x100) 1 = true) ∧
    ((0x3000 : Nat) / 65536 < 4 ∧ (ctxAt (atCtx fun c => { c with run := .stalled, why := some .port }) 0).why = some .port) ∧
    (targetOf 0x40000000000 = .peer 0 0 ∧ rbit (linked .peer 0) (pg .peer 0 + 0x108) 0 = true ∧
      rbit State.reset (pg .peer 0 + 0x108) 0 = false ∧ targetOf 0x47FFFFF8000 = .peer 0 0x7FFFFF8000 ∧
      (peerAt (linked .peer 0) 0).reads = [] ∧ lets (linked .peer 0) (atWindow 0x40000000000 .read) = true ∧
      lets (linked .peer 0) { atWindow 0x40000000000 (.write (List.replicate 8 1) [] []) with n := 8 } = true ∧
      lets (linked .peer 0) (atWindow 0x47FFFFF8000 (.write [1, 2, 3, 4] [] [])) = true ∧
      asked (linked .peer 0) (initKey 3 0 0) 0x40000000000 4 = false ∧
      lets State.reset (atWindow 0x40000000000 (.write [1, 2, 3, 4] [] [])) = true) := by decide +kernel

def keepCmd : State := { State.reset with mgmt := { State.reset.mgmt with i3c := [0] } }
def spiBusy : State := { State.reset with mgmt := { State.reset.mgmt with spiCmd := some (0, []), spi := List.replicate 8 0, rx := [5], tx := [6] } }
def lifeIn (n : Nat) : State := { State.reset with life := { State.reset.life with state := n } }
theorem witness_ManagementResults :
    (rfld State.reset (pg .mgmt + 0x118) 15 8 = 0 ∧ rfld (rset State.reset (pg .mgmt + 0x118) 0x900) (pg .mgmt + 0x118) 15 8 ≠ 0) ∧
    ((match fabricTxn State.reset regBase 8 .read 15 0 0 0 with
        | (.ok _, _) => true
        | _ => false) = true ∧
      (match fabricTxn State.reset keepBase 8 (.write (leBytes 8 5) [] []) 15 0 0 0 with
        | (.ok _, _) => true
        | _ => false) = true ∧
      (match fabricTxn (rset State.reset (rgnOff 7 0 0 + 8) 0) (regBase + 0xFFF000) 8 .read 15 0 0 0 with
        | (.ok _, _) => false
        | _ => true) = true) ∧
    (State.reset.power.nadir = false ∧ asleep.power.nadir = true ∧ rbit asleep (pg .pwr + 0x120) 2 = true ∧
      rbit (rset asleep (pg .pwr + 0x120) 0) (pg .pwr + 0x120) 2 = false ∧ keepCmd.mgmt.i3c ≠ []) ∧
    (pageOn State.reset .mgmt 0 = true ∧ spiBusy.mgmt.rx = [5] ∧ State.reset.mgmt.rx = [] ∧ spiBusy.mgmt.tx = [6] ∧
      rbit (rsetB State.reset (pg .clk + 0x100) 0 true) (pg .clk + 0x100) 0 = true ∧ 8 ≤ spiBusy.mgmt.spi.length ∧ spiBusy.mgmt.spiCmd = some (0, [])) ∧
    ((lifeIn 2).life.state = 2 ∧ (lifeIn 1).mgmt.ir ≠ 0x10 ∧ domOn (lifeIn 1) 2 = true ∧
      (match fabricTxn { lifeIn 0 with mgmt := { (lifeIn 0).mgmt with ir := 0x10 } } (regBase + (0 : BitVec 24).toNat) 8 .read 15 0 0 0 with
        | (.ok _, _) => true
        | _ => false) = true) ∧
    (rbit State.reset (pg .mgmt + 0x138) 0 = false ∧ rbit (rset State.reset (pg .mgmt + 0x138) 1) (pg .mgmt + 0x138) 0 = true) := by
  decide +kernel

/-- Tambour port 0 with `st` in LINK.STATE, UP in it where `st` is ACTIVE. -/
def tamIn (st : Nat) (f : PeerPort → PeerPort) : State :=
  let s := rset State.reset (pg .peer 0 + 0x108) (wd (st * 2 ^ 40 + (if st = 4 then 1 else 0)))
  setPeer s 0 (f (peerAt s 0))
/-- A stroke sealed for its type has its CRC. -/
theorem crc_sealed (typ : Nat) (k : Stroke) :
    decide ((sealStroke typ k).crc = strokeCrc typ (sealStroke typ k)) = true := decide_eq_true rfl
def initOf (version : Byte) : Stroke := sealStroke 0x02 { Stroke.blank with payload := [version, 0] ++ List.replicate 126 0 }
def alignOk : Stroke := sealStroke 0xF1 { Stroke.blank with payload := alignPayload }
def blankOf (typ : Nat) (seq : BitVec 16) : Stroke := sealStroke typ { Stroke.blank with seq := seq }
def heldOne : TxStroke := { typ := 0x10, stroke := { Stroke.blank with seq := 5 } }
theorem witness_TambourLinkResults :
    (pageOn State.reset .peer 0 = true ∧ rbit State.reset (pg .peer 0 + 0x100) 0 = false ∧
      rbit (rset State.reset (pg .peer 0 + 0x100) 1) (pg .peer 0 + 0x100) 0 = true) ∧
    (∀ st ∈ [1, 2, 3, 4], linkState (tamIn st id) 0 = st) ∧
    (injArmed (tamIn 3 id) .peer 0 1 = false ∧ injArmed (tamIn 2 id) .peer 0 1 = false ∧ leAt (initOf 1).payload 0 2 = 1 ∧
      leAt (initOf 2).payload 0 2 ≠ 1 ∧ strokeOk 0xF1 { alignOk with payload := [] } = false ∧
      (peerAt (tamIn 3 id) 0).inits < 8 ∧ 8 ≤ (peerAt (tamIn 3 fun x => { x with inits := 8 }) 0).inits) ∧
    (let s := tamIn 4 fun x => { x with held := [heldOne], resends := 6 }
     (peerAt s 0).held ≠ [] ∧ (peerAt s 0).resends < 7 ∧ (peerAt s 0).txq = [] ∧ (peerAt s 0).held[0]? = some heldOne ∧
      heldOne.stroke.seq = { Stroke.blank with ack := 5 }.ack) ∧
    7 ≤ (peerAt (tamIn 4 fun x => { x with held := [heldOne], resends := 7 }) 0).resends ∧
    isSource (rset (tamIn 4 id) (pg .peer 0 + 0x200) 1) 0 = true ∧
    (let s := { tamIn 4 id with tb := 400000 }
     (peerAt s 0).tsLast.toNat + 400000 ≤ s.tb.toNat) ∧
    (let s := rset (tamIn 4 id) (pg .peer 0 + 0x300) 1
     rbit s (pg .peer 0 + 0x300) 0 = true ∧ gosPick s (smGet 0 s.gosNext 0) = none ∧
      (gosPick { s with gossip := [(9, { digest := 0, epoch := 0, hops := 0, stamp := 0 })] } 0).isSome = true) := by decide +kernel
theorem witness_TambourLinkResults_strokes :
    strokeOk 0x02 (initOf 1) = true ∧ strokeOk 0x02 (initOf 2) = true ∧ strokeOk 0xF1 alignOk = true ∧
    strokeOk 0x00 (blankOf 0x00 0) = true ∧ strokeOk 0x01 (blankOf 0x01 0) = true := by
  refine ⟨?_, ?_, ?_, ?_, ?_⟩ <;>
    (simp only [initOf, alignOk, blankOf]; unfold strokeOk; dsimp only; rw [crc_sealed]; decide +kernel)
/-- A port that is ACTIVE takes a stroke of which only its form is asked. -/
theorem sound_of_ok (typ : Nat) (k : Stroke) (h : strokeOk typ k = true) : soundStroke (tamIn 4 id) 0 typ k = true := by
  have h1 : linkState (tamIn 4 id) 0 = 4 := by decide +kernel
  have h2 : injArmed (tamIn 4 id) .peer 0 1 = false := by decide +kernel
  unfold soundStroke
  rw [h1, h2, h]
  rfl

/-- Of every sequenced type, a sound stroke with the SEQ awaited and one with another, and an ill-formed one. -/
theorem witness_SeqRow (typ : Nat) (h : typ ∈ [0x10, 0x11, 0x12, 0x20, 0x30, 0x40]) :
    strokeOk typ (blankOf typ 0) = true ∧ strokeOk typ (blankOf typ 1) = true := by
  simp only [List.mem_cons, List.not_mem_nil, or_false] at h
  rcases h with h | h | h | h | h | h <;> subst h <;>
    (refine ⟨?_, ?_⟩ <;> (simp only [blankOf]; unfold strokeOk; dsimp only; rw [crc_sealed]; decide +kernel))
theorem witness_SeqRow_seq : (peerAt (tamIn 4 id) 0).expect = 0 ∧ linkState (tamIn 4 id) 0 = 4 ∧
    injArmed (tamIn 4 id) .peer 0 1 = false ∧ (blankOf 0x10 1).seq ≠ 0 ∧
    strokeOk 0x10 { Stroke.blank with payload := [] } = false := by decide +kernel
def anchored : State := tamIn 4 fun x => { x with anchor := some (dataCap spadBase) }
def wholeBlock : Stroke := { Stroke.blank with wmask := 0xFFFF }
def exchange : Stroke := { Stroke.blank with payload := [1] ++ List.replicate 127 0 }
def waitingStroke (typ : Nat) : InStroke := { typ := typ, stroke := wholeBlock, stamp := 0, auth := none }
theorem witness_TambourMessageResults :
    (peerAt (tamIn 4 fun x => { x with inq := [waitingStroke 0x20] }) 0).inq = [waitingStroke 0x20] ∧
    ((peerAt (tamIn 4 id) 0).anchor = none ∧ (peerAt anchored 0).anchor = some (dataCap spadBase) ∧ wholeBlock.wmask = 0xFFFF ∧
      capCheck (dataCap spadBase) [rLoad] true false (spadBase + 0) 128 = none ∧
      (match peerAuth anchored 0 wholeBlock false with
        | .ok (c, x) => (match readLines 12 (BitVec.ofNat 4 (capColour c)) (msgLines wholeBlock x) noData anchored with
          | (some (.ok _), _) => true
          | _ => false)
        | .error _ => false) = true ∧
      (match peerAuth (tamIn 4 id) 0 wholeBlock true with
        | .ok _ => false
        | .error _ => true) = true) ∧
    (exchange.payload.headD 0 ≠ 0 ∧ Stroke.blank.payload.headD 0 = 0 ∧
      isSource (rset (tamIn 4 id) (pg .peer 0 + 0x200) 1) 0 = true ∧ isSource (tamIn 4 id) 0 = false) ∧
    (leAt (List.replicate 64 0 : List Byte) 42 1 = 0 ∧ leAt (List.replicate 64 1 : List Byte) 42 1 ≠ 0 ∧
      smFind State.reset.gossip 1 = none ∧ rbit State.reset (pg .peer 0 + 0x308) 63 = false) := by decide +kernel
/-- A neighbour's record of the device's own epoch with another digest. -/
theorem witness_TambourMessageResults_digest :
    let d : List Byte := leBytes 32 ((localDigest State.reset).toNat + 1) ++ leBytes 8 (localEpoch State.reset).toNat ++ [3, 0, 1, 0, 0, 0, 0, 0] ++
      List.replicate 16 0
    leAt d 42 1 ≠ 0 ∧ wd (leAt d 32 8) = localEpoch State.reset ∧ BitVec.ofNat 256 (leAt d 0 32) ≠ localDigest State.reset := by
  decide +kernel

def inDip (warn : Nat) : State := rset State.reset (pg .sup + 0x108) (wd (2 ^ 8 + warn))
/-- NADIR, RESET, and the rest of R398 to R404: every precondition at a state of its own. -/
theorem witness_PowerResults :
    (pageOn State.reset .tb 0 = true ∧ State.reset.power.alarmed = false ∧
      State.reset.tb < rget (rset State.reset (pg .tb + 0x108) 5) (pg .tb + 0x108) ∧
      rget (rset State.reset (pg .tb + 0x108) 0) (pg .tb + 0x108) ≤ State.reset.tb ∧
      rbit (rset State.reset (pg .pwr + 0x120) 0) (pg .pwr + 0x120) 0 = false) ∧
    (pageOn State.reset .pwr 0 = true ∧ inHold (inDip 1) = true ∧ rbit State.reset (pg .pwr + 0x108) 34 = false ∧
      inHold State.reset = false ∧ State.reset.power.queue = [] ∧ rbit State.reset (pg .pwr + 0x100) 3 = true ∧
      (∃ p ∈ State.reset.ctxs, p.1 / 256 = 3 - 3 ∧ p.2.run ≠ .empty) ∧
      rfld State.reset (pg .pwr + 0x108) 33 32 = rfld State.reset (pg .pwr + 0x100) 33 32) ∧
    (State.reset.power.halted = false ∧ State.reset.power.entry = false ∧
      (∀ p ∈ State.reset.ctxs, p.1 ≠ (0 : CtxId).toNat → p.2.run = .empty)) ∧
    (asleep.power.nadir = true ∧ rbit asleep (pg .pwr + 0x120) 1 = true ∧ rbit asleep (pg .pwr + 0x120) 2 = true ∧
      rbit (rset asleep (pg .pwr + 0x120) 1) (pg .pwr + 0x120) 0 = true ∧ rget (rset asleep (pg .tb + 0x108) 0) (pg .tb + 0x108) ≤ asleep.tb) ∧
    (rfld (inDip 0) (pg .sup + 0x108) 4 0 = 0 ∧ rfld (inDip 4) (pg .sup + 0x108) 4 0 ≠ 0 ∧ (inDip 0).power.dipRail < 16 ∧
      (inDip 0).power.dipDepth < 2 ^ 16) := by decide +kernel

/-- The device in start-up, before its memory field is on. -/
def starting (mem step : Nat) : State :=
  rset (rsetF (rset State.reset (pg .sys + 0x108) 0) (pg .pwr + 0x108) 33 32 mem) (pg .pwr + 0x128) (wd step)
theorem witness_StartUpResults :
    rbit State.reset (pg .lct + 0x118) 8 = false ∧
    (rfld (starting 1 6) (pg .sys + 0x108) 1 0 = 0 ∧ rfld (starting 1 6) (pg .pwr + 0x128) 15 8 = 0 ∧ (starting 1 6).power.nadir = false ∧
      (starting 1 6).power.halted = false ∧ rfld (starting 1 6) (pg .pwr + 0x108) 33 32 = 1 ∧ rfld (starting 1 6) (pg .pwr + 0x128) 7 0 < 8 ∧
      rfld (starting 0 6) (pg .pwr + 0x108) 33 32 ≠ 1) ∧
    (booting (starting 3 8) = true ∧ memOn (starting 3 8) = true ∧ rfld (starting 3 8) (pg .pwr + 0x128) 7 0 < 10 ∧
      (starting 3 8).life.state ≠ 4 ∧ (bootOrder (starting 3 8))[(starting 3 8).power.bootAt]? = some 0) ∧
    (imgMagic (norImage []).1 = false ∧ imgMagic (norImage [0x5A, 0x46, 0x57, 0x31]).1 = true ∧
      (imgCheck (starting 3 8) (norImage [0x5A, 0x46, 0x57, 0x31]).1 1 (norImage [0x5A, 0x46, 0x57, 0x31]).2).1 = 1) ∧
    (booting { starting 3 8 with life := { (starting 3 8).life with state := 4 } } = true) ∧
    (pageOn State.reset .keep 0 = true ∧ rbit State.reset (pg .keep + 0x108) 0 = false ∧ inHold State.reset = false ∧
      memOn State.reset = true ∧ rbit (rset State.reset (pg .keep + 0x108) 1) (pg .keep + 0x108) 0 = true) := by decide +kernel
/-- No calibration set is stored in memory that nothing wrote. -/
theorem witness_StartUpResults_untrained : calValid (starting 0 6) = false := by
  have h : (decide (calOrigin (starting 0 6) = 1) || decide (calOrigin (starting 0 6) = 2)) = false := by decide +kernel
  unfold calValid
  rw [h, Bool.and_false]

def hotAt (v : Nat) : State := rset State.reset (pg .orr + 0x300) (wd v)
def capAt (k avg : Nat) : State := rset (rset State.reset (pg .orr + 0x110) (wd k)) (pg .orr + 0x108) (wd (avg * 2 ^ 32))
def reqIn (v dec : Nat) : State :=
  rset (rset (rset (rset State.reset (pg .orr + 0x150) (wd (500 * 2 ^ 16))) (pg .orr + 0x800) (wd v)) (pg .orr + 0x160) (wd dec)) (pg .orr + 0x158) (wd (2 ^ 16))
theorem witness_OrreryResults :
    (domOn State.reset (sensorDom 0) = true ∧ injArmed State.reset .orr 0 (0x40 + 0) = false ∧ rbit State.reset (pg .orr + 0x300) 15 = false ∧
      rbit (hotAt 0x8000) (pg .orr + 0x300) 15 = true ∧ smGet 0 State.reset.orrery.good 0 < 15) ∧
    domOn (rset State.reset (pg .pwr + 0x108) 0) (sensorDom 0) = false ∧
    (∀ k ∈ [0, 11], capHot (capAt k 0xFFFF) = false ∧ 10 * capWatts (capAt k 0xFFFF) < rfld (capAt k 0xFFFF) (pg .orr + 0x108) 47 32 ∧
      rfld (capAt k 0xFFFF) (pg .orr + 0x110) 3 0 = k) ∧
    (let s := { capAt 12 0 with tb := 100000, orrery := { State.reset.orrery with capLow := some 0 } }
     rfld s (pg .orr + 0x108) 47 32 ≤ 10 * capWatts s ∧ heldMs s s.orrery.capLow = true ∧ capHot s = false ∧ rfld s (pg .orr + 0x110) 3 0 = 12) ∧
    heldMs State.reset State.reset.orrery.capLow = false ∧
    injArmed State.reset .orr 0 1 = false := by decide +kernel
theorem witness_OrreryResults_thermal :
    (420 ≤ thermalMax (hotAt 420)) ∧ (4 * (thermLimit (hotAt 410) : Int) < thermalMax (hotAt 410) ∧ thermalMax (hotAt 410) < 420) ∧
    (thermalMax (hotAt 379) < 4 * (thermLimit (hotAt 379) : Int) - 4 * (thermHyst (hotAt 379) : Int)) ∧
    (4 * (thermLimit (hotAt 380) : Int) - 4 * (thermHyst (hotAt 380) : Int) ≤ thermalMax (hotAt 380) ∧
      thermalMax (hotAt 400) ≤ 4 * (thermLimit (hotAt 400) : Int)) ∧ rfld State.reset (pg .orr + 0x110) 19 16 ≤ 12 := by decide +kernel
theorem witness_OrreryResults_planner :
    (rbit (reqIn (2 ^ 63 + 2 ^ 48) 0) (pg .orr + 0x158) 16 = true ∧ rbit (reqIn (2 ^ 63 + 2 ^ 48) 0) (pg .orr + 0x160) 63 = false ∧
      reqPick (reqIn (2 ^ 63 + 2 ^ 48) 0) = some 0 ∧ reqPick (reqIn 0 0) = none ∧ reqEligible (reqIn (2 ^ 63 + 2 ^ 48) 0) 0 = true) ∧
    (pageOn State.reset .orr 0 = true ∧ rbit (reqIn 0 (2 ^ 63)) (pg .orr + 0x160) 63 = true ∧
      fld 0 7 0 = rfld (reqIn 0 (2 ^ 63)) (pg .orr + 0x160) 55 48 ∧ fld 1 7 0 ≠ rfld (reqIn 0 (2 ^ 63)) (pg .orr + 0x160) 55 48) ∧
    (rbit (reqIn 0 0) (pg .orr + 0x800 + 16 * 0) 62 = false ∧ rbit (reqIn (2 ^ 62) 0) (pg .orr + 0x800 + 16 * 0) 62 = true) := by
  decide +kernel

def watched (v : Nat) (left : Nat) : State := { rset State.reset (pg .ras + 0x140) (wd v) with swdLeft := [(0, left)] }
def aLog : LogEnt := { tb := 0, cls := 2, typ := 0, code := 0, page := 0, eaddr := 0, einfo := 0, iraw := 0 }
theorem witness_RasResults :
    (pageOn State.reset .ras 0 = true ∧ rbit (watched (2 ^ 63) 0) (pg .ras + 0x140) 63 = true ∧
      rbit State.reset (pg .ras + 0x140) 63 = false ∧ smFind (watched (2 ^ 63) 0).swdLeft 0 = some 0 ∧
      rbit (watched (2 ^ 63) 0) (pg .ras + 0x140) 62 = false ∧ rbit (watched (2 ^ 63 + 2 ^ 62) 0) (pg .ras + 0x140) 62 = true) ∧
    (rbit (rset State.reset (pg .clk + 0x100) 1) (pg .clk + 0x100) 0 = true ∧ State.reset.power.nadir = false) ∧
    ({ State.reset with plogQ := [aLog] }.plogQ = [aLog] ∧ State.reset.plogQ.length < 15) ∧
    (let off := pg .gate + 0x040
     off % 0x1000 = 0x040 ∧ pageAt off = some (.gate, 0) ∧ pageOn State.reset .gate 0 = true ∧
      fld (wd (0x494A * 2 ^ 48 + 0x110)) 63 48 = 0x494A ∧ fld (wd (0x494A * 2 ^ 48 + 0x110)) 5 4 = 1 ∧
      fld (wd (0x494A * 2 ^ 48 + 0x110)) 15 8 = 1 ∧ pointDefined .gate 1 = true ∧ pointDefined .gate 2 = false ∧ fld 0 63 48 ≠ 0x494A) := by
  decide +kernel

theorem witness_RegisterPageResults :
    (∀ o ∈ [0x000, 0x008, 0x018, 0x020, 0x028, 0x048], pageAt (pg .gate + o) = some (.gate, 0) ∧ (pg .gate + o) % 0x1000 = o) ∧
    pageOn State.reset .gate 0 = true ∧ pageAt 0xFFFFF8 = none ∧
    (let s := rset (rset State.reset (pg .gate + 0x020) 1) (pg .gate + 0x028) 0x1005
     rbit s (pg .gate + 0x020) 0 = true ∧ rbit s (pg .gate + 0x028) 12 = true ∧ smGet [] s.bellQ (rfld s (pg .gate + 0x028) 8 0) = []) ∧
    (pageOn State.reset .car 0 = true ∧ State.reset.bellQ = []) ∧
    (pageOn State.reset .sys 0 = true ∧ rfld (rset State.reset (pg .sys + 0x108) 0) (pg .sys + 0x108) 1 0 ≠ 1 ∧ fld 1 1 0 = 1) := by
  decide +kernel

theorem witness_IntegerFrame : ∃ r, intRow (.add 0 true 1 2 3) = some r ∧ canIssue State.reset r.cx r.ins = true :=
  ⟨_, rfl, by decide +kernel⟩
theorem witness_IntegerRowsNotExecuted :
    (∃ r, intRow (.add 0 true 1 2 3) = some r ∧ atIssue State.reset r.cx r.ins.word = true ∧ r.ins.bad = false) ∧
    (∃ r, intRow (.add 0 true 1 2 3) = some r ∧
      operandWait (cpu (atCtx fun c => { c with loads := [dataLoad 2] }) r.cx) r.ins = some .load) ∧
    (∃ r, intRow (.add 0 true 1 2 3) = some r ∧
      (badRead (begun (atCtx fun c => { c with badPar := [2] }) r.cx) r.cx (cpu (atCtx fun c => { c with badPar := [2] }) r.cx) r.ins.reads).isSome = true) :=
  ⟨⟨_, rfl, by decide +kernel, by decide +kernel⟩, ⟨_, rfl, by decide +kernel⟩, ⟨_, rfl, by decide +kernel⟩⟩

theorem witness_FaultDelivery :
    (ctxAt State.reset 0).run ≠ .empty ∧
    (let s := served 0x100000 id Core.idle
     (ctxAt (setCtx s 2 { Ctx.empty with run := .ready }) 2).run ≠ .empty ∧ svcEff s 0 true true = some 0 ∧
      svcEff State.reset 0 true true = none) ∧
    smGet [] State.reset.bellQ (faultBell 0 true) = [] ∧ rbit State.reset (corePg 0 0x028) 12 = false ∧
    intRaw State.reset .core 0 0 = false := by decide +kernel

theorem witness_StepKeepsMemory : Memory.wf State.reset.mem = true ∧ step State.reset = .next (tick State.reset) := ⟨rfl, rfl⟩
theorem witness_StepRunsFrontCommand :
    State.reset.pending = [] ∧ State.reset.slew = 0 ∧ State.reset.tbFrac = 0 ∧ State.reset.power.nadir = false ∧
      State.reset.power.halted = false := by decide +kernel

/-- The device in start-up with a stored calibration set of zeros, ORIGIN 1 and its CRC. -/
def calSet : Mem := memPut (starting 0 6).mem (calBase + 65528) [1, 0, 0, 0]
def calCrc : BitVec 32 := crc32c (memBytes calSet calBase 65532)
def calibratedIn : State := { starting 0 6 with mem := memPut calSet (calBase + 65532) (leBytes 4 calCrc.toNat) }
theorem leNat_word (c : BitVec 32) : BitVec.ofNat 32 (leNat (leBytes 4 c.toNat)) = c := by
  apply BitVec.eq_of_toNat_eq
  have := c.isLt
  simp [leBytes, leNat]
  omega
theorem witness_StartUpResults_calibrated : calValid calibratedIn = true ∧
    rfld calibratedIn (pg .pwr + 0x108) 33 32 ≠ 1 := by
  refine ⟨?_, by decide +kernel⟩
  have keep : ∀ a n, a + n ≤ calBase + 65532 → memBytes calibratedIn.mem a n = memBytes calSet a n := by
    intro a n h
    refine Laws.memBytes_congr n a fun x _ h2 => ?_
    show memByte (memPut _ _ _) _ = _
    rw [Laws.memByte_put, if_neg (by omega)]
  have crc : memBytes calibratedIn.mem (calBase + 65532) 4 = leBytes 4 calCrc.toNat :=
    Laws.memBytes_put (leBytes 4 calCrc.toNat) calSet (calBase + 65532)
  have origin : calOrigin calibratedIn = 1 := by
    unfold calOrigin
    rw [keep _ _ (by omega)]
    decide +kernel
  unfold calValid
  rw [keep _ _ (by omega), crc, leNat_word, origin]
  simp [calCrc]

/-! ### Witnesses of single clauses -/

theorem test_wf_i3c : Instr.wf (.i3cReadKeep { cmd := 4, n := 4, addr := 0 }) = false ∧
    Instr.wf (.i3cReadKeep { cmd := 5, n := 4, addr := 0 }) = true := by decide

/-- Context 0 in the REPU sequence of its core, told to park or not. -/
def repuPark (u d : Bool) : State := atCtx fun c => { c with repAct := true, repCnt := 1, repU := u, parkDue := d }
theorem witness_IntegerFrame_release : (ctxAt (repuPark true true) 0).repU = true ∧
    ((ctxAt (repuPark false false) 0).repU = false ∧ (ctxAt (repuPark false false) 0).parkDue = false) ∧
    ((ctxAt (repuPark false true) 0).parkDue = true ∧ (ctxAt (repuPark false true) 0).run ≠ .empty) ∧
    (∃ r, intRow (.add 0 true 1 2 3) = some r ∧ atIssue (repuPark true false) r.cx r.ins.word = true) :=
  ⟨by decide +kernel, by decide +kernel, by decide +kernel, _, rfl, by decide +kernel⟩

theorem witness_StepRunsFrontCommand_quiet : asleep.pending = [] ∧ asleep.tbFrac < 256 ∧ smSorted 0 State.reset.cores = true ∧
    (∀ m, m < 4 → (medAt State.reset m).inq = []) ∧
    (∀ p, p < 2 → linkState State.reset p < 2 ∧ (peerAt State.reset p).inq = [] ∧ (peerAt State.reset p).txq = []) := by
  decide +kernel

theorem witness_AlertResults_waits : alerted.power.halted = false ∧ (ctxAt alerted 0).parkDue = false ∧
    flagsDue (ctxAt alerted 0) = false := by decide +kernel

/-- An illegal word of an FP opcode, at a context that holds the bank with no trap pending. -/
theorem witness_SchedulerAndFetchResults_illegal :
    wordOk 0xC00007FF = false ∧ (0xC00007FF : BitVec 32).extractLsb' 28 4 = 0x0C ∧ atIssue (fpHeld id) 0 0xC00007FF = true ∧
    (coreAt (fpHeld id) (coreOf 0)).holder = some (cxLow 0) ∧ fcsrTpend (coreAt (fpHeld id) (coreOf 0)).fpBank = 0 := by decide +kernel

/-- Contexts 0, the holder, with nothing outstanding, and 1 and 2 waiting for the FP bank. -/
def fpQueued : State := setCore (atCtx id) 0 { Core.idle with holder := some 0, want := [1, 2] }
theorem witness_FpMoveAndCompletionResults_swap : (coreAt fpQueued 0).want = [1, 2] ∧ (coreAt fpQueued 0).holder = some 0 ∧
    (ctxAt fpQueued (cxOn 0 0)).fp = [] ∧ (ctxAt fpQueued (cxOn 0 0)).loads = [] ∧
    isCompare fpAdd = false := by decide +kernel

theorem witness_ServiceCallResults_pending :
    ∀ k ∈ regKeys (cpu (served 0x10000000 id Core.idle) 0) [24, 25, 26, 27, 28, 29, 30, 31],
      k ∉ pendingKeys (cpu (served 0x10000000 id Core.idle) 0) := by decide +kernel

/-- Context 1 READY, in a REPU sequence, or with a store buffered to the scratchpad or to a window whose port holds it. -/
def target1 (f : Ctx → Ctx) : State := setCtx (two id) 1 (f { Ctx.empty with run := .ready })
theorem witness_ContextControlResults_target :
    (inRepu (ctxAt (target1 fun c => { c with repAct := true, repCnt := 1, repU := true }) 1) = true ∧
      inRepu (ctxAt (target1 id) 1) = false) ∧
    ((ctxAt (target1 id) 1).stores = [] ∧
      (ctxAt (drainAll (parkOp (begun (target1 id) 0) 1) 1) 1).stores = []) := by decide +kernel

theorem witness_GateSwapResults_old : oldDone (rsetF State.reset (pg .gate 5 + 0x108) 3 1 1) 5 = true ∧
    oldDone (target1 fun c => { c with stores := [{ pa := spadBase, data := [1], tag := false, cls := 3, colour := 0, cached := false
                                                    xl := none, old := true }] }) 5 = false := by
  decide +kernel

theorem witness_LifeCycleResults_wipe :
    let s := rset (rset State.reset (pg .lct + 0x118) 0x100) (pg .lct + 0x110) 2
    rbit s (pg .lct + 0x118) 8 = true ∧ rbit s (pg .lct + 0x110) 1 = true ∧ s.life.tam = false ∧
      { s with power := { s.power with tamper := true } }.power.tamper = true := by decide +kernel

theorem witness_HostPortResults_trained : trained 16 5 16 true = true ∧ trained 8 4 8 false = true := by decide +kernel

theorem witness_InboundResults_clauses :
    (smGet [] ({ barIn with bellQ := [(1536, [5])] } : State).bellQ 1536 = [5] ∧ barIn.power.halted = false ∧
      smGet [] barIn.bellQ 1536 = []) ∧
    (0 < 1 ∧ ¬(0 < rfld barIn (pg .host 0 + 0x400) 43 32) ∧ intRaw barIn .host 0 3 = false ∧ intRaw barIn .host 0 4 = false) ∧
    windowBell (rsetB (linked .med 0) (pg .med 0 + 0x190) 0 true) (pg .med 0 + 0x400) 0 = none ∧
    (let s := winIn (some (dataCap spadBase))
     (capCheck Cap.null [rLoad] true false (capCursor Cap.null + 0) 8).isSome = true ∧ iwinHit (winIn (some Cap.null)) 0 0 8 = true ∧
      capCheck (dataCap spadBase) [rLoad] true false (capCursor (dataCap spadBase) + 0) 8 = none ∧ (medAt s 0).inq = []) := by
  decide +kernel

theorem witness_OutboundResults_full :
    (let s := ioReads .host (List.replicate 768 { outRead 0 with src := noOne }) []
     768 ≤ (ioAt s .host 0).reads.length ∧ lets s (atWindow 0x10000000000 .read) = true ∧
      asked s (initKey 3 0 0) 0x10000000000 4 = false) ∧
    (let s := setPeer (linked .peer 0) 0 { peerAt (linked .peer 0) 0 with reads := List.replicate 128 (outRead 0) }
     128 ≤ (peerAt s 0).reads.length ∧ lets s (atWindow 0x40000000000 .read) = true ∧
      asked s (initKey 3 0 0) 0x40000000000 4 = false) ∧
    ((takeDone [{ aDone with pa := 0x40000000000 }] (initKey 3 0 0) 0x40000000000 4).isSome = true) ∧
    (keyCls (initKey 3 0 0) < 4 ∧ initKey 3 0 0 < noOne ∧ BitVec.ofNat 11 (keySrc (initKey 3 0 0)) = (0 : CtxId)) := by decide +kernel

theorem witness_ManagementResults_life : (lifeIn 4).life.state = 4 ∧ (lifeIn 0).life.state = 0 := by decide

/-- A rail below its warning level, and one above it. -/
theorem witness_PowerResults_clauses :
    (railLow State.reset 1 0xFFFF = true ∧ railLow State.reset 1 0 = false ∧ railLow (inDip 1) 1 0xFFFF = true) ∧
    (State.reset.power.settle = none ∧ ({ State.reset with power := { State.reset.power with settle := some 4 } } : State).power.settle = some 4) ∧
    (rbit (rsetB State.reset (pg .pwr + 0x108) 34 true) (pg .pwr + 0x108) 34 = true) ∧
    (let s : State := { State.reset with power := { State.reset.power with cur := some (5, 3) } }
     s.power.cur = some (5, 3) ∧ s.power.entry = false ∧ s.power.queue = [] ∧ s.life.tam = false) := by decide +kernel

theorem witness_StartUpResults_recal :
    let s := rset State.reset (pg .keep + 0x108) 1
    rbit s (pg .keep + 0x108) 0 = true ∧ inHold s = false ∧ s.power.halted = false ∧ ∀ m, m < 5 → trainOpen s m = false := by
  decide +kernel

theorem witness_OrreryResults_current : ((1 : BitVec 16).toNat * (1 : BitVec 16).toNat) % 1000 ≠ 0 := by decide

/-! ### Witnesses of the clauses added for the second review -/

/-- RETA at depth 0; with a repeat count but no repeat active; and with no capability in l7. -/
theorem witness_WindowCallResults_faults :
    let bad := atCtx fun c => writeReg (writeReg { c with cwp := 1, depth := 1 } 23 c.pcc) 22 (intCap (2 ^ 32))
    let gone := atCtx fun c => { c with cwp := 1, depth := 1 }
    let ins : Ins := { word := wReg 0x21 0 0 0 2, reads := [22, 23] }
    (canIssue State.reset 0 ins = true ∧ (cpu State.reset 0).depth = 0) ∧
    (canIssue bad 0 ins = true ∧ (cpu bad 0).depth ≠ 0 ∧ (readInt (cpu bad 0) 22).getLsbD 31 = false ∧
      (readInt (cpu bad 0) 22).extractLsb' 32 32 ≠ 0) ∧
    (canIssue gone 0 ins = true ∧ (cpu gone 0).depth ≠ 0 ∧ readInt (cpu gone 0) 22 = 0 ∧
      (targetCheck (readReg (cpu gone 0) 23)).isSome = true) := by decide +kernel

/-- The line of DRAM at address 0, granted to class 3, with this poison and error pattern. -/
def zeroLine (poison : Bool) : CLine :=
  { pa := 0, data := { bytes := List.replicate 64 7, tags := List.replicate 4 false, poison := List.replicate 4 poison }, err := []
    dirty := false, cls := 3, colour := 0, gr := true, gw := true, gx := true }
/-- Core 0 holds that line in its level-1 data cache, and its cluster too; context 0 has the stores given. -/
def lineIn (p : Bool) (es : List StoreEnt) : State :=
  let s := atCtx fun c => { c with stores := es }
  setCluster (setCore s 0 { coreAt s 0 with l1d := [zeroLine p] }) 0 { clusterAt s 0 with lines := [zeroLine p] }
/-- One part of the scratchpad or of DRAM, translated. -/
def onePiece (s : State) (x n : Nat) : Option (Piece × State) :=
  match xlateAcc (access s 0 1 0) needR x n s with
  | .ok ([p], t) => some (p, t)
  | _ => none
theorem witness_LoadResults_forward :
    (match onePiece (buffered { oneStore with data := [1, 2, 3, 4] }) 0x40 2 with
      | some (p, t) => decide ((ctxAt t 0).stores.filter (fun e => decide (e.pa < p.pa + p.n) && decide (p.pa < e.pa + e.data.length)) =
          [{ oneStore with data := [1, 2, 3, 4] }]) && decide (0x40 ≤ p.pa ∧ p.pa + p.n ≤ 0x44)
      | none => false) = true ∧
    (match onePiece (buffered oneStore) 0x40 8 with
      | some (p, _) => decide (¬p.pa + p.n ≤ 0x42)
      | none => false) = true := by decide +kernel
theorem witness_LoadResults_line : ∀ p : Bool,
    (match onePiece (lineIn p []) 8 8 with
      | some (q, t) => cacheable t 0 q.pa q.uc && decide (findLine (coreAt t 0).l1d (q.pa / 64 * 64) = some (zeroLine p)) &&
          granted (zeroLine p) (ctxClass (access (lineIn p []) 0 1 0).c) (BitVec.ofNat 4 (capColour (access (lineIn p []) 0 1 0).cap))
            { r := true, w := false, x := false } &&
          decide (q.pa % 64 + q.n ≤ 64) && ((grans q.pa q.n).any (fun g => (zeroLine p).data.poison.getD (g % 4) false) == p)
      | none => false) = true := by decide +kernel
/-- The granule of scratchpad that the load reads, poisoned or not. -/
def spadGran (p : Bool) : State :=
  { atReg 1 (spadCap 0) with mem := memWrite State.reset.mem spadBase (List.replicate 16 1) [false] [p] }
theorem witness_LoadResults_memory : ∀ p : Bool,
    (match onePiece (spadGran p) spadBase 8 with
      | some (q, t) => decide (0 < q.n) && !cacheable t 0 q.pa q.uc && decide (t.mem.err = []) && decide (targetOf q.pa = .spad 0) &&
          bankOn t 0 && gateDomainOn t 5 && decide (gateOf (targetOf q.pa) = 5) &&
          (judge t 5 q.pa (ctxClass (access (spadGran p) 0 1 0).c) { r := true, w := false, x := false }
            (BitVec.ofNat 4 (capColour (access (spadGran p) 0 1 0).cap)) (cxidWord 0 (access (spadGran p) 0 1 0).c).toNat).1 &&
          [1, 2, 3].all (fun k => !injArmed t .ras 0 k) && decide ((ctxAt t 0).stores = []) && (poisoned t q == p)
      | none => false) = true := by decide +kernel

theorem witness_StoreAndAtomicResults_line :
    let e : StoreEnt := { oneStore with pa := 4, cached := true }
    (ctxAt (lineIn false [e]) 0).stores = [e] ∧ (lineIn false [e]).power.halted = false ∧
    findLine (clusterAt (lineIn false [e]) 0).lines 0 = some (zeroLine false) ∧
    findLine (coreAt (lineIn false [e]) 0).l1d 0 = some (zeroLine false) ∧ (zeroLine false).data.bytes.length = 64 ∧
    4 % 64 + e.data.length ≤ 64 := by decide +kernel
/-- A misaligned atomic, one outside scratchpad, and one on a poisoned granule. -/
theorem witness_StoreAndAtomicResults_faults :
    (capCheck (readReg (cpu (atReg 5 (spadCap 4)) 0) 5) [rLoad, rStore] true false (spadBase + 4) 8 = none ∧ (spadBase + 4) % 8 ≠ 0) ∧
    (match xlateAcc (access (atReg 5 (dataCap 64)) 0 5 0) (needR + needW) 64 8 (begun (atReg 5 (dataCap 64)) 0) with
      | .ok ([p], _) => !isSpad p.pa
      | _ => false) = true ∧
    (let s := { atReg 5 (spadCap 0) with mem := memWrite State.reset.mem spadBase (List.replicate 16 1) [false] [true] }
     match xlateAcc (access s 0 5 0) (needR + needW) spadBase 8 (begun s 0) with
      | .ok ([p], s1) => isSpad p.pa && (match fabricTxn s1 p.pa 8 (.atomicAdd 1) 3 0 0x3000 3 with
        | (.ok r, s2) => (linkDeliver s2 0 p.pa r).1.poison.any id
        | _ => false)
      | _ => false) = true := by decide +kernel

theorem witness_SystemRegisterResults_read_only : 3 ≤ (3 : BitVec 11).toNat ∧
    atIssue State.reset 0 (wImm 0x1C 0 5 1 3) = true := by decide +kernel
theorem witness_SchedulerAndFetchResults_halted :
    { State.reset with power := { State.reset.power with halted := true } }.power.halted = true := by decide +kernel
/-- Contexts 0 and 1 wait for a walk of one page, the second of them to store. -/
def merged : State := setCtx (walking false) 1 { Ctx.empty with cust := true, run := .stalled, why := some .walk, walk := some { walkOf false with va := 0x1008, need := needW } }
theorem witness_SchedulerAndFetchResults_merged :
    walkMerged merged 0 (walkOf false) = [0, 1] ∧ (ctxAt merged 0).walk = some (walkOf false) ∧ (ctxAt merged 0).why = some .walk ∧
    (∀ p ∈ merged.ctxs, p.1 < 2048 ∧ ctxAt merged (BitVec.ofNat 11 p.1) = p.2) := by decide +kernel

/-- The issuer of CXEVICT and CXLOAD has a store buffered. -/
theorem witness_ContextImageResults_drain :
    (match imageArea 0 (wReg 0x1A 0 5 6 0) 5 6 evictable rStore needW (cpu (imageTwo 1 fun c => { c with stores := [oneStore] }) 0)
        (begun (imageTwo 1 fun c => { c with stores := [oneStore] }) 0) with
      | .ok (_, _, _, s1) => decide ((ctxAt s1 0).stores = [oneStore])
      | .error _ => false) = true ∧
    canIssue (imageTwo 1 fun c => { c with stores := [oneStore] }) 0 { word := wReg 0x1A 0 5 6 0, reads := [5, 6] } = true := by
  decide +kernel

/-- A trap pending in the bank that context 0 holds; context 1 holds it in the second state. -/
def fpTrap : State := setCore (atCtx id) 0 { Core.idle with holder := some 0, fpBank := { Core.idle.fpBank with fcsr := 0x10000, taddr := 4 } }
def fpAway : State := setCore (atCtx id) 0 { Core.idle with holder := some 1 }
theorem witness_FpMoveAndCompletionResults_pending :
    fpWord (.frcsr 0 9) = some (0, wReg 0x32 9 0 0 24) ∧
    (canIssue fpTrap 0 { word := wReg 0x32 9 0 0 24, fp := true } = true ∧ (coreAt fpTrap 0).holder = some 0 ∧
      (coreAt fpTrap 0).fpBank.fcsr.extractLsb' 16 5 ≠ 0 ∧ (ctxAt fpTrap 0).fp = []) ∧
    (canIssue fpAway 0 { word := wReg 0x32 9 0 0 24, fp := true } = true ∧ (coreAt fpAway 0).holder ≠ some 0 ∧
      (0 : BitVec 4) ∉ (coreAt fpAway 0).want) ∧
    (0 : BitVec 4) ∈ (coreAt (setCore fpAway 0 { coreAt fpAway 0 with want := [0] }) 0).want := by decide +kernel

/-- Operands of every kind: zeros, a subnormal, a normal number, an infinity and NaNs of both precisions. -/
theorem witness_FpOperationValues :
    (fpFin true 0x3FF0000000000000 = true ∧ 0 < fpUnits true 0x3FF0000000000000 ∧ fpFin true 0xBFF0000000000000 = true ∧
      fpUnits true 0xBFF0000000000000 < 0 ∧ fpUnits true 0 = 0 ∧ fpFin true 0 = true) ∧
    (fpIsInf true 0x7FF0000000000000 = true ∧ fpIsNan true 0x7FF0000000000000 = false ∧ fpFin true 0x7FF0000000000000 = false) ∧
    (fpIsNan true 0x7FF8000000000000 = true ∧ fpIsSnan true 0x7FF8000000000000 = false ∧ fpIsSnan true 0x7FF0000000000001 = true) ∧
    (fpIsNan false 0x7FC00000 = true ∧ fpIsInf false 0x7F800000 = true ∧ fpFin false 0x3F800000 = true) ∧
    (fpSubn true 1 = true ∧ fpUnits true 1 ≠ 0 ∧ (fpUnits true 1).natAbs < 2 ^ fracW true ∧
      2 ^ fracW true < (fpUnits true 0x3FF0000000000000).natAbs) := by decide +kernel

theorem witness_WholeCacheResults_line :
    let s := lineIn false []
    let d := setCluster s 0 { clusterAt s 0 with lines := [{ zeroLine false with dirty := true }] }
    findLine (clusterAt s 0).lines 0 = some (zeroLine false) ∧ (zeroLine false).dirty = false ∧ (zeroLine false).err = [] ∧
    (zeroLine false).data.bytes.length = 64 ∧ isDram 0 = true ∧ 0 % 64 = 0 ∧ memOn s = true ∧ s.mem.err = [] ∧
    findLine (clusterAt d 0).lines 0 = some { zeroLine false with dirty := true } ∧
    (pageOn maintBusy .clu 0 = true ∧ rbit maintBusy (pg .clu 0 + 0x108) 0 = true) := by decide +kernel

/-- A COMPARE with the value of CMPV; one whose source and destination hold a difference; and the poison of each side. -/
def compareIn (cmpv ps pd : Bool) (x : Byte) : State :=
  let d := if cmpv then descOf [(0, 8, 2 ^ 63 + 3 + 2 ^ 12), (0x50, 8, 64 + 2 ^ 32)] [(2, spadBase + 0x2000)] else movDesc 3
  let s := movIn .moving d
  let m := memWrite s.mem (spadBase + 0x1000) (List.replicate 64 0) (List.replicate 4 false) (List.replicate 4 ps)
  { s with mem := memWrite m (spadBase + 0x2000) (x :: List.replicate 63 0) (List.replicate 4 false) (List.replicate 4 pd) }
/-- The first poisoned granule of each side of the beat, and whether its data differ. -/
def compareMeets (s : State) : Option (Option Nat × Option Nat × Bool) :=
  let d := (movAt s 0).desc
  let m := beatLen d (movAt s 0).done
  if movBeat s 0 3 then
    match if mdCmpv d then (.ok [], s) else beatPieces s 0 false needR m with
    | (.ok sp, s1) => match beatPieces s1 0 true needR m with
      | (.ok dp, s2) => match beatRead s2 0 (sp ++ dp) with
        | (.ok rs, _) => some (firstPoison (rs.take sp.length), firstPoison (rs.drop sp.length),
            (rs.drop sp.length).flatMap (fun r => r.2.bytes) != List.replicate 64 0)
        | _ => none
      | _ => none
    | _ => none
  else none
theorem witness_MoverWorkResults_compare :
    mdCmpv (movAt (compareIn true false false 0) 0).desc = true ∧
    compareMeets (compareIn true false false 0) = some (none, none, false) ∧
    compareMeets (compareIn true false false 1) = some (none, none, true) ∧
    compareMeets (compareIn false false false 1) = some (none, none, true) ∧
    compareMeets (compareIn false true false 0) = some (some 0, none, false) ∧
    compareMeets (compareIn false false true 1) = some (none, some 0, true) ∧
    compareMeets (compareIn false true true 0) = some (some 0, some 0, false) := by decide +kernel

/-- A descriptor of the Cipher in ring 0, its slot number 5 named by a handle. -/
theorem witness_EngineRingResults_cipher :
    let s := ringIn .cph 1 .fetch (cphDesc 1 false).raw
    ringFetch s .cph 0 = true ∧ fetchTurn s .cph 0 = true ∧
    (match descFetch (ringReq s .cph 0) 5 (fetchSrc .cph 0) (ringAt s .cph 0).anchor
        (capCursor (ringAt s .cph 0).anchor + 128 * ringHead s .cph 0) (ringChosen s .cph 0 0) with
      | (.ok (_, d), t) => !d.poison.any id && bitAt (edWord d 0) 63 && decide (t.mem.err = []) && decide (handleWhy (edSlot d 1) = 0)
      | _ => false) = true := by decide +kernel

/-- RETM on a poisoned granule, with a link that is no capability, and its area outside what is translated; CALLM where the
gate refuses. -/
def poisonStack : State := { atReg 7 (dataCap (spadBase + 0x1000)) with
  mem := memWrite State.reset.mem (spadBase + 0x1000) (capBytes resetPcc) [true] [true] }
def badLink : State := inSpad (atReg 7 (dataCap (spadBase + 0x1000))) 0x1000 (capBytes (intCap 0)) [false]
/-- Context 0 translates, with no page tables. -/
def noTables (s : State) : State := setCtx s 0 { ctxAt s 0 with cust := false, mode := { asid := 0, xlat := true } }
def stackShut : State := { atReg 7 (dataCap (spadBase + 0x1000)) with regs := (rset (rset State.reset (rgnOff 5 0 0) (wd (spadBase + 12))) (rgnOff 5 0 0 + 8) 0).regs }
theorem witness_StackCallResults_faults :
    (match xlateParts (access poisonStack 0 7 (wWide 0x23 0 0)) needR false 0 (linesOf (spadBase + 0x1000) 16) (begun poisonStack 0) with
      | .ok (ps, s1) => (areaPieces ps (spadBase + 0x1000) 1).all (fun q => !cacheable s1 0 q.pa q.uc && decide (targetOf q.pa = .spad 0) &&
          (judge s1 5 q.pa 3 { r := true, w := false, x := false } 0 (cxidWord 0 (ctxAt poisonStack 0)).toNat).1) &&
          ((areaPieces ps (spadBase + 0x1000) 1).find? (poisoned s1)).isSome
      | _ => false) = true ∧
    (match xlateParts (access badLink 0 7 (wWide 0x23 0 0)) needR false 0 (linesOf (spadBase + 0x1000) 16) (begun badLink 0) with
      | .ok (ps, s1) => (match retLoads (access badLink 0 7 (wWide 0x23 0 0)) (areaPieces ps (spadBase + 0x1000) 1) s1 with
        | .ok (link :: _, _) => (targetCheck link).isSome
        | _ => false)
      | _ => false) = true := by decide +kernel
theorem witness_StackCallResults_refused :
    (let s := stackShut
     let w := wWide 0x22 2 0
     match xlateParts (access s 0 7 w) needW false 0 (linesOf (spadBase + 0x1000 - 16) 16) (begun s 0) with
      | .ok (ps, s1) => (match (areaPieces ps (spadBase + 0x1000 - 16) 1).zip [pccAt (cpu s 0) (pcOf (cpu s 0) + 4)] with
        | (p, v) :: [] => (match storeCheck (access s 0 7 w) p (.write (capBytes v) (if v.tag then [true] else []) []) s1 with
          | (some (.refused _), _) => true
          | _ => false)
        | _ => false)
      | _ => false) = true := by decide +kernel

theorem witness_LadderAndDigestResults_snap :
    let o := opOf 2 false
    islQueue (islIn 1 o) 1 = [o] ∧ opCode o = 2 ∧ o.snap = none ∧ o.wiped = false := by decide +kernel

/-- Point 1 of a PCIe port armed in MODE 1, its link up. -/
def armedIn (k : PageKind) : State := rset (linked k 0) (pg k 0 + 0x040) (wd 0x110)
theorem witness_HostPortResults_armed :
    (∀ k ∈ [PageKind.host, .med], linkUp (armedIn k) k 0 = true ∧ injArmed (armedIn k) k 0 1 = true ∧
      rfld (armedIn k) (pg k 0 + 0x040) 5 4 = 1 ∧ injArmed (linked k 0) k 0 1 = false) ∧
    receivedBy (.d3hotEntry 0) = some (.host, 0) ∧ receivedBy (.downstreamErrorMessage 0) = some (.med, 0) ∧
    receivedBy (.pcieCompletion (.med 0) 7 .sc []) = some (.med, 0) ∧ (ioAt (linked .med 0) .med 0).reads = [] := by decide +kernel

/-- A message of entry 0 is pending, its entry masked; MSI-X is on wherever its capability stands. -/
def pbaIn : State := setHost barIn 0 { hostAt barIn 0 with cfg := [(4, 0x80000006), (Config.msixCap, 0x80000006)], pba := [0] }
theorem witness_InboundResults_unmask :
    barsOpen pbaIn 0 = true ∧ (0 : Nat) ∈ (hostAt pbaIn 0).pba ∧ injArmed pbaIn .host 0 1 = false ∧ pbaIn.power.halted = false ∧
    ((0 : BitVec 128).getLsbD 96 = false) := by decide +kernel
theorem witness_InboundResults_unmask_on : msixOn pbaIn 0 = true ∧ msixMasked pbaIn 0 = false := by
  have h : cfgDword pbaIn 0 Config.msixCap = 0x80000006 := by
    have h1 : (hostAt pbaIn 0).cfg = [(4, 0x80000006), (Config.msixCap, 0x80000006)] := rfl
    unfold cfgDword
    rw [h1]
    by_cases h2 : Config.msixCap = 4 <;> simp [smFind, h2]
  refine ⟨?_, ?_⟩ <;> simp only [msixOn, msixMasked, h] <;> decide
/-- Every way in which the anchor of a media or peer port fails: poison, no tag, a seal, no rights, and a refused read. -/
def anchorIn (c : Cap) (poison : Bool) : State :=
  { State.reset with mem := memWrite State.reset.mem spadBase (capBytes c) [c.tag] [poison] }
def anchorRead (s : State) (k : PageKind) : Resp :=
  (memTxn (plainWrite s k 0 0x188 (rget s (pg k 0 + 0x188) ||| 1) 3) spadBase 16 .read (if k = .med then 8 else 12) 0 0 0).1
def anchorCap (r : Resp) : Option (Bool × Cap) := match r with
  | .ok d => some (d.poison.headD false, { bits := BitVec.ofNat 128 (leNat d.bytes), tag := d.tags.headD false })
  | _ => none
theorem witness_InboundResults_anchor : ∀ k ∈ [PageKind.med, .peer],
    rbit State.reset (pg k 0 + 0x188) 0 = false ∧ fld (rget State.reset (pg k 0 + 0x188)) 25 4 = 0 ∧
    (anchorCap (anchorRead (anchorIn (dataCap 0) true) k)).map (·.1) = some true ∧
    anchorCap (anchorRead (anchorIn (intCap 0) false) k) = some (false, intCap 0) ∧
    (anchorCap (anchorRead (anchorIn (mkCap 29 0 0x80000 0x07B 0 3 0) false) k)).map (fun x => decide (capOtype x.2 ≠ 0) && x.2.tag) = some true ∧
    anchorCap (anchorRead (anchorIn resetPcc false) k) = some (false, resetPcc) ∧
    (capHas resetPcc rLoad && capHas resetPcc rStore) = false ∧ resetPcc.tag = true ∧ capOtype resetPcc = 0 ∧
    (anchorCap (anchorRead gateShut k)).isNone = true := by decide +kernel

theorem witness_OutboundResults_timeout :
    timeoutOff (ioReads .med [outRead 0] []) .med 0 = false ∧
    (let s := atCtx fun c => { c with run := .stalled, why := some .port }
     (ctxAt s 0).run = .stalled ∧ (ctxAt s 0).why = some .port ∧ keyCls (initKey 3 0 0) < 4 ∧ initKey 3 0 0 < noOne ∧
      BitVec.ofNat 11 (keySrc (initKey 3 0 0)) = 0 ∧ (ctxAt s 0).queue = []) := by decide +kernel

theorem witness_ManagementResults_jtag :
    (lifeIn 3).life.state = 3 ∧ (5 : Nat) % 8 ≠ 0 ∧ (0x400000 : Nat) % 8 = 0 ∧
    (∀ w : Bool, (match fabricTxn { lifeIn 3 with mgmt := { (lifeIn 3).mgmt with ir := 0x10 } } (keepBase + 8) 8
        (if w then .write (leBytes 8 5) [] [] else .read) 15 0 0 0 with
      | (.ok _, _) => true
      | _ => false) = true) ∧
    (match fabricTxn { lifeIn 0 with mgmt := { (lifeIn 0).mgmt with ir := 0x10 } } (regBase + 0xFFF000) 8 .read 15 0 0 0 with
      | (.ok _, _) => false
      | _ => true) = true := by
  decide +kernel
/-- Completion Timeout Disable set, wherever the capability stands. -/
def noTimeout : State := setHost State.reset 0 { hostAt State.reset 0 with cfg := [(Config.pcieCap + 0x28, 0x10)] }
theorem witness_OutboundResults_no_timeout : timeoutOff noTimeout .host 0 = true := by
  have h : cfgDword noTimeout 0 (Config.pcieCap + 0x28) = 0x10 := by
    have h1 : (hostAt noTimeout 0).cfg = [(Config.pcieCap + 0x28, 0x10)] := rfl
    unfold cfgDword
    rw [h1]
    simp [smFind]
  unfold timeoutOff
  rw [h]
  decide

theorem witness_TambourLinkResults_again :
    (peerAt (tamIn 4 id) 0).again = none ∧ (peerAt (tamIn 4 fun x => { x with again := some (0, 0, 1) }) 0).again = some (0, 0, 1) ∧
    (tamIn 4 id).tb = 0 := by decide +kernel
theorem witness_TambourMessageResults_grace :
    let d (e : Nat) : List Byte := List.replicate 32 0 ++ leBytes 8 e ++ [3, 0, 1, 0, 0, 0, 0, 0] ++ List.replicate 16 0
    let late (n : Nat) : State := rset (tamIn 4 id) (pg .peer 0 + 0x300) (wd (n * 256))
    wd (leAt (d ((localEpoch State.reset).toNat + 1)) 32 8) ≠ localEpoch State.reset ∧ leAt (d 1) 42 1 ≠ 0 ∧
    wd (leAt (d (localEpoch State.reset).toNat) 32 8) = localEpoch State.reset ∧
    Nat.max 1 (rfld (late 0) (pg .peer 0 + 0x300) 15 8) ≤ (peerAt (late 0) 0).grace + 1 ∧
    ¬Nat.max 1 (rfld (late 4) (pg .peer 0 + 0x300) 15 8) ≤ (peerAt (late 4) 0).grace + 1 := by decide +kernel
/-- An exchange whose offset is 0, from a time lock that is nearly reached, and one with a large offset. -/
def lockNear : State := rset (tamIn 4 fun x => { x with tsGood := 7 }) (pg .peer 0 + 0x200) 1
theorem witness_TambourMessageResults_lock :
    isSource lockNear 0 = true ∧ 7 ≤ (peerAt lockNear 0).tsGood ∧ exchange.payload.headD 0 ≠ 0 ∧
    rbit lockNear (pg .peer 0 + 0x208) 0 = false ∧
    (let ts (k : List Byte) (n : Nat) : Word := wd (leAt k (8 * n) 8)
     let th (k : List Byte) (stamp : Word) : Int := ((ts k 2 - ts k 1) - (stamp - ts k 3)).toInt.tdiv 2
     (th exchange.payload 0).natAbs ≤ 64 ∧
      2560 < (th ([1] ++ List.replicate 15 0 ++ leBytes 8 100000 ++ List.replicate 104 0) 0).natAbs) := by decide +kernel

/-- Cluster 2 off, a link domain off, and D2 on again from off. -/
theorem witness_PowerResults_accepted :
    (let s := State.reset
     let v := rget s (pg .pwr + 0x100) ^^^ (1 <<< 5)
     rbit s (pg .pwr + 0x108) 34 = false ∧ inHold s = false ∧ s.power.queue = [] ∧ domOn s 5 = !v.getLsbD 5 ∧
      (∀ p ∈ s.ctxs, p.1 / 256 = 5 - 3 → p.2.run = .empty) ∧ rfld s (pg .pwr + 0x108) 33 32 = rfld s (pg .pwr + 0x100) 33 32) ∧
    (let s := rsetB (rset State.reset (pg .pwr + 0x100) (rget State.reset (pg .pwr + 0x100) ^^^ (1 <<< 2))) (pg .pwr + 0x108) 2 false
     let v := rget s (pg .pwr + 0x100) ^^^ (1 <<< 2)
     v.getLsbD 2 = true ∧ domOn s 2 = !v.getLsbD 2 ∧ rfld s (pg .pwr + 0x108) 33 32 = rfld s (pg .pwr + 0x100) 33 32) := by
  decide +kernel
/-- Entry to NADIR: nothing open, and a read that a port has not answered. -/
def entering (f : Ctx → Ctx) : State :=
  let s := atCtx f
  { s with power := { s.power with cur := some (1, 1), entry := true } }
theorem witness_PowerResults_entry :
    ((entering id).power.cur = some (1, 1) ∧ (entering id).power.entry = true ∧ accessOpen (settleAll (entering id)) = false ∧
      (settleAll (entering id)).power.wake = false ∧ (settleAll (entering id)).life.tam = false ∧
      rbit (settleAll (entering id)) (pg .lct + 0x118) 8 = false) ∧
    accessOpen (settleAll (entering fun c => { c with run := .stalled, why := some .port })) = true := by decide +kernel
theorem witness_PowerResults_levels :
    railReset State.reset 1 120 = true ∧ (railReset State.reset 1 70 = false ∧ railLow State.reset 1 70 = true) ∧
    (railReset State.reset 1 64 = false ∧ railLow State.reset 1 64 = false) ∧
    (railReset (inDip 1) 1 70 = false ∧ railLow (inDip 1) 1 70 = true ∧ inHold (inDip 1) = true) ∧
    railReset State.reset 0 113 = true ∧ railReset State.reset 0 70 = false ∧ railLow State.reset 0 70 = true := by decide +kernel
theorem witness_PowerResults_recovery :
    let s (warn : Nat) := rset (starting 0 3) (pg .sup + 0x108) (wd warn)
    let left (s : State) := [0, 1, 3, 4].any fun n => decide (n ≠ 1) && rbit s (pg .sup + 0x108) n
    startWaits (s 2) = true ∧ left (s 2) = false ∧ left (s 3) = true ∧ startWaits State.reset = false := by decide +kernel
theorem witness_PowerResults_settle :
    let s (v : Nat) : State := rset { State.reset with
      power := { State.reset.power with settle := some 4 }, orrery := { State.reset.orrery with avsTab := [] } } (pg .orr + 0x120) (wd v)
    ((s 700).power.settle = some 4 ∧ avsBase (s 700) 4 ≤ rfld (s 700) (pg .orr + 0x120) 9 0 ∧
      rfld (s 500) (pg .orr + 0x120) 9 0 < avsBase (s 500) 4) := by decide +kernel

theorem witness_StartUpResults_waits :
    let s := rset State.reset (pg .sup + 0x108) 2
    [0, 1, 3, 4].any (rbit s (pg .sup + 0x108)) = true ∧ rbit s (pg .lct + 0x118) 8 = false ∧
    (List.replicate 5 (0 : BitVec 8)).length = 5 ∧ rfld (starting 0 6) (pg .pwr + 0x128) 7 0 ≠ 3 := by decide +kernel

theorem witness_OrreryResults_cap :
    (let s := { capAt 12 4 with tb := 100000, orrery := { State.reset.orrery with capLow := some 0 } }
     2 * rfld s (pg .orr + 0x108) 47 32 < 19 * capWatts s) ∧
    (let s := capAt 4 0
     rfld s (pg .orr + 0x108) 47 32 ≤ 10 * capWatts s ∧ heldMs s s.orrery.capLow = false ∧ capHot s = false) ∧
    11 * capWatts State.reset < 0xFFFF := by decide +kernel

theorem witness_RegisterPageResults_block :
    let lock (s : State) : Prop := rbit s (pg .gate + 8) 0 = true
    (∀ o ∈ [0x200, 0x208], ownWrite .gate o = false ∧ pageAt (pg .gate + o) = some (.gate, 0)) ∧
    ownWrite .gate 0x100 = true ∧ ¬lock State.reset ∧ lock (rset State.reset (pg .gate + 8) 1) ∧
    (maskOf (fieldsAt (pg .gate + 0x200)) fun f => decide (f.acc = .rwa)) ≠ 0 ∧
    (maskOf (fieldsAt (pg .gate + 0x200)) fun f => decide (f.cls = .c)) ≠ 0 := by
  refine ⟨by decide +kernel, by decide +kernel, ?_, ?_, by decide +kernel, by decide +kernel⟩ <;> decide +kernel
/-- A set interrupt bit, its enable off with its bell on, and its bell off. -/
theorem witness_RegisterPageResults_rings :
    let off := pg .gate
    let s (en bell : Nat) := rset (rset (rset State.reset (off + 0x018) 1) (off + 0x020) (wd en)) (off + 0x028) (wd bell)
    (maskOf (fieldsAt (off + 0x020)) fun f => decide (f.acc = .rw)).getLsbD 0 = true ∧
    ((rget (s 0 0x1005) (off + 0x018)).getLsbD 0 = true ∧ (rget (s 0 0x1005) (off + 0x020)).getLsbD 0 = false ∧
      (rget (s 0 0x1005) (off + 0x028)).getLsbD 12 = true) ∧
    (rget (s 1 5) (off + 0x018) &&& rget (s 1 5) (off + 0x020) ≠ 0 ∧ (rget (s 1 5) (off + 0x028)).getLsbD 12 = false ∧
      fld (rget (s 1 0x1005) (off + 0x028)) 8 0 ≠ fld 0x1006 8 0) := by decide +kernel

theorem witness_StepRunsFrontCommand_stopped :
    ({ asleep with power := { asleep.power with refStop := true } } : State).power.refStop = true ∧ asleep.power.refStop = false := by
  decide +kernel

end Sys2Proof.Tests
end

namespace Sys2Proof.Integer
/-! SUPPORT. The integer group (chapter 4, R70 to R80): the values that the model computes are those that R74 to R80 write,
each row issues as its group does, and the obligations on the group are settled. -/
open Sys2Proof Sys2Proof.Machine Sys2Proof.Laws

/-! ### Sums (R75) -/

theorem addRes_eq (x y : Word) (cin : Bool) : addRes x y cin = x + y + (if cin then 1 else 0) := by
  apply BitVec.eq_of_toNat_eq
  cases cin <;> simp [addRes, b2n, BitVec.toNat_add]

/-- The sum with the complement of `y` is a difference with a borrow. -/
theorem addRes_not (x y : Word) (cin : Bool) : addRes x (~~~y) cin = x - y - (if cin then 0 else 1) := by
  rw [addRes_eq, BitVec.not_eq_neg_add y]
  cases cin <;> simp <;> ring

theorem addRes_false (x y : Word) : addRes x y false = x + y := (addRes_eq x y false).trans (add_zero _)

theorem addRes_not_true (x y : Word) : addRes x (~~~y) true = x - y := (addRes_not x y true).trans (sub_zero _)

/-- The sum of R75 on 65 bits is the model's sum of numbers. -/
theorem sum65_eq (x y : Word) (cin : Bool) : sum65 x y cin = (addRes x y cin, addFlags x y cin) := by
  have hs : (x.zeroExtend 65 + y.zeroExtend 65 + (if cin then 1 else 0) : BitVec 65).toNat = x.toNat + y.toNat + b2n cin := by
    cases cin <;> simp [b2n, BitVec.toNat_add] <;> omega
  have hr : (x.zeroExtend 65 + y.zeroExtend 65 + (if cin then 1 else 0) : BitVec 65).truncate 64 = addRes x y cin := by
    apply BitVec.eq_of_toNat_eq
    rw [BitVec.truncate_eq_setWidth, BitVec.toNat_setWidth, hs, addRes, BitVec.toNat_ofNat]
  have hc : (x.zeroExtend 65 + y.zeroExtend 65 + (if cin then 1 else 0) : BitVec 65).getMsbD 0 =
      decide (2 ^ 64 ≤ x.toNat + y.toNat + b2n cin) := by
    rw [← hs]; exact BitVec.msb_eq_decide _
  simp only [sum65, hr, hc]
  rfl

/-- A result of the ALU and its flags, as the statements pair them. -/
def aluPair (r : Alu) : Word × Flags := (r.res, r.flags)

theorem aluPair_aluAdd {x y r : Word} {cin : Bool} (h : addRes x y cin = r) :
    aluPair (aluAdd x y cin) = (r, (sum65 x y cin).2) := by
  rw [sum65_eq, ← h]; rfl

theorem aluPair_aluNz (f : Flags) (r : Word) : aluPair (aluNz f r) = nz f r := rfl

/-! ### Shifts, rotates and comparisons (R74, R76) -/

theorem and63_toNat (y : Word) : (y &&& 63).toNat = y.toNat % 64 := Nat.and_two_pow_sub_one_eq_mod y.toNat 6

theorem shiftLeft_mod64 (x y : Word) : x <<< (y.toNat % 64) = x <<< (y &&& 63) := by
  rw [BitVec.shiftLeft_eq', and63_toNat]

theorem shiftRight_mod64 (x y : Word) : x >>> (y.toNat % 64) = x >>> (y &&& 63) := by
  rw [BitVec.ushiftRight_eq', and63_toNat]

theorem sshiftRight_mod64 (x y : Word) : x.sshiftRight (y.toNat % 64) = x.sshiftRight' (y &&& 63) := by
  rw [BitVec.sshiftRight_eq', and63_toNat]

theorem shiftLeft_mod64_of_lt (x : Word) {y : Word} (h : y.toNat < 64) : x <<< (y.toNat % 64) = x <<< y := by
  rw [Nat.mod_eq_of_lt h, BitVec.shiftLeft_eq']

theorem shiftRight_mod64_of_lt (x : Word) {y : Word} (h : y.toNat < 64) : x >>> (y.toNat % 64) = x >>> y := by
  rw [Nat.mod_eq_of_lt h, BitVec.ushiftRight_eq']

theorem sshiftRight_mod64_of_lt (x : Word) {y : Word} (h : y.toNat < 64) :
    x.sshiftRight (y.toNat % 64) = x.sshiftRight' y := by
  rw [Nat.mod_eq_of_lt h, BitVec.sshiftRight_eq']

theorem rorW_mod64_of_lt (x : Word) {y : Word} (h : y.toNat < 64) : rorW x (y.toNat % 64) = x.rotateRight y.toNat := by
  rw [Nat.mod_eq_of_lt h, rorW]

/-- A rotate by 0 shifts left by 64, which R74 writes as 0 again. -/
theorem rorW_mod64 (x y : Word) :
    rorW x (y.toNat % 64) = (x >>> (y &&& 63)) ||| (x <<< ((64 - (y &&& 63)) &&& 63)) := by
  have hn : ((64 - (y &&& 63)) &&& 63 : Word).toNat = (64 - y.toNat % 64) % 64 := by
    rw [and63_toNat, BitVec.toNat_sub, and63_toNat, show (64 : Word).toNat = 64 from rfl]
    omega
  rw [rorW, BitVec.rotateRight_def, ← shiftRight_mod64, BitVec.shiftLeft_eq' (y := (64 - (y &&& 63)) &&& 63), hn, Nat.mod_mod]
  by_cases h : y.toNat % 64 = 0
  · simp [h]
  · rw [Nat.mod_eq_of_lt (by omega : 64 - y.toNat % 64 < 64)]

theorem ite_slt {α : Type} (x y : Word) (a b : α) : (if x.slt y then a else b) = if x.toInt < y.toInt then a else b := by
  simp [BitVec.slt]

theorem ite_lt {α : Type} (x y : Word) (a b : α) : (if x < y then a else b) = if x.toNat < y.toNat then a else b := rfl

theorem boolW_lt (x y : Word) : boolW (decide (x < y)) = if x.toNat < y.toNat then 1 else 0 := by
  simp [boolW, BitVec.lt_def]

/-! ### Counts of bits (R74) -/

theorem popcount_eq_filter (n v : Nat) : popcount n v = ((List.range n).filter v.testBit).length := by
  induction n generalizing v with
  | zero => rfl
  | succ n ih =>
    have hs : v.testBit ∘ Nat.succ = (v / 2).testBit := funext fun i => Nat.testBit_succ v i
    rw [popcount, ih, List.range_succ_eq_map, List.filter_cons, List.filter_map, hs, Nat.testBit_zero]
    rcases Nat.mod_two_eq_zero_or_one v with h | h <;> simp [h, Nat.add_comm]

theorem ctzN_eq_takeWhile (n v : Nat) : ctzN n v = ((List.range n).takeWhile fun i => !v.testBit i).length := by
  induction n generalizing v with
  | zero => rfl
  | succ n ih =>
    have hs : (fun i => !v.testBit i) ∘ Nat.succ = fun i => !(v / 2).testBit i :=
      funext fun i => congrArg _ (Nat.testBit_succ v i)
    rw [ctzN, ih, List.range_succ_eq_map, List.takeWhile_cons, List.takeWhile_map, hs, Nat.testBit_zero]
    rcases Nat.mod_two_eq_zero_or_one v with h | h <;> simp [h, Nat.add_comm]

theorem bitLen_le_iff (v n : Nat) : bitLen v ≤ n ↔ v < 2 ^ n := by
  unfold bitLen
  split
  next h => simp [h]
  next h => rw [Nat.add_one_le_iff, Nat.log2_lt h]

theorem sub_bitLen_eq_takeWhile (n v : Nat) (hv : v < 2 ^ n) :
    n - bitLen v = ((List.range n).takeWhile fun i => !(decide (i < n) && v.testBit (n - 1 - i))).length := by
  induction n with
  | zero => exact Nat.zero_sub _
  | succ n ih =>
    have hs : (fun i => !(decide (i < n + 1) && v.testBit (n - i))) ∘ Nat.succ =
        fun i => !(decide (i < n) && v.testBit (n - 1 - i)) := by
      funext i
      simp [Nat.sub_sub, Nat.add_comm]
    rw [List.range_succ_eq_map, List.takeWhile_cons, List.takeWhile_map, Nat.add_sub_cancel, hs, Nat.sub_zero]
    by_cases h : v < 2 ^ n
    · have hl := (bitLen_le_iff v n).2 h
      rw [Nat.testBit_lt_two_pow h, Bool.and_false, Bool.not_false, if_pos rfl, List.length_cons, List.length_map, ← ih h]
      omega
    · have hl := mt (bitLen_le_iff v n).1 h
      have ht : v.testBit n = true := Nat.testBit_of_two_pow_le_and_two_pow_add_one_gt (by omega) hv
      simpa [ht, Nat.sub_eq_zero_iff_le] using hl

theorem clzW_eq (x : Word) : clzW x = ((List.range 64).takeWhile fun i => !x.getMsbD i).length :=
  sub_bitLen_eq_takeWhile 64 x.toNat x.isLt

/-! ### Bytes, extensions and appended fields (R74, R77) -/

theorem toNat_append_eq_add {m n : Nat} (x : BitVec m) (y : BitVec n) : (x ++ y).toNat = x.toNat * 2 ^ n + y.toNat := by
  rw [BitVec.toNat_append, ← Nat.shiftLeft_add_eq_or_of_lt y.isLt, Nat.shiftLeft_eq]

theorem leBytes_toNat (x : Word) : leBytes 8 x.toNat = (List.range 8).map fun i => x.extractLsb' (8 * i) 8 := by
  simp [leBytes, BitVec.extractLsb', Nat.shiftRight_eq_div_pow, Nat.div_div_eq_div_mul, List.range_succ_eq_map]

theorem ofNat_leNat_bytes (a b c d e f g h : Byte) :
    wd (leNat [h, g, f, e, d, c, b, a]) = a ++ b ++ c ++ d ++ e ++ f ++ g ++ h := by
  apply BitVec.eq_of_toNat_eq
  simp only [toNat_append_eq_add, leNat, BitVec.toNat_ofNat]
  omega

theorem bswapW_eq (x : Word) : bswapW x =
    x.extractLsb' 0 8 ++ x.extractLsb' 8 8 ++ x.extractLsb' 16 8 ++ x.extractLsb' 24 8 ++
      x.extractLsb' 32 8 ++ x.extractLsb' 40 8 ++ x.extractLsb' 48 8 ++ x.extractLsb' 56 8 := by
  rw [bswapW, leBytes_toNat]
  exact ofNat_leNat_bytes _ _ _ _ _ _ _ _

theorem wd_wrapInt (z : Int) : wd (wrapInt 64 z) = BitVec.ofInt 64 z := by
  apply BitVec.eq_of_toNat_eq
  rw [BitVec.toNat_ofNat, BitVec.toNat_ofInt, wrapInt]
  omega

theorem signed_eq_toInt {w : Nat} (hw : 0 < w) (x : Word) : signed w x.toNat = (x.truncate w).toInt := by
  obtain ⟨n, rfl⟩ : ∃ n, w = n + 1 := ⟨w - 1, by omega⟩
  simp only [signed, BitVec.toInt_eq_toNat_cond, BitVec.truncate_eq_setWidth, BitVec.toNat_setWidth, Nat.add_sub_cancel,
    Nat.pow_succ]
  split_ifs <;> omega

theorem sextW_eq {w : Nat} (hw : 0 < w) (x : Word) : sextW w x = (x.truncate w).signExtend 64 := by
  rw [sextW, wd_wrapInt, signed_eq_toInt hw, BitVec.signExtend]

theorem and_mask_eq_zeroExtend {n : Nat} (hn : n ≤ 64) (x : Word) : x &&& wd (2 ^ n - 1) = (x.truncate n).zeroExtend 64 := by
  have hp : 2 ^ n ≤ 2 ^ 64 := Nat.pow_le_pow_right (by decide) hn
  have hm : (wd (2 ^ n - 1)).toNat = 2 ^ n - 1 := Nat.mod_eq_of_lt (by omega)
  apply BitVec.eq_of_toNat_eq
  rw [BitVec.toNat_and, hm, Nat.and_two_pow_sub_one_eq_mod, BitVec.truncate_eq_setWidth, BitVec.toNat_setWidth,
    BitVec.toNat_setWidth, Nat.mod_eq_of_lt (b := 2 ^ 64)]
  exact lt_of_le_of_lt (Nat.mod_le _ _) x.isLt

theorem toNat_shiftLeft_or {n : Nat} (x y : Word) (hy : y.toNat < 2 ^ n) :
    (x <<< n ||| y).toNat = (x.toNat * 2 ^ n + y.toNat) % 2 ^ 64 := by
  calc (x <<< n ||| y).toNat = (x.toNat <<< n) % 2 ^ 64 ||| y.toNat % 2 ^ 64 := by
        rw [BitVec.toNat_or, BitVec.toNat_shiftLeft, Nat.mod_eq_of_lt y.isLt]
    _ = (x.toNat <<< n ||| y.toNat) % 2 ^ 64 := Nat.or_mod_two_pow.symm
    _ = (x.toNat * 2 ^ n + y.toNat) % 2 ^ 64 := by rw [← Nat.shiftLeft_add_eq_or_of_lt hy, Nat.shiftLeft_eq]

theorem shiftLeft_or_eq_append (x : Word) (imm : BitVec 21) :
    x <<< 21 ||| imm.zeroExtend 64 = (x.truncate 43 ++ imm : BitVec 64) := by
  have hi : (imm.zeroExtend 64).toNat = imm.toNat := BitVec.toNat_setWidth_of_le (by decide)
  apply BitVec.eq_of_toNat_eq
  rw [toNat_shiftLeft_or _ _ (hi ▸ imm.isLt), toNat_append_eq_add, hi, BitVec.truncate_eq_setWidth, BitVec.toNat_setWidth]
  omega

/-! ### Products and quotients (R78, R79) -/

theorem mulHiU_eq (x y : Word) : mulHiU x y = ((x.zeroExtend 128 * y.zeroExtend 128) >>> 64).truncate 64 := by
  have hx : x.toNat < 2 ^ 128 := by omega
  have hy : y.toNat < 2 ^ 128 := by omega
  have hp : x.toNat * y.toNat < 2 ^ 128 := (Nat.mul_lt_mul'' x.isLt y.isLt).trans_eq (by norm_num)
  apply BitVec.eq_of_toNat_eq
  simp only [mulHiU, BitVec.toNat_ofNat, BitVec.truncate_eq_setWidth, BitVec.toNat_setWidth, BitVec.toNat_ushiftRight,
    BitVec.toNat_mul, Nat.shiftRight_eq_div_pow, Nat.mod_eq_of_lt hx, Nat.mod_eq_of_lt hy, Nat.mod_eq_of_lt hp]

theorem mulHiS_eq (x y : Word) : mulHiS x y = ((x.signExtend 128 * y.signExtend 128) >>> 64).truncate 64 := by
  rw [mulHiS, wd_wrapInt, BitVec.signExtend, BitVec.signExtend, ← BitVec.ofInt_mul]
  apply BitVec.eq_of_toNat_eq
  simp only [BitVec.truncate_eq_setWidth, BitVec.toNat_setWidth, BitVec.toNat_ushiftRight, BitVec.toNat_ofInt,
    Nat.shiftRight_eq_div_pow]
  omega

theorem udiv_eq_ofNat (x y : Word) : x / y = wd (x.toNat / y.toNat) := by
  rw [← BitVec.toNat_udiv, wd, BitVec.ofNat_toNat, BitVec.setWidth_eq]

theorem umod_eq_ofNat (x y : Word) : x % y = wd (x.toNat % y.toNat) := by
  rw [← BitVec.toNat_umod, wd, BitVec.ofNat_toNat, BitVec.setWidth_eq]

theorem sdiv_eq_ofInt (x y : Word) : x.sdiv y = BitVec.ofInt 64 (x.toInt.tdiv y.toInt) :=
  BitVec.eq_of_toInt_eq (by rw [BitVec.toInt_sdiv, BitVec.toInt_ofInt])

theorem srem_eq_ofInt (x y : Word) : x.srem y = BitVec.ofInt 64 (x.toInt.tmod y.toInt) := by
  rw [← BitVec.toInt_srem, BitVec.ofInt_toInt]

theorem divOverflows_iff (x y : Word) :
    divOverflows x y = true ↔ x = 0x8000000000000000 ∧ y = 0xFFFFFFFFFFFFFFFF := by
  simp only [divOverflows, Bool.and_eq_true, decide_eq_true_eq]; rfl

theorem divU_eq (c : Ctx) (x y : Word) : divU c.dze x y =
    if y = 0 then (if c.dze then .error 0x10 else .ok 0xFFFFFFFFFFFFFFFF) else .ok (wd (x.toNat / y.toNat)) := by
  rw [divU, udiv_eq_ofNat]; rfl

theorem remU_eq (c : Ctx) (x y : Word) : remU c.dze x y =
    if y = 0 then (if c.dze then .error 0x10 else .ok x) else .ok (wd (x.toNat % y.toNat)) := by
  rw [remU, umod_eq_ofNat]

theorem divS_eq (c : Ctx) (x y : Word) : divS c.dze c.ove x y =
    if y = 0 then (if c.dze then .error 0x10 else .ok 0xFFFFFFFFFFFFFFFF)
    else if x = 0x8000000000000000 ∧ y = 0xFFFFFFFFFFFFFFFF then (if c.ove then .error 0x11 else .ok x)
    else .ok (BitVec.ofInt 64 (x.toInt.tdiv y.toInt)) := by
  simp only [divS, sdiv_eq_ofInt, divOverflows_iff]; rfl

theorem remS_eq (c : Ctx) (x y : Word) : remS c.dze c.ove x y =
    if y = 0 then (if c.dze then .error 0x10 else .ok x)
    else if x = 0x8000000000000000 ∧ y = 0xFFFFFFFFFFFFFFFF then (if c.ove then .error 0x11 else .ok 0)
    else .ok (BitVec.ofInt 64 (x.toInt.tmod y.toInt)) := by
  simp only [remS, srem_eq_ofInt, divOverflows_iff]

/-! ### One step of a division (R80) -/

/-- The 65 high bits of the shifted pair, with which the divisor is compared. -/
def dstepHigh (hi lo : Word) : BitVec 65 := ((hi ++ lo : BitVec 128).zeroExtend 129 <<< 1).extractLsb' 64 65

theorem dstepHigh_toNat (hi lo : Word) : (dstepHigh hi lo).toNat = 2 * hi.toNat + lo.toNat / 2 ^ 63 := by
  simp only [dstepHigh, BitVec.extractLsb'_toNat, BitVec.toNat_shiftLeft, BitVec.toNat_setWidth, toNat_append_eq_add,
    Nat.shiftLeft_eq, Nat.shiftRight_eq_div_pow]
  omega

theorem dstepHigh_truncate (hi lo : Word) : (dstepHigh hi lo).truncate 64 = hi <<< 1 ||| lo >>> 63 := by
  have hl : (lo >>> 63 : Word).toNat = lo.toNat / 2 ^ 63 := by
    rw [BitVec.toNat_ushiftRight, Nat.shiftRight_eq_div_pow]
  apply BitVec.eq_of_toNat_eq
  rw [BitVec.truncate_eq_setWidth, BitVec.toNat_setWidth, dstepHigh_toNat, toNat_shiftLeft_or _ _ (by omega), hl]
  omega

theorem dstepLow_eq (hi lo : Word) : ((hi ++ lo : BitVec 128).zeroExtend 129 <<< 1).extractLsb' 0 64 = lo <<< 1 := by
  apply BitVec.eq_of_toNat_eq
  simp only [BitVec.extractLsb'_toNat, BitVec.toNat_shiftLeft, BitVec.toNat_setWidth, toNat_append_eq_add,
    Nat.shiftLeft_eq, Nat.shiftRight_eq_div_pow]
  omega

/-- The divisor fits when the bit shifted out is 1 or it is at most the 64 bits that stay. -/
theorem le_dstepHigh_iff (hi lo d : Word) :
    d.zeroExtend 65 ≤ dstepHigh hi lo ↔ (hi.msb || decide (d ≤ hi <<< 1 ||| lo >>> 63)) = true := by
  rw [← dstepHigh_truncate, BitVec.msb_eq_decide, ← Bool.decide_or, decide_eq_true_eq, BitVec.le_def, BitVec.le_def,
    BitVec.truncate_eq_setWidth, BitVec.toNat_setWidth, BitVec.toNat_setWidth, dstepHigh_toNat]
  omega

theorem truncate_sub_zeroExtend (h : BitVec 65) (d : Word) : (h - d.zeroExtend 65).truncate 64 = h.truncate 64 - d := by
  apply BitVec.eq_of_toNat_eq
  simp only [BitVec.truncate_eq_setWidth, BitVec.toNat_setWidth, BitVec.toNat_sub]
  omega

theorem dstepW_eq (hi lo d : Word) :
    dstepW hi lo d =
      let fits := decide (d.zeroExtend 65 ≤ dstepHigh hi lo)
      ((if fits then dstepHigh hi lo - d.zeroExtend 65 else dstepHigh hi lo).truncate 64,
        lo <<< 1 ||| (if fits then 1 else 0)) := by
  by_cases h : d.zeroExtend 65 ≤ dstepHigh hi lo
  · rw [dstepW, if_pos ((le_dstepHigh_iff hi lo d).1 h)]
    simp only [h, decide_true, if_true, truncate_sub_zeroExtend, dstepHigh_truncate]
  · rw [dstepW, if_neg (mt (le_dstepHigh_iff hi lo d).2 h)]
    simp only [h, decide_false, Bool.false_eq_true, if_false, dstepHigh_truncate]
    rw [show (0 : Word) = 0#64 from rfl, BitVec.or_zero]

/-! ### How a row of a group runs -/

/-- An instruction that can issue and is not one of ops 0x30 to 0x33 has an assigned encoding (R72). -/
theorem bad_eq_false_of_canIssue {s : State} {cx : CtxId} {ins : Ins} (h : canIssue s cx ins = true)
    (hf : ins.fp = false) : ins.bad = false := by
  simp only [canIssue, hf, Bool.false_or, Bool.and_eq_true, Bool.not_eq_true'] at h
  obtain ⟨⟨⟨-, hb, -⟩, -⟩, -⟩ := h
  exact hb

theorem runs_of_done {i : Instr} {s : State} {cx : CtxId} {ins : Ins} {body : Ctx → State → Res} {f : Ctx → Ctx}
    (h : canIssue s cx ins = true) (he : exec i s = issue cx ins body s)
    (hb : body (cpu s cx) (begun s cx) = .done (setCtx (begun s cx) cx (f (cpu s cx)))) : Runs i s cx f :=
  he.trans (issue_done h hb)

theorem putAlu_eq (s : State) (cx : CtxId) (c : Ctx) (rd : Reg) (sf : Bool) (r : Alu) :
    putAlu s cx c rd sf r = .done (setCtx s cx (aluOut c rd sf (aluPair r))) := rfl

theorem aluRow_of {i : CtxId → Bool → Reg → Reg → Reg → Instr} {func : Nat} {f : Flags → Word → Word → Word × Flags}
    {g : Flags → Word → Word → Alu} (hg : ∀ fl x y, aluPair (g fl x y) = f fl x y)
    (he : ∀ cx sf rd a b s, exec (i cx sf rd a b) s = aluRR cx func sf rd a b g s := by intros; rfl) : AluRow i func f :=
  fun s cx sf rd a b h => runs_of_done h (he cx sf rd a b s) (by rw [putAlu_eq, hg])

theorem aluRow_nz {i : CtxId → Bool → Reg → Reg → Reg → Instr} {func : Nat} {f g : Word → Word → Word}
    (hg : ∀ x y, g x y = f x y)
    (he : ∀ cx sf rd a b s, exec (i cx sf rd a b) s = aluRR cx func sf rd a b (fun fl x y => aluNz fl (g x y)) s := by
      intros; rfl) :
    AluRow i func fun fl x y => nz fl (f x y) :=
  aluRow_of (fun fl x y => by rw [hg, aluPair_aluNz]) he

theorem aluRow1_of {i : CtxId → Bool → Reg → Reg → Instr} {func : Nat} {f g : Word → Word} (hg : ∀ x, g x = f x)
    (he : ∀ cx sf rd a s, exec (i cx sf rd a) s = aluR cx func sf rd a g s := by intros; rfl) : AluRow1 i func f :=
  fun s cx sf rd a h => runs_of_done h (he cx sf rd a s) (by rw [putAlu_eq, hg, aluPair_aluNz])

/-- A shift amount that R76 admits is not negative as a signed immediate. -/
theorem toNat_signExtend_lt {imm : BitVec 11} (h : imm.toNat < 64) : (imm.signExtend 64).toNat < 64 := by
  have hm : imm.msb = false := by
    rw [BitVec.msb_eq_decide]; exact decide_eq_false (by omega)
  rw [BitVec.signExtend_eq_setWidth_of_msb_false hm, BitVec.toNat_setWidth]
  omega

/-- A row of R76: the value need be right only for the shift amounts that the row admits. -/
theorem aluRowI_of {i : CtxId → Bool → Reg → Reg → BitVec 11 → Instr} {sub : Nat} {shift : Bool}
    {f : Flags → Word → Word → Word × Flags} {g : Flags → Word → Word → Alu}
    (hg : ∀ fl x y, (shift = true → y.toNat < 64) → aluPair (g fl x y) = f fl x y)
    (he : ∀ cx sf rd a imm s, exec (i cx sf rd a imm) s = aluRI cx sub (shift && shiftBad imm) sf rd a imm g s := by
      intros; rfl) : AluRowI i sub shift f := by
  intro s cx sf rd a imm h
  have hs : shift = true → (imm.signExtend 64).toNat < 64 := fun ht => by
    have hb := bad_eq_false_of_canIssue h rfl
    simp only [ht, Bool.true_and, decide_eq_false_iff_not] at hb
    exact toNat_signExtend_lt (by omega)
  exact runs_of_done h (he cx sf rd a imm s) (by rw [putAlu_eq, sextImm, hg _ _ _ hs])

theorem aluRowI_nz {i : CtxId → Bool → Reg → Reg → BitVec 11 → Instr} {sub : Nat} {shift : Bool} {f g : Word → Word → Word}
    (hg : ∀ x y, (shift = true → y.toNat < 64) → g x y = f x y)
    (he : ∀ cx sf rd a imm s, exec (i cx sf rd a imm) s =
      aluRI cx sub (shift && shiftBad imm) sf rd a imm (fun fl x y => aluNz fl (g x y)) s := by intros; rfl) :
    AluRowI i sub shift fun fl x y => nz fl (f x y) :=
  aluRowI_of (fun fl x y hs => by rw [hg x y hs, aluPair_aluNz]) he

theorem mulRow_of {i : CtxId → Reg → Reg → Reg → Instr} {func : Nat} {f g : Word → Word → Word}
    (hg : ∀ x y, g x y = f x y)
    (he : ∀ cx rd a b s, exec (i cx rd a b) s = mulRR cx func rd a b g s := by intros; rfl) : MulRow i func f :=
  fun s cx rd a b h => runs_of_done h (he cx rd a b s) (by rw [hg])

/-- A divide waits for its context's divider, faults with nothing written, or gives the divider its value (R79). -/
theorem divRow_of {i : CtxId → Reg → Reg → Reg → Instr} {func : Nat} {f g : Ctx → Word → Word → DivRes}
    (hg : ∀ c x y, g c x y = f c x y)
    (he : ∀ cx rd a b s, exec (i cx rd a b) s = divRR cx func rd a b g s := by intros; rfl) : DivRow i func f := by
  obtain rfl : g = f := by funext c x y; exact hg c x y
  intro s cx rd a b h
  cases hd : (cpu s cx).div with
  | some d => exact (he cx rd a b s).trans (issue_stall h (by rw [hd]; rfl))
  | none =>
    cases hv : g (cpu s cx) (readInt (cpu s cx) a) (readInt (cpu s cx) b) with
    | error k => exact (he cx rd a b s).trans (issue_fault h (by rw [hd, hv]; rfl))
    | ok v => exact runs_of_done h (he cx rd a b s) (by rw [hd, hv]; rfl)

/-! ### The delivery of a divide (R78) -/

theorem writeKey_bank_same (c : Ctx) (k : Nat) (v : Cap) : smGet Cap.null (writeKey c k v).bank k = v :=
  smGet_set_same _ _ _ _

theorem writeKey_bank_other {k j : Nat} (h : j ≠ k) (c : Ctx) (v : Cap) :
    smGet Cap.null (writeKey c k v).bank j = smGet Cap.null c.bank j :=
  smGet_set_other h _ _ _ _

theorem starve_bank (c : Ctx) : (starve c).bank = c.bank := by
  unfold starve; split <;> rfl

theorem starve_div (c : Ctx) : (starve c).div = c.div := by
  unfold starve; split <;> rfl

/-- A wake leaves the context as it is, or only changes how it runs. -/
theorem ctxAt_wakeIf (s : State) (cx : CtxId) (w : Why) :
    ctxAt (wakeIf s cx w) cx = ctxAt s cx ∨
      ctxAt (wakeIf s cx w) cx = starve { ctxAt s cx with run := .ready, why := none } := by
  simp only [wakeIf, wake]
  split_ifs <;> simp

theorem wakeIf_bank (s : State) (cx : CtxId) (w : Why) : (ctxAt (wakeIf s cx w) cx).bank = (ctxAt s cx).bank := by
  rcases ctxAt_wakeIf s cx w with h | h <;> rw [h]
  exact starve_bank _

theorem wakeIf_div (s : State) (cx : CtxId) (w : Why) : (ctxAt (wakeIf s cx w) cx).div = (ctxAt s cx).div := by
  rcases ctxAt_wakeIf s cx w with h | h <;> rw [h]
  exact starve_div _

/-- The context with its divider's value delivered and its divider free; key 0 has no register to write. -/
def divDelivered (c : Ctx) (k : Nat) (v : Word) : Ctx :=
  { (if k = 0 then c else writeKey c k (intCap v)) with div := none }

theorem divDelivered_bank_same {k : Nat} (hk : k ≠ 0) (c : Ctx) (v : Word) :
    smGet Cap.null (divDelivered c k v).bank k = intCap v := by
  simp only [divDelivered, if_neg hk]
  exact writeKey_bank_same c k (intCap v)

theorem divDelivered_bank_other {k j : Nat} (hj : j ≠ k) (c : Ctx) (v : Word) :
    smGet Cap.null (divDelivered c k v).bank j = smGet Cap.null c.bank j := by
  by_cases hk : k = 0
  · simp only [divDelivered, if_pos hk]
  · simp only [divDelivered, if_neg hk]
    exact writeKey_bank_other hj c (intCap v)

theorem exec_divideResult {s : State} {cx : CtxId} {k : Nat} {v : Word} (h : (ctxAt s cx).div = some (k, v)) :
    exec (.divideResult cx) s = .next (wakeIf (setCtx s cx (divDelivered (ctxAt s cx) k v)) cx .divider) := by
  change execDivideResult cx s = _
  simp only [execDivideResult, h]
  rfl

/-! ### The obligations -/

/-- Settles O1: each row runs as its group does, with the value that R74 gives. -/
theorem aluRegisterResults : Obligations.AluRegisterResults := by
  unfold Obligations.AluRegisterResults
  exact ⟨
    aluRow_of fun _ x y => aluPair_aluAdd (addRes_false x y),
    aluRow_of fun f x y => aluPair_aluAdd (addRes_eq x y f.c),
    aluRow_of fun _ x y => aluPair_aluAdd (addRes_not_true x y),
    aluRow_of fun f x y => aluPair_aluAdd (addRes_not x y f.c),
    aluRow_nz fun _ _ => rfl,
    aluRow_nz fun _ _ => rfl,
    aluRow_nz fun _ _ => rfl,
    aluRow_nz fun _ _ => rfl,
    aluRow_nz shiftLeft_mod64,
    aluRow_nz shiftRight_mod64,
    aluRow_nz sshiftRight_mod64,
    aluRow_nz rorW_mod64,
    aluRow_nz fun x y => ite_slt x y x y,
    aluRow_nz fun x y => ite_slt x y y x,
    aluRow_nz fun x y => ite_lt x y x y,
    aluRow_nz fun x y => ite_lt x y y x,
    aluRow_nz fun x y => ite_slt x y 1 0,
    aluRow_nz boolW_lt,
    aluRow1_of fun x => congrArg wd (clzW_eq x),
    aluRow1_of fun x => congrArg wd (ctzN_eq_takeWhile 64 x.toNat),
    aluRow1_of fun x => congrArg wd (popcount_eq_filter 64 x.toNat),
    aluRow1_of bswapW_eq,
    aluRow1_of (sextW_eq (by decide)),
    aluRow1_of (sextW_eq (by decide)),
    aluRow1_of (sextW_eq (by decide)),
    aluRow1_of (and_mask_eq_zeroExtend (by decide)),
    aluRow1_of (and_mask_eq_zeroExtend (by decide))⟩

/-- Settles O2: as O1; the encoding of a shift that issues has an amount below 64. -/
theorem aluImmediateResults : Obligations.AluImmediateResults := by
  unfold Obligations.AluImmediateResults
  exact ⟨
    aluRowI_of fun _ x y _ => aluPair_aluAdd (addRes_false x y),
    aluRowI_of fun _ x y _ => aluPair_aluAdd (addRes_not_true x y),
    aluRowI_nz fun _ _ _ => rfl,
    aluRowI_nz fun _ _ _ => rfl,
    aluRowI_nz fun _ _ _ => rfl,
    aluRowI_nz fun x _ h => shiftLeft_mod64_of_lt x (h rfl),
    aluRowI_nz fun x _ h => shiftRight_mod64_of_lt x (h rfl),
    aluRowI_nz fun x _ h => sshiftRight_mod64_of_lt x (h rfl),
    aluRowI_nz fun x _ h => rorW_mod64_of_lt x (h rfl),
    aluRowI_nz fun x y _ => ite_slt x y 1 0,
    aluRowI_nz fun x y _ => boolW_lt x y,
    fun s cx rd imm h => runs_of_done h (he := (rfl : exec (.movi cx rd imm) s = execMovi cx rd imm s)) rfl,
    by simpa only [← shiftLeft_or_eq_append] using fun s cx rd imm h =>
      runs_of_done h (he := (rfl : exec (.movsh cx rd imm) s = execMovsh cx rd imm s)) rfl⟩

/-- Settles O3: the rows run as their groups do, with the values of R78 to R80. -/
theorem multiplyDivideResults : Obligations.MultiplyDivideResults := by
  unfold Obligations.MultiplyDivideResults
  refine ⟨mulRow_of fun _ _ => rfl, mulRow_of mulHiU_eq, mulRow_of mulHiS_eq,
    divRow_of divU_eq, divRow_of divS_eq, divRow_of remU_eq, divRow_of remS_eq, ?_, ?_⟩
  · intro s cx k v h
    refine ⟨_, exec_divideResult h, ?_, fun hk => ?_, fun j hj => ?_, ?_⟩
    · rw [wakeIf_div, ctxAt_setCtx_same]; rfl
    · rw [wakeIf_bank, ctxAt_setCtx_same, divDelivered_bank_same hk]
    · rw [wakeIf_bank, ctxAt_setCtx_same, divDelivered_bank_other hj]
    · rw [wakeIf_mem, setCtx_mem]
  · intro s cx rd d heven hlow h
    have hbad : (decide (rd.toNat % 2 = 1) || decide (rd.toNat < 8)) = false := by
      simp only [Bool.or_eq_false_iff, decide_eq_false_iff_not]; omega
    change execDstep cx rd d s = _
    rw [execDstep, hbad, issue_done h rfl]
    simp only [dstepW_eq, dstepLow_eq]
    rfl

end Sys2Proof.Integer

namespace Sys2Proof.Calls
/-! SUPPORT. Window calls and returns (chapter 5, R101, R102, R116): an instruction that can issue goes, branches or faults
as its body says, and the obligation on the group is settled. -/
open Sys2Proof Sys2Proof.Machine Sys2Proof.Laws

/-! ### How an instruction leaves -/

theorem goes_of_jump {i : Instr} {s : State} {cx : CtxId} {ins : Ins} {body : Ctx → State → Res} {f : Ctx → Ctx} {p : Cap}
    (h : canIssue s cx ins = true) (he : exec i s = issue cx ins body s)
    (hb : body (cpu s cx) (begun s cx) = .jump (setCtx (begun s cx) cx (f (cpu s cx))) p) : Goes i s cx f p :=
  he.trans (issue_jump h hb)

theorem branches_of_branch {i : Instr} {s : State} {cx : CtxId} {ins : Ins} {body : Ctx → State → Res} {f : Ctx → Ctx}
    {x : Nat} (h : canIssue s cx ins = true) (he : exec i s = issue cx ins body s)
    (hb : body (cpu s cx) (begun s cx) = .branch (setCtx (begun s cx) cx (f (cpu s cx))) x) : Branches i s cx f x :=
  he.trans (issue_branch h hb)

/-- A fault records the instruction's word alone, not what it reads or writes. -/
theorem traps_of_fault {i : Instr} {s : State} {cx : CtxId} {ins ins' : Ins} {body : Ctx → State → Res} {f : FaultInfo}
    (h : canIssue s cx ins = true) (he : exec i s = issue cx ins body s)
    (hb : body (cpu s cx) (begun s cx) = .fault (begun s cx) f) (hw : ins.word = ins'.word := by rfl) :
    Traps i s cx ins' f := by
  rw [Traps, ← hw]
  exact he.trans (issue_fault h hb)

/-! ### The fault of a target (R83) -/

theorem wd_capCursor (t : Cap) : wd (capCursor t) = t.bits.truncate 64 := by
  apply BitVec.eq_of_toNat_eq
  simp [capCursor, capBits, nfld]

theorem targetFault_eq_branchFault (t : Cap) (reg : Reg) (k : Nat) : targetFault t reg k = branchFault t reg k := by
  rw [targetFault, branchFault, wd_capCursor]

/-! ### The checks and the effect of a window call (R101) -/

theorem callWindow_some (s : State) (cx : CtxId) (c : Ctx) (f : FaultInfo) (go : State → Res) :
    callWindow s cx c (some f) go = .fault s f := rfl

theorem callWindow_full {c : Ctx} (h : c.depth = 7) (s : State) (cx : CtxId) (go : State → Res) :
    callWindow s cx c none go = .fault s { kind := 0x0E } := if_pos h

theorem callWindow_enters {c : Ctx} (h : c.depth ≠ 7) (s : State) (cx : CtxId) (go : State → Res) :
    callWindow s cx c none go = go (setCtx s cx (enterFrame c)) := if_neg h

/-! ### The alert word in l6 (R115, R116) -/

theorem bitAt_eq_getLsbD (w : Word) (i : Nat) : bitAt w i = w.getLsbD i := rfl

theorem fld_eq_extractLsb' (w : Word) (hi lo : Nat) : fld w hi lo = (w.extractLsb' lo (hi + 1 - lo)).toNat := by
  rw [fld, BitVec.extractLsb'_toNat, Nat.shiftRight_eq_div_pow]

theorem fld_eq_zero_iff (w : Word) (hi lo : Nat) : fld w hi lo = 0 ↔ w.extractLsb' lo (hi + 1 - lo) = 0 := by
  rw [fld_eq_extractLsb', ← BitVec.toNat_inj]; rfl

/-- What l6 must hold for RETA to restore it: [30:4] zero, and REPACTIVE set just when REPCNT is not zero. -/
abbrev AlertWordGood (w : Word) : Prop :=
  w.extractLsb' 4 27 = 0 ∧ (w.getLsbD 31 = true ↔ w.extractLsb' 32 32 ≠ 0)

/-- The test of R116 on l6 as the model makes it. -/
theorem retaIllegal_iff (w : Word) :
    (fld w 30 4 ≠ 0 ∨ bitAt w 31 = decide (fld w 63 32 = 0)) ↔ ¬AlertWordGood w := by
  have hcnt : decide (fld w 63 32 = 0) = decide (w.extractLsb' 32 32 = 0) := decide_eq_decide.2 (fld_eq_zero_iff w 63 32)
  have hmid : fld w 30 4 = 0 ↔ w.extractLsb' 4 27 = 0 := fld_eq_zero_iff w 30 4
  rw [AlertWordGood, bitAt_eq_getLsbD, ne_eq, hmid, hcnt, not_and_or]
  refine or_congr_right ?_
  cases w.getLsbD 31 <;> simp

theorem ofNat_fld_repCnt (w : Word) : BitVec.ofNat 32 (fld w 63 32) = w.extractLsb' 32 32 := by
  rw [fld_eq_extractLsb']; exact BitVec.ofNat_toNat _ _ |>.trans (BitVec.setWidth_eq _)

/-! ### The rows in the terms of the statements -/

theorem exec_callw (cx : CtxId) (imm : BitVec 26) (s : State) :
    exec (.callw cx imm) s = issue cx { word := wJump 0x20 imm } (fun c s =>
      callWindow s cx c (branchBad c (branchTarget c imm)) fun s => .branch s (branchTarget c imm)) s := rfl

theorem exec_callwr (cx : CtxId) (a : Reg) (s : State) :
    exec (.callwr cx a) s = issue cx { word := wReg 0x21 0 a 0 0, reads := [a] } (fun c s =>
      callWindow s cx c ((targetCheck (readReg c a)).map (branchFault (readReg c a) a)) fun s =>
        .jump s (targetPcc (readReg c a))) s := by
  simp only [← funext (targetFault_eq_branchFault _ a)]
  rfl

/-- The return of RETW and RETA once its other checks have passed: l7 is checked, and the frame below is entered with the
context changed by `f` (R102, R116). -/
def returnTo (s : State) (cx : CtxId) (c : Ctx) (f : Ctx → Ctx) : Res :=
  match targetCheck (readReg c 23) with
  | some k => .fault s (branchFault (readReg c 23) 23 k)
  | none => .jump (setCtx s cx (f c)) (targetPcc (readReg c 23))

theorem returnTo_bad {c : Ctx} {k : Nat} (h : targetCheck (readReg c 23) = some k) (s : State) (cx : CtxId)
    (f : Ctx → Ctx) : returnTo s cx c f = .fault s (branchFault (readReg c 23) 23 k) := by
  rw [returnTo, h]

theorem returnTo_good {c : Ctx} (h : targetCheck (readReg c 23) = none) (s : State) (cx : CtxId) (f : Ctx → Ctx) :
    returnTo s cx c f = .jump (setCtx s cx (f c)) (targetPcc (readReg c 23)) := by
  rw [returnTo, h]

theorem exec_retw (cx : CtxId) (s : State) :
    exec (.retw cx) s = issue cx { word := wReg 0x21 0 0 0 1, reads := [23] } (fun c s =>
      if c.depth = 0 then .fault s { kind := 0x0F } else returnTo s cx c popFrame) s := by
  simp only [returnTo, ← targetFault_eq_branchFault]
  rfl

/-- The frame below, with the flags, the repeat and EM as the alert word `w` of l6 gives them (R116). -/
def restoreAlert (w : Word) (c : Ctx) : Ctx :=
  { popFrame c with
    em := false, repU := false, repAct := w.getLsbD 31, repCnt := w.extractLsb' 32 32
    flags := { n := w.getLsbD 3, z := w.getLsbD 2, c := w.getLsbD 1, v := w.getLsbD 0 } }

theorem exec_reta (cx : CtxId) (s : State) :
    exec (.reta cx) s = issue cx { word := wReg 0x21 0 0 0 2, reads := [22, 23] } (fun c s =>
      if c.depth = 0 then .fault s { kind := 0x0F }
      else if ¬AlertWordGood (readInt c 22) then .fault s { kind := 0x0C }
      else returnTo s cx c (restoreAlert (readInt c 22))) s := by
  simp only [returnTo, ← targetFault_eq_branchFault, ← retaIllegal_iff, restoreAlert, ← ofNat_fld_repCnt]
  rfl

/-! ### The obligation -/

/-- Settles O5: the rows check in the order of R101, R102 and R116, and each check that fails ends the instruction. -/
theorem windowCallResults : Obligations.WindowCallResults := by
  unfold Obligations.WindowCallResults
  refine ⟨fun s cx imm h => ?_, fun s cx a h => ?_, fun s cx h => ?_, fun s cx h => ?_⟩
  · intro x
    split
    next hbad => exact traps_of_fault h (exec_callw cx imm s) (by rw [hbad, callWindow_some])
    next hbad hfull =>
      exact traps_of_fault h (exec_callw cx imm s) (by rw [hbad, callWindow_full (of_decide_eq_true hfull)])
    next hbad hfull =>
      exact branches_of_branch h (exec_callw cx imm s) (by rw [hbad, callWindow_enters (of_decide_eq_false hfull)]; rfl)
  · split
    next hbad => exact traps_of_fault h (exec_callwr cx a s) (by rw [hbad, Option.map_some, callWindow_some])
    next hbad hfull =>
      exact traps_of_fault h (exec_callwr cx a s) (by
        rw [hbad, Option.map_none, callWindow_full (of_decide_eq_true hfull)])
    next hbad hfull =>
      exact goes_of_jump h (exec_callwr cx a s) (by
        rw [hbad, Option.map_none, callWindow_enters (of_decide_eq_false hfull)]; rfl)
  · split
    next hd => exact traps_of_fault h (exec_retw cx s) (if_pos (of_decide_eq_true hd))
    next hd ht =>
      exact traps_of_fault h (exec_retw cx s) ((if_neg (of_decide_eq_false hd)).trans (returnTo_bad ht _ _ _))
    next hd ht =>
      exact goes_of_jump h (exec_retw cx s) ((if_neg (of_decide_eq_false hd)).trans (returnTo_good ht _ _ _))
  · refine ⟨fun hd => ?_, fun hd hg => ?_, fun k hd hg ht => ?_, fun hg hd ht => ?_⟩
    · exact traps_of_fault h (exec_reta cx s) (if_pos hd)
    · exact traps_of_fault h (exec_reta cx s) ((if_neg hd).trans (if_pos hg))
    · exact traps_of_fault h (exec_reta cx s)
        ((if_neg hd).trans ((if_neg (not_not_intro hg)).trans (returnTo_bad ht _ _ _)))
    · exact goes_of_jump (f := restoreAlert (readInt (cpu s cx) 22)) h (exec_reta cx s)
        ((if_neg hd).trans ((if_neg (not_not_intro hg)).trans (returnTo_good ht _ _ _)))

end Sys2Proof.Calls

namespace Sys2Proof.Engines
/-! SUPPORT. The row of an engine's operation (R236 to R240): a descriptor that is placed, passes its tests and has its inputs
read whole ends as its operation says. -/
open Sys2Proof Sys2Proof.Machine

theorem engRow_of_placed {s s1 : State} {e : Eng} {r : BitVec 4} {i op : Nat} {d : EngDesc}
    (h : engPlaced s e r.toNat i op false = some (d, s1)) (act : EngDesc → State → State) :
    engRow e op r i act s = .next (act d s1) := by
  obtain ⟨d0, hready, hplace⟩ := Option.map_eq_some_iff.mp h
  simp only [engRow, engRowOf, hready, hplace]

theorem engRun_of_pass {s t : State} {e : Eng} {r i : Nat} {d : EngDesc} {f : EngForm}
    (h : engPass s e r i d.raw f = some t) (act : State → State) : engRun s e r i d f act = act t := by
  unfold engPass at h
  split at h
  next hok =>
    obtain ⟨haccept, hcaps⟩ := hok
    split at h
    next t0 hpages =>
      cases h
      simp only [engRun, haccept, hcaps, hpages, ne_eq, not_true_eq_false, if_false]
    next => cases h
  next => cases h

theorem engRead_of_input {s u : State} {e : Eng} {r i : Nat} {xs : List EngSlot} {b : Nat → List Byte}
    (h : engInput s e r xs = some (b, u)) (act : (Nat → List Byte) → State → State) :
    engRead s e r i xs act = act b u := by
  unfold engInput at h
  split at h
  next ps s1 hpieces =>
    split at h
    next s2 hready =>
      split at h
      next ds s3 hread =>
        split at h
        next hclean =>
          cases h
          simp only [engRead, hpieces, hready, hread, hclean]
        next => cases h
      next => cases h
    next => cases h
  next => cases h

/-- A row that tests its descriptor and reads its inputs, and whose `finish` gives what `out` says of them. -/
theorem engOp_of_row {x : Instr} {s : State} {e : Eng} {r : BitVec 4} {i op : Nat} {may : EngDesc → State → Prop}
    {form : EngDesc → EngForm} {ins : EngDesc → List EngSlot} {out finish : EngDesc → (Nat → List Byte) → State → State}
    {act : EngDesc → State → State} (hrow : exec x s = engRow e op r i act s)
    (hact : ∀ d s1 t, may d t → act d s1 =
      engRun s1 e r.toNat i d (form d) fun s => engRead s e r.toNat i (ins d) (finish d))
    (hout : ∀ d b u, finish d b u = out d b u) : EngOp x s e r i op may form ins out := by
  intro d s1 t b u hplaced hpass hmay hinput
  rw [hrow, engRow_of_placed hplaced, hact d s1 t hmay, engRun_of_pass hpass, engRead_of_input hinput, hout]

end Sys2Proof.Engines

namespace Sys2Proof.Chunker
/-! SUPPORT. The Chunker (chapter 13, R252 to R261): CHUNK and FPRINT go through the row of an engine's operation, and the
obligation on the unit is settled. -/
open Sys2Proof Sys2Proof.Machine Sys2Proof.Engines

theorem exec_chunk (r : BitVec 4) (i : Nat) (s : State) : exec (.chunk r i) s = execChunk r i s := by rfl

theorem exec_fprint (r : BitVec 4) (i : Nat) (s : State) : exec (.fprint r i) s = execFprint r i s := by rfl

/-- A CHUNK that begins a stream, or at the head of its ring, does not wait (R259). -/
theorem chunk_starts {first : Bool} {i : Nat} (h : first = true ∨ i = 0) : ¬(!first && decide (i ≠ 0)) = true := by
  obtain rfl | rfl := h <;> simp

/-- Settles O32: CHUNK ends by LAST, with the records alone or with the carry block too, and FPRINT by VERIFY. -/
theorem chunkerResults : Obligations.ChunkerResults := by
  unfold Obligations.ChunkerResults
  intro s r i
  constructor
  · refine engOp_of_row (exec_chunk r i s) (fun d s1 t hmay => if_neg (chunk_starts hmay)) fun d b u => ?_
    cases edFlag d.raw 11 <;> rfl
  · refine engOp_of_row (exec_fprint r i s) (fun d s1 t _ => rfl) fun d b u => ?_
    cases edFlag d.raw 10 <;> rfl

end Sys2Proof.Chunker
